-- ==== Sys2Proof/Word.lean ====
section
/-! DEFINITION. The widths the manual names, and nothing more. -/

namespace Sys2Proof

/-- One byte of memory (R4). -/
abbrev Byte := BitVec 8
/-- An instruction word (R34). -/
abbrev IWord := BitVec 32
/-- A register, a queue entry, an address (R28, R168). -/
abbrev Word := BitVec 64
/-- A set of virtual lanes: bit v is virtual lane v (R3, R367). -/
abbrev Mask := BitVec 32

end Sys2Proof
end

