-- ==== Sys2Proof/Syntax.lean ====
section
/-! DEFINITION. The instruction syntax: one constructor for each row of spec/opcode_table.json, in its order.
The first 226 are instruction words (03 R34 to R42): each argument is a field of the word, named and sized as the table
gives it, and the fields a word does not use are no arguments (R36). The last 82 are the device's own steps, which have
no encoding (95_what_each_step_holds.md): their arguments name the object the step is about, and carry the choice that
the spec leaves to the device or the value that comes from outside it (which page of an arena, what the host writes). -/

namespace Sys2Proof

/-- One step of the device: an instruction word, or one of the steps that no word encodes. -/
inductive Instr where
  /-- ADD (R89): Adds two lane operands modulo 2^n, at 64 bits or at 32 bits with sign extension, and pushes the result. -/
  | add (d : BitVec 6) (a b : BitVec 7) (w : BitVec 1)
  /-- SUB (R89): Subtracts the second lane operand from the first modulo 2^n and pushes the result. -/
  | sub (d : BitVec 6) (a b : BitVec 7) (w : BitVec 1)
  /-- MUL (R89): Writes the low n bits of the product of two lane operands. -/
  | mul (d : BitVec 6) (a b : BitVec 7) (w : BitVec 1)
  /-- MULHU (R89): Writes the high n bits of the unsigned 2n-bit product of two lane operands. -/
  | mulhu (d : BitVec 6) (a b : BitVec 7) (w : BitVec 1)
  /-- MIN (R89): Writes the signed minimum of two lane operands. -/
  | min (d : BitVec 6) (a b : BitVec 7) (w : BitVec 1)
  /-- MAX (R89): Writes the signed maximum of two lane operands. -/
  | max (d : BitVec 6) (a b : BitVec 7) (w : BitVec 1)
  /-- MINU (R89): Writes the unsigned minimum of two lane operands. -/
  | minu (d : BitVec 6) (a b : BitVec 7) (w : BitVec 1)
  /-- MAXU (R89): Writes the unsigned maximum of two lane operands. -/
  | maxu (d : BitVec 6) (a b : BitVec 7) (w : BitVec 1)
  /-- DIVU (R89): Writes the unsigned quotient, or all ones on division by zero. -/
  | divu (d : BitVec 6) (a b : BitVec 7) (w : BitVec 1)
  /-- REMU (R89): Writes the unsigned remainder, or the dividend on division by zero. -/
  | remu (d : BitVec 6) (a b : BitVec 7) (w : BitVec 1)
  /-- AND (R89): Writes the bitwise AND of two lane operands. -/
  | and (d : BitVec 6) (a b : BitVec 7) (w : BitVec 1)
  /-- OR (R89): Writes the bitwise OR of two lane operands. -/
  | or (d : BitVec 6) (a b : BitVec 7) (w : BitVec 1)
  /-- XOR (R89): Writes the bitwise exclusive OR of two lane operands. -/
  | xor (d : BitVec 6) (a b : BitVec 7) (w : BitVec 1)
  /-- ANDN (R89): Writes the first operand ANDed with the complement of the second. -/
  | andn (d : BitVec 6) (a b : BitVec 7) (w : BitVec 1)
  /-- SHL (R89): Shifts the first operand left by the low bits of the second. -/
  | shl (d : BitVec 6) (a b : BitVec 7) (w : BitVec 1)
  /-- SHR (R89): Shifts the first operand right with zeros shifted in. -/
  | shr (d : BitVec 6) (a b : BitVec 7) (w : BitVec 1)
  /-- SAR (R89): Shifts the first operand right with sign copies shifted in. -/
  | sar (d : BitVec 6) (a b : BitVec 7) (w : BitVec 1)
  /-- POPC (R89): Writes the number of one bits in the operand. -/
  | popc (d : BitVec 6) (a : BitVec 7) (w : BitVec 1)
  /-- CLZ (R89): Writes the number of leading zero bits in the operand. -/
  | clz (d : BitVec 6) (a : BitVec 7) (w : BitVec 1)
  /-- CTZ (R89): Writes the number of trailing zero bits in the operand. -/
  | ctz (d : BitVec 6) (a : BitVec 7) (w : BitVec 1)
  /-- BFX (R89): Extracts a zero-extended bit field whose position and length come from the second operand. -/
  | bfx (d : BitVec 6) (a b : BitVec 7) (w : BitVec 1)
  /-- CEQ (R90): Writes 1 to a lane register when the operands are equal and 0 otherwise. -/
  | ceq (d : BitVec 6) (a b : BitVec 7)
  /-- CLT (R90): Writes 1 when a is less than b, signed. -/
  | clt (d : BitVec 6) (a b : BitVec 7)
  /-- CLTU (R90): Writes 1 when a is less than b, unsigned. -/
  | cltu (d : BitVec 6) (a b : BitVec 7)
  /-- GEQ (R91): Sets a guard to whether the operands are equal. -/
  | geq (g : BitVec 3) (a b : BitVec 7)
  /-- GNE (R91): Sets a guard to whether the operands differ. -/
  | gne (g : BitVec 3) (a b : BitVec 7)
  /-- GLT (R91): Sets a guard to a < b, signed. -/
  | glt (g : BitVec 3) (a b : BitVec 7)
  /-- GLE (R91): Sets a guard to a <= b, signed. -/
  | gle (g : BitVec 3) (a b : BitVec 7)
  /-- GLTU (R91): Sets a guard to a < b, unsigned. -/
  | gltu (g : BitVec 3) (a b : BitVec 7)
  /-- GLEU (R91): Sets a guard to a <= b, unsigned. -/
  | gleu (g : BitVec 3) (a b : BitVec 7)
  /-- GAND (R91): Sets a guard to the AND of two guards. -/
  | gand (g h j : BitVec 3)
  /-- GOR (R91): Sets a guard to the OR of two guards. -/
  | gor (g h j : BitVec 3)
  /-- GNOT (R91): Sets a guard to the complement of a guard. -/
  | gnot (g h : BitVec 3)
  /-- MAD_W (R92): Writes the 32-bit multiply-add of a, b and a queue entry, sign-extended. -/
  | madW (d : BitVec 6) (a b : BitVec 7) (c : BitVec 4)
  /-- MAD_D (R92): Writes the 64-bit multiply-add of a, b and a queue entry. -/
  | madD (d : BitVec 6) (a b : BitVec 7) (c : BitVec 4)
  /-- SHADD (R92): Writes a shifted left by b plus a queue entry. -/
  | shadd (d : BitVec 6) (a b : BitVec 7) (c : BitVec 4)
  /-- BFI (R92): Inserts a bit field of a into a queue entry at the position and length that b gives. -/
  | bfi (d : BitVec 6) (a b : BitVec 7) (c : BitVec 4)
  /-- ADDI (R93): Adds an immediate to a lane operand. -/
  | addi (d : BitVec 6) (a : BitVec 7) (i : BitVec 10)
  /-- ANDI (R93): ANDs a lane operand with an immediate. -/
  | andi (d : BitVec 6) (a : BitVec 7) (i : BitVec 10)
  /-- ORI (R93): ORs a lane operand with an immediate. -/
  | ori (d : BitVec 6) (a : BitVec 7) (i : BitVec 10)
  /-- XORI (R93): Exclusive-ORs a lane operand with an immediate. -/
  | xori (d : BitVec 6) (a : BitVec 7) (i : BitVec 10)
  /-- SHLI (R93): Shifts a lane operand left by an immediate of 0 to 63. -/
  | shli (d : BitVec 6) (a : BitVec 7) (i : BitVec 10)
  /-- SHRI (R93): Shifts a lane operand right logically by an immediate of 0 to 63. -/
  | shri (d : BitVec 6) (a : BitVec 7) (i : BitVec 10)
  /-- SARI (R93): Shifts a lane operand right arithmetically by an immediate of 0 to 63. -/
  | sari (d : BitVec 6) (a : BitVec 7) (i : BitVec 10)
  /-- CEQI (R90): Writes 1 when a lane operand equals an immediate. -/
  | ceqi (d : BitVec 6) (a : BitVec 7) (i : BitVec 10)
  /-- CLTI (R90): Writes 1 when a lane operand is less than an immediate, signed. -/
  | clti (d : BitVec 6) (a : BitVec 7) (i : BitVec 10)
  /-- GEQI (R91): Sets a guard to whether a lane operand equals an immediate. -/
  | geqi (g : BitVec 3) (a : BitVec 7) (i : BitVec 10)
  /-- GNEI (R91): Sets a guard to whether a lane operand differs from an immediate. -/
  | gnei (g : BitVec 3) (a : BitVec 7) (i : BitVec 10)
  /-- GLTI (R91): Sets a guard to whether a lane operand is less than an immediate, signed. -/
  | glti (g : BitVec 3) (a : BitVec 7) (i : BitVec 10)
  /-- SEL (R94): Writes a when the selecting guard is true and b otherwise. -/
  | sel (d : BitVec 6) (a b : BitVec 7) (g : BitVec 3)
  /-- SELN (R94): Writes b when the selecting guard is true and a otherwise. -/
  | seln (d : BitVec 6) (a b : BitVec 7) (g : BitVec 3)
  /-- FADD (R101): Adds two FP32 operands with one rounding. -/
  | fadd (d : BitVec 6) (a b : BitVec 7)
  /-- FSUB (R101): Subtracts two FP32 operands with one rounding. -/
  | fsub (d : BitVec 6) (a b : BitVec 7)
  /-- FMUL (R101): Multiplies two FP32 operands with one rounding. -/
  | fmul (d : BitVec 6) (a b : BitVec 7)
  /-- FMIN (R101): Writes the smaller of two FP32 operands, -0 below +0. -/
  | fmin (d : BitVec 6) (a b : BitVec 7)
  /-- FMAX (R101): Writes the larger of two FP32 operands. -/
  | fmax (d : BitVec 6) (a b : BitVec 7)
  /-- FABS (R101): Writes the FP32 operand with its sign cleared. -/
  | fabs (d : BitVec 6) (a : BitVec 7)
  /-- FNEG (R101): Writes the FP32 operand with its sign inverted. -/
  | fneg (d : BitVec 6) (a : BitVec 7)
  /-- FRINT (R101): Rounds an FP32 operand to an integer value in the mode in force. -/
  | frint (d : BitVec 6) (a : BitVec 7)
  /-- FMA (R102): Computes a times b plus a queue entry in FP32 with one rounding. -/
  | fma (d : BitVec 6) (a b : BitVec 7) (c : BitVec 4)
  /-- FMS (R102): Computes a times b minus a queue entry in FP32 with one rounding. -/
  | fms (d : BitVec 6) (a b : BitVec 7) (c : BitVec 4)
  /-- FNMA (R102): Computes minus a times b plus a queue entry in FP32 with one rounding. -/
  | fnma (d : BitVec 6) (a b : BitVec 7) (c : BitVec 4)
  /-- DFMA (R102): Computes a times b plus a queue entry in FP64 with one rounding. -/
  | dfma (d : BitVec 6) (a b : BitVec 7) (c : BitVec 4)
  /-- HADD2 (R103): Adds two BF16 pairs element by element. -/
  | hadd2 (d : BitVec 6) (a b : BitVec 7)
  /-- HMUL2 (R103): Multiplies two BF16 pairs element by element. -/
  | hmul2 (d : BitVec 6) (a b : BitVec 7)
  /-- HMIN2 (R103): Writes the element-wise minimum of two BF16 pairs. -/
  | hmin2 (d : BitVec 6) (a b : BitVec 7)
  /-- HMAX2 (R103): Writes the element-wise maximum of two BF16 pairs. -/
  | hmax2 (d : BitVec 6) (a b : BitVec 7)
  /-- HFMA2 (R103): Fused multiply-add of BF16 pairs with a queue entry, element by element. -/
  | hfma2 (d : BitVec 6) (a b : BitVec 7) (c : BitVec 4)
  /-- DOT4 (R104): Adds the dot product of four signed INT8 pairs to a queue entry modulo 2^32. -/
  | dot4 (d : BitVec 6) (a b : BitVec 7) (c : BitVec 4)
  /-- DADD (R101): Adds two FP64 operands with one rounding. -/
  | dadd (d : BitVec 6) (a b : BitVec 7)
  /-- DSUB (R101): Subtracts two FP64 operands with one rounding. -/
  | dsub (d : BitVec 6) (a b : BitVec 7)
  /-- DMUL (R101): Multiplies two FP64 operands with one rounding. -/
  | dmul (d : BitVec 6) (a b : BitVec 7)
  /-- DMIN (R101): Writes the smaller of two FP64 operands. -/
  | dmin (d : BitVec 6) (a b : BitVec 7)
  /-- DMAX (R101): Writes the larger of two FP64 operands. -/
  | dmax (d : BitVec 6) (a b : BitVec 7)
  /-- CVT_F32_S32 (R105): Converts a signed INT32 to FP32 with rounding. -/
  | cvtF32S32 (d : BitVec 6) (a : BitVec 7)
  /-- CVT_S32_F32 (R106): Converts FP32 to INT32 with rounding and saturation. -/
  | cvtS32F32 (d : BitVec 6) (a : BitVec 7)
  /-- CVT_U32_F32 (R106): Converts FP32 to unsigned 32-bit with rounding and saturation. -/
  | cvtU32F32 (d : BitVec 6) (a : BitVec 7)
  /-- CVT_F64_F32 (R105): Widens FP32 to FP64 exactly. -/
  | cvtF64F32 (d : BitVec 6) (a : BitVec 7)
  /-- CVT_F32_F64 (R105): Narrows FP64 to FP32 with rounding. -/
  | cvtF32F64 (d : BitVec 6) (a : BitVec 7)
  /-- CVT_F64_S64 (R105): Converts a signed INT64 to FP64 with rounding. -/
  | cvtF64S64 (d : BitVec 6) (a : BitVec 7)
  /-- CVT_S64_F64 (R106): Converts FP64 to INT64 with rounding and saturation. -/
  | cvtS64F64 (d : BitVec 6) (a : BitVec 7)
  /-- CVT_BF16_F32 (R105): Narrows FP32 to BF16 with rounding and updates AMAX. -/
  | cvtBf16F32 (d : BitVec 6) (a : BitVec 7)
  /-- CVT_F32_BF16 (R105): Widens BF16 to FP32 exactly. -/
  | cvtF32Bf16 (d : BitVec 6) (a : BitVec 7)
  /-- CVT_F16_F32 (R105): Narrows FP32 to FP16 with rounding and updates AMAX. -/
  | cvtF16F32 (d : BitVec 6) (a : BitVec 7)
  /-- CVT_F32_F16 (R105): Widens FP16 to FP32 exactly. -/
  | cvtF32F16 (d : BitVec 6) (a : BitVec 7)
  /-- PACK2 (R105): Rounds two FP32 operands to BF16 and packs them as a pair. -/
  | pack2 (d : BitVec 6) (a b : BitVec 7)
  /-- FCLT (R107): Writes 1 when FP32 a < b. -/
  | fclt (d : BitVec 6) (a b : BitVec 7)
  /-- FCLE (R107): Writes 1 when FP32 a <= b. -/
  | fcle (d : BitVec 6) (a b : BitVec 7)
  /-- FCEQ (R107): Writes 1 when FP32 a = b. -/
  | fceq (d : BitVec 6) (a b : BitVec 7)
  /-- FGLT (R107): Sets a guard to FP32 a < b. -/
  | fglt (g : BitVec 3) (a b : BitVec 7)
  /-- FGLE (R107): Sets a guard to FP32 a <= b. -/
  | fgle (g : BitVec 3) (a b : BitVec 7)
  /-- FGEQ (R107): Sets a guard to FP32 a = b. -/
  | fgeq (g : BitVec 3) (a b : BitVec 7)
  /-- FGNE (R107): Sets a guard to FP32 a != b or unordered. -/
  | fgne (g : BitVec 3) (a b : BitVec 7)
  /-- FGUN (R107): Sets a guard to whether the FP32 operands are unordered. -/
  | fgun (g : BitVec 3) (a b : BitVec 7)
  /-- DGLT (R107): Sets a guard to FP64 a < b. -/
  | dglt (g : BitVec 3) (a b : BitVec 7)
  /-- EX2 (R109): Computes 2^x in the fast or accurate grade. -/
  | ex2 (d : BitVec 6) (a : BitVec 7) (r : BitVec 1)
  /-- LG2 (R109): Computes log2 x in the fast or accurate grade. -/
  | lg2 (d : BitVec 6) (a : BitVec 7) (r : BitVec 1)
  /-- RCP (R109): Computes 1/x in the fast or accurate grade. -/
  | rcp (d : BitVec 6) (a : BitVec 7) (r : BitVec 1)
  /-- RSQ (R109): Computes the reciprocal square root in the fast or accurate grade. -/
  | rsq (d : BitVec 6) (a : BitVec 7) (r : BitVec 1)
  /-- SQRT (R109): Computes the square root in the fast or accurate grade. -/
  | sqrt (d : BitVec 6) (a : BitVec 7) (r : BitVec 1)
  /-- SINPI (R109): Computes sin(pi x) in the fast or accurate grade. -/
  | sinpi (d : BitVec 6) (a : BitVec 7) (r : BitVec 1)
  /-- COSPI (R109): Computes cos(pi x) in the fast or accurate grade. -/
  | cospi (d : BitVec 6) (a : BitVec 7) (r : BitVec 1)
  /-- TANH (R109): Computes tanh x in the fast or accurate grade. -/
  | tanh (d : BitVec 6) (a : BitVec 7) (r : BitVec 1)
  /-- SIGM (R109): Computes the logistic sigmoid in the fast or accurate grade. -/
  | sigm (d : BitVec 6) (a : BitVec 7) (r : BitVec 1)
  /-- GELU (R109): Computes x times the normal distribution function in the fast or accurate grade. -/
  | gelu (d : BitVec 6) (a : BitVec 7) (r : BitVec 1)
  /-- QSE3 (R111): Quantises the warp's 32 lanes into one SE3 block. -/
  | qse3 (d : BitVec 6) (a : BitVec 7)
  /-- QSE5 (R111): Quantises the warp's 32 lanes into one SE5 block. -/
  | qse5 (d : BitVec 6) (a : BitVec 7)
  /-- QSE8 (R111): Quantises the warp's 32 lanes into one SE8 block. -/
  | qse8 (d : BitVec 6) (a : BitVec 7)
  /-- DQSE3 (R112): Decodes the lane's SE3 element to FP32. -/
  | dqse3 (d : BitVec 6) (a : BitVec 7)
  /-- DQSE5 (R112): Decodes the lane's SE5 element to FP32. -/
  | dqse5 (d : BitVec 6) (a : BitVec 7)
  /-- DQSE8 (R112): Decodes the lane's SE8 element to FP32. -/
  | dqse8 (d : BitVec 6) (a : BitVec 7)
  /-- UADD (R95): Adds two uniform operands into a uniform register. -/
  | uadd (s : BitVec 1) (d : BitVec 5) (a b : BitVec 7)
  /-- USUB (R95): Subtracts two uniform operands. -/
  | usub (s : BitVec 1) (d : BitVec 5) (a b : BitVec 7)
  /-- UMUL (R95): Multiplies two uniform operands modulo 2^64. -/
  | umul (s : BitVec 1) (d : BitVec 5) (a b : BitVec 7)
  /-- UMIN (R95): Writes the signed minimum of two uniform operands. -/
  | umin (s : BitVec 1) (d : BitVec 5) (a b : BitVec 7)
  /-- UMAX (R95): Writes the signed maximum of two uniform operands. -/
  | umax (s : BitVec 1) (d : BitVec 5) (a b : BitVec 7)
  /-- UAND (R95): Writes the AND of two uniform operands. -/
  | uand (s : BitVec 1) (d : BitVec 5) (a b : BitVec 7)
  /-- UOR (R95): Writes the OR of two uniform operands. -/
  | uor (s : BitVec 1) (d : BitVec 5) (a b : BitVec 7)
  /-- USHL (R95): Shifts a uniform operand left. -/
  | ushl (s : BitVec 1) (d : BitVec 5) (a b : BitVec 7)
  /-- USHR (R95): Shifts a uniform operand right logically. -/
  | ushr (s : BitVec 1) (d : BitVec 5) (a b : BitVec 7)
  /-- UCEQ (R95): Writes 1 when two uniform operands are equal. -/
  | uceq (s : BitVec 1) (d : BitVec 5) (a b : BitVec 7)
  /-- UCLT (R95): Writes 1 when a < b, signed, for uniform operands. -/
  | uclt (s : BitVec 1) (d : BitVec 5) (a b : BitVec 7)
  /-- UCLTU (R95): Writes 1 when a < b, unsigned, for uniform operands. -/
  | ucltu (s : BitVec 1) (d : BitVec 5) (a b : BitVec 7)
  /-- UDIVU (R95): Writes the unsigned quotient of two uniform operands. -/
  | udivu (s : BitVec 1) (d : BitVec 5) (a b : BitVec 7)
  /-- UADDI (R95): Adds an immediate to a uniform operand. -/
  | uaddi (s : BitVec 1) (d : BitVec 5) (a : BitVec 7) (i : BitVec 10)
  /-- UANDI (R95): ANDs a uniform operand with an immediate. -/
  | uandi (s : BitVec 1) (d : BitVec 5) (a : BitVec 7) (i : BitVec 10)
  /-- USHLI (R95): Shifts a uniform operand left by an immediate. -/
  | ushli (s : BitVec 1) (d : BitVec 5) (a : BitVec 7) (i : BitVec 10)
  /-- USHRI (R95): Shifts a uniform operand right by an immediate. -/
  | ushri (s : BitVec 1) (d : BitVec 5) (a : BitVec 7) (i : BitVec 10)
  /-- UCEQI (R95): Writes 1 when a uniform operand equals an immediate. -/
  | uceqi (s : BitVec 1) (d : BitVec 5) (a : BitVec 7) (i : BitVec 10)
  /-- UCLTI (R95): Writes 1 when a uniform operand is less than an immediate, signed. -/
  | uclti (s : BitVec 1) (d : BitVec 5) (a : BitVec 7) (i : BitVec 10)
  /-- ULDA (R198): Loads a doubleword of the argument block into a uniform register. -/
  | ulda (s : BitVec 1) (d : BitVec 5) (a : BitVec 7) (o : BitVec 10)
  /-- ULDK (R198): Loads a doubleword of the constant segment into a uniform register. -/
  | uldk (s : BitVec 1) (d : BitVec 5) (a : BitVec 7) (o : BitVec 10)
  /-- ULD (R198): Loads a doubleword from a global, private or scratch address into a uniform register. -/
  | uld (d : BitVec 5) (a : BitVec 7) (o : BitVec 10)
  /-- UREADL (R97): Copies a lane operand of a chosen virtual lane into a uniform register. -/
  | ureadl (d : BitVec 5) (a b : BitVec 7)
  /-- UFIRST (R97): Copies the lane operand of the lowest issuing lane into a uniform register. -/
  | ufirst (d : BitVec 5) (a : BitVec 7)
  /-- LD (R189): Loads 1 to 16 bytes per lane through an address or descriptor, pushing the result. -/
  | ld (x : BitVec 6) (a : BitVec 7) (m : BitVec 1) (z c : BitVec 3) (o : BitVec 2) (p : BitVec 3)
  /-- ST (R190): Stores 1 to 16 bytes per guarded lane through an address or descriptor. -/
  | st (x a : BitVec 7) (m : BitVec 1) (z c : BitVec 3) (o : BitVec 2) (g : BitVec 3)
  /-- ATOM_ADD (R191): Atomically adds to memory and pushes the old value. -/
  | atomAdd (x : BitVec 6) (a : BitVec 7) (w : BitVec 1) (c : BitVec 3) (o : BitVec 2) (g : BitVec 3)
  /-- ATOM_MIN (R191): Atomically stores the signed minimum and pushes the old value. -/
  | atomMin (x : BitVec 6) (a : BitVec 7) (w : BitVec 1) (c : BitVec 3) (o : BitVec 2) (g : BitVec 3)
  /-- ATOM_MAX (R191): Atomically stores the signed maximum and pushes the old value. -/
  | atomMax (x : BitVec 6) (a : BitVec 7) (w : BitVec 1) (c : BitVec 3) (o : BitVec 2) (g : BitVec 3)
  /-- ATOM_AND (R191): Atomically ANDs into memory and pushes the old value. -/
  | atomAnd (x : BitVec 6) (a : BitVec 7) (w : BitVec 1) (c : BitVec 3) (o : BitVec 2) (g : BitVec 3)
  /-- ATOM_OR (R191): Atomically ORs into memory and pushes the old value. -/
  | atomOr (x : BitVec 6) (a : BitVec 7) (w : BitVec 1) (c : BitVec 3) (o : BitVec 2) (g : BitVec 3)
  /-- ATOM_XOR (R191): Atomically exclusive-ORs into memory and pushes the old value. -/
  | atomXor (x : BitVec 6) (a : BitVec 7) (w : BitVec 1) (c : BitVec 3) (o : BitVec 2) (g : BitVec 3)
  /-- ATOM_EXCH (R191): Atomically exchanges a value with memory and pushes the old value. -/
  | atomExch (x : BitVec 6) (a : BitVec 7) (w : BitVec 1) (c : BitVec 3) (o : BitVec 2) (g : BitVec 3)
  /-- ATOM_CAS (R191): Atomically compares and swaps and pushes the old value. -/
  | atomCas (x : BitVec 6) (a : BitVec 7) (w : BitVec 1) (c : BitVec 3) (o : BitVec 2) (g : BitVec 3)
  /-- ATOM_FADD (R191): Atomically adds a floating-point value with RNE and pushes the old value. -/
  | atomFadd (x : BitVec 6) (a : BitVec 7) (w : BitVec 1) (c : BitVec 3) (o : BitVec 2) (g : BitVec 3)
  /-- RED_ADD (R191): Atomically adds to memory without a result. -/
  | redAdd (x : BitVec 6) (a : BitVec 7) (w : BitVec 1) (c : BitVec 3) (o : BitVec 2) (g : BitVec 3)
  /-- RED_MAX (R191): Atomically stores the signed maximum without a result. -/
  | redMax (x : BitVec 6) (a : BitVec 7) (w : BitVec 1) (c : BitVec 3) (o : BitVec 2) (g : BitVec 3)
  /-- RED_FADD (R191): Atomically adds a floating-point value without a result. -/
  | redFadd (x : BitVec 6) (a : BitVec 7) (w : BitVec 1) (c : BitVec 3) (o : BitVec 2) (g : BitVec 3)
  /-- RED_FADD2 (R191): Atomically adds a BF16 pair element-wise without a result. -/
  | redFadd2 (x : BitVec 6) (a : BitVec 7) (c : BitVec 3) (o : BitVec 2) (g : BitVec 3)
  /-- FENCE (R195): Performs an acquire, release or both at a scope for the issuing lanes. -/
  | fence (c : BitVec 3) (o : BitVec 2)
  /-- FENCE_R (R196): Drains a victim core's L1 for the region and then fences at the scope. -/
  | fenceR (a : BitVec 7) (c : BitVec 3) (o : BitVec 2)
  /-- CWB (R197): Pushes the dirty bytes of named lines to the coherence point of the scope. -/
  | cwb (a : BitVec 7) (c : BitVec 3)
  /-- CINV (R197): Pushes and then invalidates named lines in L1 and, at cluster scope and above, the cluster cache. -/
  | cinv (a : BitVec 7) (c : BitVec 3)
  /-- PREF (R197): Brings named lines into L1 or the cluster cache without faulting. -/
  | pref (a : BitVec 7) (c : BitVec 3)
  /-- BR (R253): Moves the lanes whose guard is true to a PC-relative target. -/
  | br (g : BitVec 3) (d : BitVec 21)
  /-- BRN (R253): Moves the lanes whose guard is false to a PC-relative target. -/
  | brn (g : BitVec 3) (d : BitVec 21)
  /-- CALL (R253): Writes the return address to n15 and moves the guarded lanes to the target. -/
  | call (g : BitVec 3) (d : BitVec 21)
  /-- BRUZ (R254): Moves the whole lane set to the target when a uniform value is zero. -/
  | bruz (s : BitVec 1) (c : BitVec 7) (d : BitVec 17)
  /-- BRUNZ (R254): Moves the whole lane set to the target when a uniform value is non-zero. -/
  | brunz (s : BitVec 1) (c : BitVec 7) (d : BitVec 17)
  /-- JMPI (R255): Jumps each lane to the LAND named by its operand. -/
  | jmpi (a : BitVec 7)
  /-- CALLI (R255): Writes the return address to n15 and jumps each lane to a LAND. -/
  | calli (a : BitVec 7)
  /-- RET (R255): Returns each lane to the address held in n15. -/
  | ret
  /-- LAND (R255): Does nothing and marks a target for indirect transfers. -/
  | land
  /-- PARK (R256): Parks each lane watching the line of its address until a wake event. -/
  | park (a : BitVec 7)
  /-- YIELD (R257): Withholds the lane set until another set issues or 32 opportunities pass. -/
  | yield
  /-- EXIT (R258): Makes the issuing lanes permanently not live, ending the warp when none remains. -/
  | exit
  /-- REGROUP (R265): After its rendezvous, drains the warp and enters it into the workgroup's regroup pool. -/
  | regroup (a : BitVec 7)
  /-- PART (R261): Sets a group register to sub-groups of a lanes. -/
  | part (k : BitVec 2) (a : BitVec 7)
  /-- GMASK (R261): Writes each lane's mask of live lanes in its sub-group. -/
  | gmask (d : BitVec 6) (k : BitVec 2)
  /-- VALL (R262): Writes 1 when every lane of the rendezvous set holds a non-zero value. -/
  | vall (d : BitVec 6) (a : BitVec 7) (k : BitVec 2)
  /-- VANY (R262): Writes 1 when some lane of the rendezvous set holds a non-zero value. -/
  | vany (d : BitVec 6) (a : BitVec 7) (k : BitVec 2)
  /-- VBAL (R262): Writes the ballot mask of lanes with non-zero values. -/
  | vbal (d : BitVec 6) (a : BitVec 7) (k : BitVec 2)
  /-- SHFL (R262): Reads each lane's value from a source lane within its sub-group. -/
  | shfl (d : BitVec 6) (a b : BitVec 7) (k : BitVec 2)
  /-- PUSH (R262): Sends each lane's value to a destination lane within its sub-group. -/
  | push (d : BitVec 6) (a b : BitVec 7) (k : BitVec 2)
  /-- CSUM (R262): Writes the integer sum over the rendezvous set. -/
  | csum (d : BitVec 6) (a : BitVec 7) (k : BitVec 2)
  /-- CMAX (R262): Writes the signed maximum over the rendezvous set. -/
  | cmax (d : BitVec 6) (a : BitVec 7) (k : BitVec 2)
  /-- CFSUM (R263): Writes the fixed-tree FP32 sum over the rendezvous set. -/
  | cfsum (d : BitVec 6) (a : BitVec 7) (k : BitVec 2)
  /-- CSCAN (R262): Writes the inclusive integer prefix sum over the rendezvous set. -/
  | cscan (d : BitVec 6) (a : BitVec 7) (k : BitVec 2)
  /-- COMPRESS (R264): Packs the values of masked lanes toward lane 0. -/
  | compress (d : BitVec 6) (a b : BitVec 7) (m : BitVec 4)
  /-- EXPAND (R264): Spreads packed values to the masked lanes. -/
  | expand (d : BitVec 6) (a b : BitVec 7) (m : BitVec 4)
  /-- SLIDEUP (R264): Moves values up by n lanes, filling from b. -/
  | slideup (d : BitVec 6) (a b : BitVec 7) (m : BitVec 4)
  /-- SLIDEDN (R264): Moves values down by n lanes, filling from b. -/
  | slidedn (d : BitVec 6) (a b : BitVec 7) (m : BitVec 4)
  /-- LOOP (R271): After its rendezvous, opens a loop level with a count, body extent, stages and rotation, or skips the body for count 0. -/
  | loop (l : BitVec 2) (c : BitVec 7) (e : BitVec 12) (t : BitVec 3) (r u : BitVec 1)
  /-- LBRK (R276): Removes the guarded lanes from a loop level and its inner levels. -/
  | lbrk (g : BitVec 3) (l : BitVec 2)
  /-- LRD (R279): Copies whether a stage of a loop level is active into a guard. -/
  | lrd (g : BitVec 3) (l : BitVec 2) (a : BitVec 7) (h : BitVec 3)
  /-- LWR (R280): Sets the trip count of a loop level for its next back edge. -/
  | lwr (l : BitVec 2) (a : BitVec 7)
  /-- ADBASE (R199): Writes a descriptor's base, lane coefficient and lane mode. -/
  | adbase (k : BitVec 4) (a b : BitVec 7)
  /-- ADCOEF (R199): Writes a descriptor's four loop coefficients. -/
  | adcoef (k : BitVec 4) (a b : BitVec 7)
  /-- ADLIM (R199): Writes a descriptor's limit. -/
  | adlim (k : BitVec 4) (a : BitVec 7)
  /-- ADSTG (R199): Writes a descriptor's stage binding. -/
  | adstg (k : BitVec 4) (a : BitVec 7)
  /-- MACQ (R153): Requests a claim of banks on one or more Benches and parks until it is granted. -/
  | macq (e : BitVec 5)
  /-- MREL (R154): Ends the warp's bank claim. -/
  | mrel
  /-- MWL (R158): Queues a weight latch and sets the warp's architectural latch. -/
  | mwl (t : BitVec 4)
  /-- MMS (R159): Queues a matrix multiply that accumulates into a relative bank. -/
  | mms (a : BitVec 4) (k : BitVec 3) (z : BitVec 1)
  /-- MRD (R161): Reads one bank element per lane and pushes it. -/
  | mrd (d : BitVec 6) (a : BitVec 7) (k : BitVec 3)
  /-- MWR (R161): Writes one bank element per lane. -/
  | mwr (d : BitVec 6) (a : BitVec 7) (k : BitVec 3)
  /-- MEPI (R162): Hands a bank to the Planer to drain into an output tile. -/
  | mepi (a : BitVec 4) (k : BitVec 3) (e : BitVec 5)
  /-- MZERO (R160): Clears every element of a bank. -/
  | mzero (k : BitVec 3)
  /-- THBASE (R150): Writes a tile handle's base and scale offset. -/
  | thbase (t : BitVec 4) (a b : BitVec 7)
  /-- THSHAPE (R150): Writes a tile handle's row and column counts. -/
  | thshape (t : BitVec 4) (a b : BitVec 7)
  /-- THFMT (R150): Writes a tile handle's format and pitch. -/
  | thfmt (t : BitVec 4) (a b : BitVec 7)
  /-- THMC (R150): Writes a tile handle's multicast mask. -/
  | thmc (t : BitVec 4) (a : BitVec 7)
  /-- CPY (R226): Starts a strided copy of rows on a copy engine. -/
  | cpy (s : BitVec 5) (c : BitVec 3) (t j : BitVec 1)
  /-- CPYM (R226): Starts a copy multicast to scratch windows of several cores. -/
  | cpym (s : BitVec 5) (c : BitVec 3) (t j : BitVec 1)
  /-- CPYG (R226): Starts a copy that gathers rows through an index list. -/
  | cpyg (s : BitVec 5) (c : BitVec 3) (t j : BitVec 1)
  /-- CHAIN (R115): Starts a chain operation streaming elements through a chain record. -/
  | chain (s : BitVec 5) (i o : BitVec 4)
  /-- JINIT (R222): Resets a Joint and sets its expected arrivals. -/
  | jinit (a b : BitVec 7)
  /-- JARV (R223): Releases at a scope and adds the lane set's arrivals and bytes to a Joint. -/
  | jarv (a b : BitVec 7) (c : BitVec 3)
  /-- JEXP (R223): Adds expected bytes to a Joint's target. -/
  | jexp (a b : BitVec 7)
  /-- JWAIT (R224): Parks until a Joint leaves a generation, then acquires or faults. -/
  | jwait (a b : BitVec 7) (c : BitVec 3)
  /-- TLRD (R233): Reads the issued or completed counter of an engine timeline. -/
  | tlrd (e : BitVec 2) (a : BitVec 7) (d : BitVec 5)
  /-- TLWAIT (R234): Parks until a timeline completes a number, then acquires or faults. -/
  | tlwait (e : BitVec 2) (a : BitVec 7) (c : BitVec 3)
  /-- ENQ (R315): Releases, reads a node record and enqueues, spills or refuses it, writing a status. -/
  | enq (s : BitVec 5) (p : BitVec 1)
  /-- TRAP (R374): Raises a software trap with a code. -/
  | trap (c : BitVec 24)
  /-- BKPT (R375): Halts the core under debug or raises a breakpoint fault. -/
  | bkpt (c : BitVec 24)
  /-- ERET (R376): After its rendezvous, checks and restores the trap frame and leaves handler mode. -/
  | eret
  /-- CSRR (R200): Reads a CSR into a lane register and pushes it. -/
  | csrr (d : BitVec 6) (n : BitVec 11)
  /-- CSRW (R200): Writes a CSR. -/
  | csrw (a : BitVec 7) (n : BitVec 11)
  /-- CSRS (R200): Sets bits of a read/write CSR and pushes its old value. -/
  | csrs (d : BitVec 6) (a : BitVec 7) (n : BitVec 11)
  /-- MSGS (R238): A write of MSGS sends one message per issuing lane to the core named by MSGDST. -/
  | msgs (a : BitVec 7)
  /-- MSGR (R239): A read of MSGR parks until enough messages of the region are present and delivers them. -/
  | msgr (d : BitVec 6)
  /-- METR (R346): Reads a meter counter or report sequence number of a bound tag into a uniform register. -/
  | metr (d : BitVec 5) (a : BitVec 7)
  /-- HIMM (R49): Sets pending immediate bits for the group's instruction. -/
  | himm (h : BitVec 24)
  /-- HSCHED (R50): Sets yield, operand reuse and priority bump for the group's instruction. -/
  | hsched (p : BitVec 2) (c b a y : BitVec 1)
  /-- HMOD (R51): Overrides rounding, cache policy or flag setting for the group's instruction. -/
  | hmod (n c : BitVec 1) (p : BitVec 3) (e : BitVec 1) (m : BitVec 3)
  /-- LOAD_REPLY (R21): Returned load data fills the queue entry and register that the load holds. -/
  | loadReply (op flaw : Nat) (stack : Bool)
  /-- ACKNOWLEDGEMENT (R194): An acknowledgement arrives at the core, completing a posted write and updating ACKSEQ with its tag. -/
  | acknowledgement (op : Nat)
  /-- HOME_REQUEST (R215): A request or push reaches the line's home bank, is serialised under the line lock and takes a sequence tag. -/
  | homeRequest (op : Nat)
  /-- LINE_PUSH (R212): Pushed dirty bytes arrive at a level and merge by byte mask. -/
  | linePush (op : Nat)
  /-- INVALIDATION (R214): An invalidation from the die directory arrives at a cluster filter and is applied. -/
  | invalidation (cluster line : Nat)
  /-- EVICTION (R212): A cache evicts a line, pushing its dirty bytes outward. -/
  | eviction (level unit line : Nat)
  /-- PAGE_WALK (R330): A translation walk completes, setting A or D and filling the TLBs or faulting. -/
  | pageWalk (cluster pasid va : Nat) (wr : Bool)
  /-- SCRATCH_REFILL (R173): A saved scratch page returns on its first touch after resume and the stalled accessor proceeds. -/
  | scratchRefill (wg core page : Nat)
  /-- MIGRATION_REPLAY (R218): When a migrated page's new entry is installed, the held accesses replay in order. -/
  | migrationReplay (cluster : Nat)
  /-- FENCE_R_DRAIN (R196): A victim core drains and invalidates its L1 lines of the requester's region. -/
  | fenceRDrain (op : Nat)
  /-- MESSAGE_ARRIVAL (R238): A message reaches the destination core's receive FIFO. -/
  | messageArrival (core : Nat)
  /-- MSGR_DELIVERY (R239): Parked MSGR readers receive messages once enough have arrived. -/
  | msgrDelivery (core : Nat)
  /-- PARK_WAKE (R256): A parked lane wakes on a write to its watched line or a Joint phase completion. -/
  | parkWake (warp lane : Nat)
  /-- PARK_TIMEOUT (R256): A parked lane wakes 4,096 cycles after it parked. -/
  | parkTimeout (warp lane : Nat)
  /-- BACK_EDGE (R272): When every participant has completed the END word, the loop advances its index, stages and rotation or pops. -/
  | backEdge (warp : Nat)
  /-- REGROUP_POOL_TIMEOUT (R265): A regroup pool closes 256 cycles after its first warp entered. -/
  | regroupPoolTimeout (wg core : Nat)
  /-- MACQ_GRANT (R153): A waiting claim is granted banks from the rings of its Benches. -/
  | macqGrant (bench : Nat)
  /-- ARBITER_SELECT (R139): At a tile boundary the Bench arbiter selects one queued array operation, re-latching first where needed. -/
  | arbiterSelect (bench : Nat)
  /-- MWL_COMPLETE (R148): A weight latch finishes reading into the array and retires its matrix timeline number. -/
  | mwlComplete (op : Nat)
  /-- MMS_COMPLETE (R140): An MMS writes its last result row and retires its matrix timeline number. -/
  | mmsComplete (op : Nat)
  /-- DRAIN_START (R136): The Planer starts draining a handed-over bank once earlier operations into it have completed and it is free. -/
  | drainStart (bench : Nat)
  /-- DRAIN_END (R163): A drain writes its last row, applies flags, delivers bytes to its Joint and returns the bank to the ring. -/
  | drainEnd (bench : Nat)
  /-- CHAIN_COMPLETE (R125): A chain operation finishes or faults and its completion is counted on the chain timeline. -/
  | chainComplete (core : Nat)
  /-- COPY_BEAT (R229): A copy beat lands, is delivered to its Joint and, at the last byte, completes the copy. -/
  | copyBeat (op : Nat)
  /-- JWAIT_RELEASE (R224): Lanes parked at JWAIT proceed after their phase completes or the Joint fails. -/
  | jwaitRelease (warp lane : Nat)
  /-- TLWAIT_RELEASE (R234): Lanes parked at TLWAIT proceed once the completed counter reaches the number. -/
  | tlwaitRelease (warp lane : Nat)
  /-- HANDLER_ENTRY (R370): A recoverable fault is delivered: the trap frame is saved and the warp enters the handler. -/
  | handlerEntry (warp : Nat)
  /-- KILL_WORKGROUP (R372): Fault-domain action 0 ends the faulting warp's workgroup. -/
  | killWorkgroup (warp : Nat)
  /-- KILL_NODE (R372): Fault-domain action 1 ends every workgroup of the node. -/
  | killNode (warp : Nat)
  /-- KILL_REGION (R372): Fault-domain action 2 ends every node of the region and its descendants and notifies the host. -/
  | killRegion (warp : Nat)
  /-- DOORBELL (R299): A doorbell write names a queue and write index and starts the QCB walk. -/
  | doorbell (pasid : BitVec 20) (v : BitVec 64)
  /-- QCB_FIRMWARE_WALK (R300): The policy core continues a QCB walk that found no result in 8 probes. -/
  | qcbFirmwareWalk
  /-- NOP (R302): A NOP packet only advances the read index. -/
  | nop (slot : Nat)
  /-- NODE (R303): A NODE packet is parsed and held for predecessors or sent to admission. -/
  | node (slot : Nat)
  /-- WAIT (R304): A WAIT packet stops its queue until a doubleword equals a value. -/
  | wait (slot : Nat)
  /-- WAIT_REREAD (R304): The front end re-reads a WAIT's address every 4,096 cycles or after a mirror write to its line. -/
  | waitReread (slot : Nat)
  /-- WAIT_PARKED_REWALK (R304): The policy core walks a parked WAIT's address again after a covering invalidation or every 2^20 cycles. -/
  | waitParkedRewalk (qcb : Nat)
  /-- ADMISSION (R306): The policy core admits or rejects a ready node and gives it an admission number. -/
  | admission
  /-- ARGUMENT_COPY (R308): Dispatch copies a node's argument block into its private arena and applies class rounding. -/
  | argumentCopy (page : Nat)
  /-- PLACE_WORKGROUP (R310): Dispatch places a workgroup on cores of one cluster and allocates its scratch and private base. -/
  | placeWorkgroup (page : Nat)
  /-- JIG_JOB_DONE (R296): A Jig job finishes its cache entry and waiting warps begin issue. -/
  | jigJobDone (job base : Nat)
  /-- NODE_BLOCKING (R313): A node at the head of its priority for 65,536 cycles becomes blocking and requests pre-emption. -/
  | nodeBlocking (node : Nat)
  /-- DRAIN_EXPIRY (R382): A draining workgroup still resident at EXPCYC has its way chosen again without drain. -/
  | drainExpiry (wg : Nat)
  /-- SAVE (R384): After quiescing, a workgroup's state is written to its save area. -/
  | save (wg page : Nat)
  /-- FLUSH (R387): After quiescing, a workgroup gives back its resources and becomes unplaced. -/
  | flush (wg : Nat)
  /-- RESUME_WORKGROUP (R386): A saved workgroup is placed again on its cores and its state restored. -/
  | resumeWorkgroup (wg : Nat)
  /-- RING_MOVE (R316): The policy core moves an overflow-ring entry into the device queue when it has room. -/
  | ringMove (rcb : Nat)
  /-- NODE_COMPLETE (R235): When all workgroups and engine operations of a node are done, successors are credited and the mirror word written. -/
  | nodeComplete (node : Nat)
  /-- INVALIDATION_REQUEST (R332): A write of the second INVREQ doubleword submits a translation invalidation. -/
  | invalidationRequest (v : BitVec 64)
  /-- INVALIDATION_COMPLETE (R332): An invalidation finishes after its accesses are acknowledged and INVDONE counts it. -/
  | invalidationComplete
  /-- CREATE (R350): Meter command 1 creates an instance in a free slot and emits a FIRST report. -/
  | create
  /-- REQ (R350): Meter command 2 emits a requested report. -/
  | req
  /-- SEAL (R350): Meter command 3 stops admitting nodes bound to the slot. -/
  | seal
  /-- SEAL_HANDOVER (R350): Once no bound workgroup is resident or saved, the SEAL report is emitted and the slot freed. -/
  | sealHandover (slot : Nat)
  /-- RESUME (R350): Meter command 4 checks a hand-over record and continues the instance. -/
  | resume
  /-- RESTART (R350): Meter command 5 checks a delivered report and starts a linked new instance. -/
  | restart
  /-- REPORT_WRITE (R348): A held report is written into the report ring when it has room and RPTWR advances. -/
  | reportWrite
  /-- REGISTRATION (R352): A registration record is checked, the image measured, copied and relocated, and STATUS written. -/
  | registration
  /-- ENABLE (R392): A write of 1 to ENABLE checks the initialisation registers and starts or refuses service. -/
  | enable (v : BitVec 64)
  /-- ERRCNT (R393): A write to an ERRCNT doubleword clears both of its counts. -/
  | errcnt (domain : BitVec 3)
  /-- CONGEST (R391): A write to CONGEST clears the congestion event count. -/
  | congest (v : BitVec 64)
  /-- EVLOST (R394): A write to EVLOST clears the dropped-event count. -/
  | evlost (v : BitVec 64)
  /-- REGISTER_WRITE (R391): A host write to a BAR0 register with no behaviour of its own stores the value or is ignored. -/
  | registerWrite (off : BitVec 16) (v : BitVec 64)
  /-- HOST_BAR2_ACCESS (R355): A host read or write through BAR2 reaches device memory at the line's home slice. -/
  | hostBar2Access (wr : Bool) (pa bytes : Nat) (data : BitVec 512)
  /-- COL_INBOUND_REQUEST (R361): An inbound Col request is checked against the export table and served or refused. op is 0 for a read,
  1 for a write, 2 for an ATOM and 3 for a RED lane operation; for those data holds the datum in [63:0], the expected value in [127:64]
  and AOP in [131:128]. -/
  | colInboundRequest (peer : BitVec 8) (op : BitVec 2) (pa bytes : Nat) (data : BitVec 512)
  /-- ROUTE_LOST (R362): A route whose every port has been down for 2^20 cycles is declared lost. -/
  | routeLost (peer : BitVec 8)
  /-- PCIE_LINK_TRAIN (R354): The host port trains to the highest rate and width both ends support. -/
  | pcieLinkTrain (rate width : Nat)
  /-- COL_PORT_TRAIN (R357): A Col port trains on its own to Col-2 or Col-1. -/
  | colPortTrain (port rate : Nat)
  /-- CONGESTION_EVENT (R243): A packet that waits more than 4,096 cycles for a channel is counted as a congestion event. -/
  | congestionEvent (unit : BitVec 16) (cls : BitVec 3)
  /-- PATROL_SCRUB (R390): The HBM patrol scrub reads and corrects a granule, poisoning it if uncorrectable. -/
  | patrolScrub (granule : Nat) (corrected poisoned : Bool)
  /-- COLD_RESET (R395): A cold reset verifies firmware, derives the identity key, zeroes HBM and sets reset values. -/
  | coldReset (verified : Bool)
  /-- FUNCTION_LEVEL_RESET (R395): A function-level reset ends every region and keeps meter slots and tags. -/
  | functionLevelReset
  /-- THROTTLE_START (R396): Power or temperature exceeds its limit, DEVSTAT[2] is set and cores withhold every second issue cycle. -/
  | throttleStart (temp power : BitVec 64)
  /-- THROTTLE_END (R396): Power and temperature return within limits and throttling stops. -/
  | throttleEnd (temp power : BitVec 64)
  /-- TRIP (R396): Temperature above 120 C or supply below 40 V stops issue and holds the device in cold reset. -/
  | trip (temp : BitVec 64) (supply : Bool)
  /-- ILLEGAL_INSTRUCTION (R43): A word that encodes no instruction of the map reaches issue and raises an illegal-instruction or illegal-operand fault for its lane set. Such words include a reserved major, an unassigned function and a bad field. -/
  | illegalInstruction (w : BitVec 32)
  /-- INSTRUCTION_FETCH_FAULT (R366): A lane set stands at a PC whose fetch does not translate, lacks X or lies outside the code, and raises a translation or protection fault there. -/
  | instructionFetchFault
  /-- CLOCK_CYCLE (R317): Each cycle the scheduler chooses issue; waits, ages, stall counters and Bench counters advance even when nothing issues. -/
  | clockCycle
  /-- DEBUG_HALT_END (R377): A debug halt on a core ends and issue resumes, and any fault held during the halt is delivered. -/
  | debugHaltEnd (core : Nat)
  /-- DEBUGGER_ACCESS (R377): The debugger reads or writes warp state through a kind 11 window. -/
  | debuggerAccess (wr : Bool) (warp lane reg : Nat) (v : BitVec 64)
  /-- COL_PORT_DOWN (R362): A Col port goes down and starts the 2^20-cycle count after which its route is lost. -/
  | colPortDown (port : Nat)
  /-- FLIT_CRC_FAILURE (R389): A flit on the Ridge, bulk network, Col or PCIe fails its CRC, is retried at link level and is counted in ERRCNT. -/
  | flitCrcFailure (domain : BitVec 3)
deriving DecidableEq, Repr

end Sys2Proof
end

