-- ==== Sys2Proof/WellFormed.lean ====
section
/-! DEFINITION. Which instructions have a word: check 3 of R43 less the zero fields and the unused fields, which
`Instr` has no place for. A word whose fields break one of these checks raises an illegal-instruction fault. The checks on
operand specifiers (check 5 of R43) depend on the warp and stand in Machine/Operands.lean. -/

namespace Sys2Proof

/-- Whether the row is an instruction word, and not one of the steps without an encoding. -/
def Instr.isWord : Instr → Bool
  | .loadReply _ _ _ => false
  | .acknowledgement _ => false
  | .homeRequest _ => false
  | .linePush _ => false
  | .invalidation _ _ => false
  | .eviction _ _ _ => false
  | .pageWalk _ _ _ _ => false
  | .scratchRefill _ _ _ => false
  | .migrationReplay _ => false
  | .fenceRDrain _ => false
  | .messageArrival _ => false
  | .msgrDelivery _ => false
  | .parkWake _ _ => false
  | .parkTimeout _ _ => false
  | .backEdge _ => false
  | .regroupPoolTimeout _ _ => false
  | .macqGrant _ => false
  | .arbiterSelect _ => false
  | .mwlComplete _ => false
  | .mmsComplete _ => false
  | .drainStart _ => false
  | .drainEnd _ => false
  | .chainComplete _ => false
  | .copyBeat _ => false
  | .jwaitRelease _ _ => false
  | .tlwaitRelease _ _ => false
  | .handlerEntry _ => false
  | .killWorkgroup _ => false
  | .killNode _ => false
  | .killRegion _ => false
  | .doorbell _ _ => false
  | .qcbFirmwareWalk => false
  | .nop _ => false
  | .node _ => false
  | .wait _ => false
  | .waitReread _ => false
  | .waitParkedRewalk _ => false
  | .admission => false
  | .argumentCopy _ => false
  | .placeWorkgroup _ => false
  | .jigJobDone _ _ => false
  | .nodeBlocking _ => false
  | .drainExpiry _ => false
  | .save _ _ => false
  | .flush _ => false
  | .resumeWorkgroup _ => false
  | .ringMove _ => false
  | .nodeComplete _ => false
  | .invalidationRequest _ => false
  | .invalidationComplete => false
  | .create => false
  | .req => false
  | .seal => false
  | .sealHandover _ => false
  | .resume => false
  | .restart => false
  | .reportWrite => false
  | .registration => false
  | .enable _ => false
  | .errcnt _ => false
  | .congest _ => false
  | .evlost _ => false
  | .registerWrite _ _ => false
  | .hostBar2Access _ _ _ _ => false
  | .colInboundRequest _ _ _ _ _ => false
  | .routeLost _ => false
  | .pcieLinkTrain _ _ => false
  | .colPortTrain _ _ => false
  | .congestionEvent _ _ => false
  | .patrolScrub _ _ _ => false
  | .coldReset _ => false
  | .functionLevelReset => false
  | .throttleStart _ _ => false
  | .throttleEnd _ _ => false
  | .trip _ _ => false
  | .illegalInstruction _ => false
  | .instructionFetchFault => false
  | .clockCycle => false
  | .debugHaltEnd _ => false
  | .debuggerAccess _ _ _ _ _ => false
  | .colPortDown _ => false
  | .flitCrcFailure _ => false
  | .add _ _ _ _ => true
  | .sub _ _ _ _ => true
  | .mul _ _ _ _ => true
  | .mulhu _ _ _ _ => true
  | .min _ _ _ _ => true
  | .max _ _ _ _ => true
  | .minu _ _ _ _ => true
  | .maxu _ _ _ _ => true
  | .divu _ _ _ _ => true
  | .remu _ _ _ _ => true
  | .and _ _ _ _ => true
  | .or _ _ _ _ => true
  | .xor _ _ _ _ => true
  | .andn _ _ _ _ => true
  | .shl _ _ _ _ => true
  | .shr _ _ _ _ => true
  | .sar _ _ _ _ => true
  | .popc _ _ _ => true
  | .clz _ _ _ => true
  | .ctz _ _ _ => true
  | .bfx _ _ _ _ => true
  | .ceq _ _ _ => true
  | .clt _ _ _ => true
  | .cltu _ _ _ => true
  | .geq _ _ _ => true
  | .gne _ _ _ => true
  | .glt _ _ _ => true
  | .gle _ _ _ => true
  | .gltu _ _ _ => true
  | .gleu _ _ _ => true
  | .gand _ _ _ => true
  | .gor _ _ _ => true
  | .gnot _ _ => true
  | .madW _ _ _ _ => true
  | .madD _ _ _ _ => true
  | .shadd _ _ _ _ => true
  | .bfi _ _ _ _ => true
  | .addi _ _ _ => true
  | .andi _ _ _ => true
  | .ori _ _ _ => true
  | .xori _ _ _ => true
  | .shli _ _ _ => true
  | .shri _ _ _ => true
  | .sari _ _ _ => true
  | .ceqi _ _ _ => true
  | .clti _ _ _ => true
  | .geqi _ _ _ => true
  | .gnei _ _ _ => true
  | .glti _ _ _ => true
  | .sel _ _ _ _ => true
  | .seln _ _ _ _ => true
  | .fadd _ _ _ => true
  | .fsub _ _ _ => true
  | .fmul _ _ _ => true
  | .fmin _ _ _ => true
  | .fmax _ _ _ => true
  | .fabs _ _ => true
  | .fneg _ _ => true
  | .frint _ _ => true
  | .fma _ _ _ _ => true
  | .fms _ _ _ _ => true
  | .fnma _ _ _ _ => true
  | .dfma _ _ _ _ => true
  | .hadd2 _ _ _ => true
  | .hmul2 _ _ _ => true
  | .hmin2 _ _ _ => true
  | .hmax2 _ _ _ => true
  | .hfma2 _ _ _ _ => true
  | .dot4 _ _ _ _ => true
  | .dadd _ _ _ => true
  | .dsub _ _ _ => true
  | .dmul _ _ _ => true
  | .dmin _ _ _ => true
  | .dmax _ _ _ => true
  | .cvtF32S32 _ _ => true
  | .cvtS32F32 _ _ => true
  | .cvtU32F32 _ _ => true
  | .cvtF64F32 _ _ => true
  | .cvtF32F64 _ _ => true
  | .cvtF64S64 _ _ => true
  | .cvtS64F64 _ _ => true
  | .cvtBf16F32 _ _ => true
  | .cvtF32Bf16 _ _ => true
  | .cvtF16F32 _ _ => true
  | .cvtF32F16 _ _ => true
  | .pack2 _ _ _ => true
  | .fclt _ _ _ => true
  | .fcle _ _ _ => true
  | .fceq _ _ _ => true
  | .fglt _ _ _ => true
  | .fgle _ _ _ => true
  | .fgeq _ _ _ => true
  | .fgne _ _ _ => true
  | .fgun _ _ _ => true
  | .dglt _ _ _ => true
  | .ex2 _ _ _ => true
  | .lg2 _ _ _ => true
  | .rcp _ _ _ => true
  | .rsq _ _ _ => true
  | .sqrt _ _ _ => true
  | .sinpi _ _ _ => true
  | .cospi _ _ _ => true
  | .tanh _ _ _ => true
  | .sigm _ _ _ => true
  | .gelu _ _ _ => true
  | .qse3 _ _ => true
  | .qse5 _ _ => true
  | .qse8 _ _ => true
  | .dqse3 _ _ => true
  | .dqse5 _ _ => true
  | .dqse8 _ _ => true
  | .uadd _ _ _ _ => true
  | .usub _ _ _ _ => true
  | .umul _ _ _ _ => true
  | .umin _ _ _ _ => true
  | .umax _ _ _ _ => true
  | .uand _ _ _ _ => true
  | .uor _ _ _ _ => true
  | .ushl _ _ _ _ => true
  | .ushr _ _ _ _ => true
  | .uceq _ _ _ _ => true
  | .uclt _ _ _ _ => true
  | .ucltu _ _ _ _ => true
  | .udivu _ _ _ _ => true
  | .uaddi _ _ _ _ => true
  | .uandi _ _ _ _ => true
  | .ushli _ _ _ _ => true
  | .ushri _ _ _ _ => true
  | .uceqi _ _ _ _ => true
  | .uclti _ _ _ _ => true
  | .ulda _ _ _ _ => true
  | .uldk _ _ _ _ => true
  | .uld _ _ _ => true
  | .ureadl _ _ _ => true
  | .ufirst _ _ => true
  | .ld _ _ _ _ _ _ _ => true
  | .st _ _ _ _ _ _ _ => true
  | .atomAdd _ _ _ _ _ _ => true
  | .atomMin _ _ _ _ _ _ => true
  | .atomMax _ _ _ _ _ _ => true
  | .atomAnd _ _ _ _ _ _ => true
  | .atomOr _ _ _ _ _ _ => true
  | .atomXor _ _ _ _ _ _ => true
  | .atomExch _ _ _ _ _ _ => true
  | .atomCas _ _ _ _ _ _ => true
  | .atomFadd _ _ _ _ _ _ => true
  | .redAdd _ _ _ _ _ _ => true
  | .redMax _ _ _ _ _ _ => true
  | .redFadd _ _ _ _ _ _ => true
  | .redFadd2 _ _ _ _ _ => true
  | .fence _ _ => true
  | .fenceR _ _ _ => true
  | .cwb _ _ => true
  | .cinv _ _ => true
  | .pref _ _ => true
  | .br _ _ => true
  | .brn _ _ => true
  | .call _ _ => true
  | .bruz _ _ _ => true
  | .brunz _ _ _ => true
  | .jmpi _ => true
  | .calli _ => true
  | .ret => true
  | .land => true
  | .park _ => true
  | .yield => true
  | .exit => true
  | .regroup _ => true
  | .part _ _ => true
  | .gmask _ _ => true
  | .vall _ _ _ => true
  | .vany _ _ _ => true
  | .vbal _ _ _ => true
  | .shfl _ _ _ _ => true
  | .push _ _ _ _ => true
  | .csum _ _ _ => true
  | .cmax _ _ _ => true
  | .cfsum _ _ _ => true
  | .cscan _ _ _ => true
  | .compress _ _ _ _ => true
  | .expand _ _ _ _ => true
  | .slideup _ _ _ _ => true
  | .slidedn _ _ _ _ => true
  | .loop _ _ _ _ _ _ => true
  | .lbrk _ _ => true
  | .lrd _ _ _ _ => true
  | .lwr _ _ => true
  | .adbase _ _ _ => true
  | .adcoef _ _ _ => true
  | .adlim _ _ => true
  | .adstg _ _ => true
  | .macq _ => true
  | .mrel => true
  | .mwl _ => true
  | .mms _ _ _ => true
  | .mrd _ _ _ => true
  | .mwr _ _ _ => true
  | .mepi _ _ _ => true
  | .mzero _ => true
  | .thbase _ _ _ => true
  | .thshape _ _ _ => true
  | .thfmt _ _ _ => true
  | .thmc _ _ => true
  | .cpy _ _ _ _ => true
  | .cpym _ _ _ _ => true
  | .cpyg _ _ _ _ => true
  | .chain _ _ _ => true
  | .jinit _ _ => true
  | .jarv _ _ _ => true
  | .jexp _ _ => true
  | .jwait _ _ _ => true
  | .tlrd _ _ _ => true
  | .tlwait _ _ _ => true
  | .enq _ _ => true
  | .trap _ => true
  | .bkpt _ => true
  | .eret => true
  | .csrr _ _ => true
  | .csrw _ _ => true
  | .csrs _ _ _ => true
  | .msgs _ => true
  | .msgr _ => true
  | .metr _ _ => true
  | .himm _ => true
  | .hsched _ _ _ _ _ => true
  | .hmod _ _ _ _ _ => true

/-- The field rules of an instruction word: guard destinations are not g0 (R23, R38), coded fields hold no reserved code
(R40), orders and scopes are ones the family accepts (R186, R197, R222, R227, R234), and the instruction's own chapter
permits the combination of modifiers (R39, R51, R190, R253, R261). -/
def Instr.fieldsOk : Instr → Bool
  | .geq g _ _ => g != 0
  | .gne g _ _ => g != 0
  | .glt g _ _ => g != 0
  | .gle g _ _ => g != 0
  | .gltu g _ _ => g != 0
  | .gleu g _ _ => g != 0
  | .gand g _ _ => g != 0
  | .gor g _ _ => g != 0
  | .gnot g _ => g != 0
  | .geqi g _ _ => g != 0
  | .gnei g _ _ => g != 0
  | .glti g _ _ => g != 0
  | .fglt g _ _ => g != 0
  | .fgle g _ _ => g != 0
  | .fgeq g _ _ => g != 0
  | .fgne g _ _ => g != 0
  | .fgun g _ _ => g != 0
  | .dglt g _ _ => g != 0
  | .ld _ a m _ c o p => (m == 0 || a.toNat / 16 == 0) && c != 7 && (o == 0 || (o == 1 && c != 0)) && p.toNat < 4
  | .st _ a m z c o _ => (m == 0 || a.toNat / 16 == 0) && c != 7 && (o == 0 || (o == 2 && c != 0)) && z != 1 && z != 3 && z != 5
  | .atomAdd _ _ _ c o _ => c != 7 && (o == 0 || c != 0)
  | .atomMin _ _ _ c o _ => c != 7 && (o == 0 || c != 0)
  | .atomMax _ _ _ c o _ => c != 7 && (o == 0 || c != 0)
  | .atomAnd _ _ _ c o _ => c != 7 && (o == 0 || c != 0)
  | .atomOr _ _ _ c o _ => c != 7 && (o == 0 || c != 0)
  | .atomXor _ _ _ c o _ => c != 7 && (o == 0 || c != 0)
  | .atomExch _ _ _ c o _ => c != 7 && (o == 0 || c != 0)
  | .atomCas _ _ _ c o _ => c != 7 && (o == 0 || c != 0)
  | .atomFadd _ _ _ c o _ => c != 7 && (o == 0 || c != 0)
  | .redAdd _ _ _ c o _ => c != 7 && (o == 0 || (o == 2 && c != 0))
  | .redMax _ _ _ c o _ => c != 7 && (o == 0 || (o == 2 && c != 0))
  | .redFadd _ _ _ c o _ => c != 7 && (o == 0 || (o == 2 && c != 0))
  | .redFadd2 _ _ c o _ => c != 7 && (o == 0 || (o == 2 && c != 0))
  | .fence c o => c != 0 && c != 7 && o != 0
  | .fenceR _ c o => c != 0 && c != 7 && o != 0
  | .cwb _ c => c != 0 && c != 7
  | .cinv _ c => c != 0 && c != 7
  | .pref _ c => c == 0 || c == 3
  | .brn g _ => g != 0
  | .part k _ => k != 0
  | .loop _ _ e _ _ _ => e != 0
  | .lrd _ _ _ h => h != 0
  | .cpy _ c t j => 3 ≤ c.toNat && c.toNat ≤ 6 && (t == 1 || j == 1)
  | .cpym _ c t j => 3 ≤ c.toNat && c.toNat ≤ 6 && (t == 1 || j == 1)
  | .cpyg _ c t j => 3 ≤ c.toNat && c.toNat ≤ 6 && (t == 1 || j == 1)
  | .jarv _ _ c => 2 ≤ c.toNat && c.toNat ≤ 6
  | .jwait _ _ c => 2 ≤ c.toNat && c.toNat ≤ 6
  | .tlrd e _ _ => e != 3
  | .tlwait e _ c => e != 3 && 2 ≤ c.toNat && c.toNat ≤ 6
  | .csrr _ n => n != 0x032
  | .csrw _ n => n != 0x031
  | .hmod n c p e m => (n == 1 || c == 1 || e == 1) && (e == 1 || m == 0) && (c == 1 || p == 0) && m.toNat < 5 && p.toNat < 4
  | .add _ _ _ _ => true
  | .sub _ _ _ _ => true
  | .mul _ _ _ _ => true
  | .mulhu _ _ _ _ => true
  | .min _ _ _ _ => true
  | .max _ _ _ _ => true
  | .minu _ _ _ _ => true
  | .maxu _ _ _ _ => true
  | .divu _ _ _ _ => true
  | .remu _ _ _ _ => true
  | .and _ _ _ _ => true
  | .or _ _ _ _ => true
  | .xor _ _ _ _ => true
  | .andn _ _ _ _ => true
  | .shl _ _ _ _ => true
  | .shr _ _ _ _ => true
  | .sar _ _ _ _ => true
  | .popc _ _ _ => true
  | .clz _ _ _ => true
  | .ctz _ _ _ => true
  | .bfx _ _ _ _ => true
  | .ceq _ _ _ => true
  | .clt _ _ _ => true
  | .cltu _ _ _ => true
  | .madW _ _ _ _ => true
  | .madD _ _ _ _ => true
  | .shadd _ _ _ _ => true
  | .bfi _ _ _ _ => true
  | .addi _ _ _ => true
  | .andi _ _ _ => true
  | .ori _ _ _ => true
  | .xori _ _ _ => true
  | .shli _ _ _ => true
  | .shri _ _ _ => true
  | .sari _ _ _ => true
  | .ceqi _ _ _ => true
  | .clti _ _ _ => true
  | .sel _ _ _ _ => true
  | .seln _ _ _ _ => true
  | .fadd _ _ _ => true
  | .fsub _ _ _ => true
  | .fmul _ _ _ => true
  | .fmin _ _ _ => true
  | .fmax _ _ _ => true
  | .fabs _ _ => true
  | .fneg _ _ => true
  | .frint _ _ => true
  | .fma _ _ _ _ => true
  | .fms _ _ _ _ => true
  | .fnma _ _ _ _ => true
  | .dfma _ _ _ _ => true
  | .hadd2 _ _ _ => true
  | .hmul2 _ _ _ => true
  | .hmin2 _ _ _ => true
  | .hmax2 _ _ _ => true
  | .hfma2 _ _ _ _ => true
  | .dot4 _ _ _ _ => true
  | .dadd _ _ _ => true
  | .dsub _ _ _ => true
  | .dmul _ _ _ => true
  | .dmin _ _ _ => true
  | .dmax _ _ _ => true
  | .cvtF32S32 _ _ => true
  | .cvtS32F32 _ _ => true
  | .cvtU32F32 _ _ => true
  | .cvtF64F32 _ _ => true
  | .cvtF32F64 _ _ => true
  | .cvtF64S64 _ _ => true
  | .cvtS64F64 _ _ => true
  | .cvtBf16F32 _ _ => true
  | .cvtF32Bf16 _ _ => true
  | .cvtF16F32 _ _ => true
  | .cvtF32F16 _ _ => true
  | .pack2 _ _ _ => true
  | .fclt _ _ _ => true
  | .fcle _ _ _ => true
  | .fceq _ _ _ => true
  | .ex2 _ _ _ => true
  | .lg2 _ _ _ => true
  | .rcp _ _ _ => true
  | .rsq _ _ _ => true
  | .sqrt _ _ _ => true
  | .sinpi _ _ _ => true
  | .cospi _ _ _ => true
  | .tanh _ _ _ => true
  | .sigm _ _ _ => true
  | .gelu _ _ _ => true
  | .qse3 _ _ => true
  | .qse5 _ _ => true
  | .qse8 _ _ => true
  | .dqse3 _ _ => true
  | .dqse5 _ _ => true
  | .dqse8 _ _ => true
  | .uadd _ _ _ _ => true
  | .usub _ _ _ _ => true
  | .umul _ _ _ _ => true
  | .umin _ _ _ _ => true
  | .umax _ _ _ _ => true
  | .uand _ _ _ _ => true
  | .uor _ _ _ _ => true
  | .ushl _ _ _ _ => true
  | .ushr _ _ _ _ => true
  | .uceq _ _ _ _ => true
  | .uclt _ _ _ _ => true
  | .ucltu _ _ _ _ => true
  | .udivu _ _ _ _ => true
  | .uaddi _ _ _ _ => true
  | .uandi _ _ _ _ => true
  | .ushli _ _ _ _ => true
  | .ushri _ _ _ _ => true
  | .uceqi _ _ _ _ => true
  | .uclti _ _ _ _ => true
  | .ulda _ _ _ _ => true
  | .uldk _ _ _ _ => true
  | .uld _ _ _ => true
  | .ureadl _ _ _ => true
  | .ufirst _ _ => true
  | .br _ _ => true
  | .call _ _ => true
  | .bruz _ _ _ => true
  | .brunz _ _ _ => true
  | .jmpi _ => true
  | .calli _ => true
  | .ret => true
  | .land => true
  | .park _ => true
  | .yield => true
  | .exit => true
  | .regroup _ => true
  | .gmask _ _ => true
  | .vall _ _ _ => true
  | .vany _ _ _ => true
  | .vbal _ _ _ => true
  | .shfl _ _ _ _ => true
  | .push _ _ _ _ => true
  | .csum _ _ _ => true
  | .cmax _ _ _ => true
  | .cfsum _ _ _ => true
  | .cscan _ _ _ => true
  | .compress _ _ _ _ => true
  | .expand _ _ _ _ => true
  | .slideup _ _ _ _ => true
  | .slidedn _ _ _ _ => true
  | .lbrk _ _ => true
  | .lwr _ _ => true
  | .adbase _ _ _ => true
  | .adcoef _ _ _ => true
  | .adlim _ _ => true
  | .adstg _ _ => true
  | .macq _ => true
  | .mrel => true
  | .mwl _ => true
  | .mms _ _ _ => true
  | .mrd _ _ _ => true
  | .mwr _ _ _ => true
  | .mepi _ _ _ => true
  | .mzero _ => true
  | .thbase _ _ _ => true
  | .thshape _ _ _ => true
  | .thfmt _ _ _ => true
  | .thmc _ _ => true
  | .chain _ _ _ => true
  | .jinit _ _ => true
  | .jexp _ _ => true
  | .enq _ _ => true
  | .trap _ => true
  | .bkpt _ => true
  | .eret => true
  | .csrs _ _ _ => true
  | .msgs _ => true
  | .msgr _ => true
  | .metr _ _ => true
  | .himm _ => true
  | .hsched _ _ _ _ _ => true
  | .loadReply _ _ _ => true
  | .acknowledgement _ => true
  | .homeRequest _ => true
  | .linePush _ => true
  | .invalidation _ _ => true
  | .eviction _ _ _ => true
  | .pageWalk _ _ _ _ => true
  | .scratchRefill _ _ _ => true
  | .migrationReplay _ => true
  | .fenceRDrain _ => true
  | .messageArrival _ => true
  | .msgrDelivery _ => true
  | .parkWake _ _ => true
  | .parkTimeout _ _ => true
  | .backEdge _ => true
  | .regroupPoolTimeout _ _ => true
  | .macqGrant _ => true
  | .arbiterSelect _ => true
  | .mwlComplete _ => true
  | .mmsComplete _ => true
  | .drainStart _ => true
  | .drainEnd _ => true
  | .chainComplete _ => true
  | .copyBeat _ => true
  | .jwaitRelease _ _ => true
  | .tlwaitRelease _ _ => true
  | .handlerEntry _ => true
  | .killWorkgroup _ => true
  | .killNode _ => true
  | .killRegion _ => true
  | .doorbell _ _ => true
  | .qcbFirmwareWalk => true
  | .nop _ => true
  | .node _ => true
  | .wait _ => true
  | .waitReread _ => true
  | .waitParkedRewalk _ => true
  | .admission => true
  | .argumentCopy _ => true
  | .placeWorkgroup _ => true
  | .jigJobDone _ _ => true
  | .nodeBlocking _ => true
  | .drainExpiry _ => true
  | .save _ _ => true
  | .flush _ => true
  | .resumeWorkgroup _ => true
  | .ringMove _ => true
  | .nodeComplete _ => true
  | .invalidationRequest _ => true
  | .invalidationComplete => true
  | .create => true
  | .req => true
  | .seal => true
  | .sealHandover _ => true
  | .resume => true
  | .restart => true
  | .reportWrite => true
  | .registration => true
  | .enable _ => true
  | .errcnt _ => true
  | .congest _ => true
  | .evlost _ => true
  | .registerWrite _ _ => true
  | .hostBar2Access _ _ _ _ => true
  | .colInboundRequest _ _ _ _ _ => true
  | .routeLost _ => true
  | .pcieLinkTrain _ _ => true
  | .colPortTrain _ _ => true
  | .congestionEvent _ _ => true
  | .patrolScrub _ _ _ => true
  | .coldReset _ => true
  | .functionLevelReset => true
  | .throttleStart _ _ => true
  | .throttleEnd _ _ => true
  | .trip _ _ => true
  | .illegalInstruction _ => true
  | .instructionFetchFault => true
  | .clockCycle => true
  | .debugHaltEnd _ => true
  | .debuggerAccess _ _ _ _ _ => true
  | .colPortDown _ => true
  | .flitCrcFailure _ => true

/-- A well-formed instruction: it has a word, and the word passes checks 1 to 3 of R43. -/
def Instr.wf (i : Instr) : Bool := i.isWord && i.fieldsOk

end Sys2Proof
end

