-- ==== Sys2Proof/Decode.lean ====
section
/-! DEFINITION. The encoder and the decoder, from the formats of R37 and the opcode map of R41 (the masks and matches of
spec/opcode_table.json). A word is one 32-bit little-endian value (R4, R34). Every instruction has one word (R36), so the
decoder reads the fields and then accepts the word only if it is the word of what was read: a zero field or an unused field
that holds anything else refuses it. -/

namespace Sys2Proof

/-- Why a word is no instruction; each is an illegal-instruction fault (R43, checks 1 to 3). -/
inductive DecodeError where
  /-- fewer than four bytes -/
  | truncated
  /-- check 1: MAJ is reserved (R42) -/
  | reservedMajor
  /-- check 2: the function field holds no assigned value (R41) -/
  | unassignedFunction
  /-- check 3: a zero field, an unused field, a reserved code or a forbidden combination -/
  | badField
deriving DecidableEq, Repr

/-- The n-bit field of w whose lowest bit is lo (R3). -/
def fld (w lo n : Nat) : BitVec n := BitVec.ofNat n (w / 2 ^ lo)

/-- The word of an instruction as a number: the fixed bits of its row and each field at its place (0 for a row without an
encoding). -/
def encodeNat : Instr → Nat
  | .add d a b w => 0x04000000 + d.toNat * 0x100000 + a.toNat * 0x2000 + b.toNat * 0x40 + w.toNat * 0x20
  | .sub d a b w => 0x04000001 + d.toNat * 0x100000 + a.toNat * 0x2000 + b.toNat * 0x40 + w.toNat * 0x20
  | .mul d a b w => 0x04000002 + d.toNat * 0x100000 + a.toNat * 0x2000 + b.toNat * 0x40 + w.toNat * 0x20
  | .mulhu d a b w => 0x04000003 + d.toNat * 0x100000 + a.toNat * 0x2000 + b.toNat * 0x40 + w.toNat * 0x20
  | .min d a b w => 0x04000004 + d.toNat * 0x100000 + a.toNat * 0x2000 + b.toNat * 0x40 + w.toNat * 0x20
  | .max d a b w => 0x04000005 + d.toNat * 0x100000 + a.toNat * 0x2000 + b.toNat * 0x40 + w.toNat * 0x20
  | .minu d a b w => 0x04000006 + d.toNat * 0x100000 + a.toNat * 0x2000 + b.toNat * 0x40 + w.toNat * 0x20
  | .maxu d a b w => 0x04000007 + d.toNat * 0x100000 + a.toNat * 0x2000 + b.toNat * 0x40 + w.toNat * 0x20
  | .divu d a b w => 0x04000008 + d.toNat * 0x100000 + a.toNat * 0x2000 + b.toNat * 0x40 + w.toNat * 0x20
  | .remu d a b w => 0x04000009 + d.toNat * 0x100000 + a.toNat * 0x2000 + b.toNat * 0x40 + w.toNat * 0x20
  | .and d a b w => 0x08000000 + d.toNat * 0x100000 + a.toNat * 0x2000 + b.toNat * 0x40 + w.toNat * 0x20
  | .or d a b w => 0x08000001 + d.toNat * 0x100000 + a.toNat * 0x2000 + b.toNat * 0x40 + w.toNat * 0x20
  | .xor d a b w => 0x08000002 + d.toNat * 0x100000 + a.toNat * 0x2000 + b.toNat * 0x40 + w.toNat * 0x20
  | .andn d a b w => 0x08000003 + d.toNat * 0x100000 + a.toNat * 0x2000 + b.toNat * 0x40 + w.toNat * 0x20
  | .shl d a b w => 0x08000004 + d.toNat * 0x100000 + a.toNat * 0x2000 + b.toNat * 0x40 + w.toNat * 0x20
  | .shr d a b w => 0x08000005 + d.toNat * 0x100000 + a.toNat * 0x2000 + b.toNat * 0x40 + w.toNat * 0x20
  | .sar d a b w => 0x08000006 + d.toNat * 0x100000 + a.toNat * 0x2000 + b.toNat * 0x40 + w.toNat * 0x20
  | .popc d a w => 0x08001C07 + d.toNat * 0x100000 + a.toNat * 0x2000 + w.toNat * 0x20
  | .clz d a w => 0x08001C08 + d.toNat * 0x100000 + a.toNat * 0x2000 + w.toNat * 0x20
  | .ctz d a w => 0x08001C09 + d.toNat * 0x100000 + a.toNat * 0x2000 + w.toNat * 0x20
  | .bfx d a b w => 0x0800000A + d.toNat * 0x100000 + a.toNat * 0x2000 + b.toNat * 0x40 + w.toNat * 0x20
  | .ceq d a b => 0x0C000000 + d.toNat * 0x100000 + a.toNat * 0x2000 + b.toNat * 0x40
  | .clt d a b => 0x0C000001 + d.toNat * 0x100000 + a.toNat * 0x2000 + b.toNat * 0x40
  | .cltu d a b => 0x0C000002 + d.toNat * 0x100000 + a.toNat * 0x2000 + b.toNat * 0x40
  | .geq g a b => 0x0C000008 + g.toNat * 0x100000 + a.toNat * 0x2000 + b.toNat * 0x40
  | .gne g a b => 0x0C000009 + g.toNat * 0x100000 + a.toNat * 0x2000 + b.toNat * 0x40
  | .glt g a b => 0x0C00000A + g.toNat * 0x100000 + a.toNat * 0x2000 + b.toNat * 0x40
  | .gle g a b => 0x0C00000B + g.toNat * 0x100000 + a.toNat * 0x2000 + b.toNat * 0x40
  | .gltu g a b => 0x0C00000C + g.toNat * 0x100000 + a.toNat * 0x2000 + b.toNat * 0x40
  | .gleu g a b => 0x0C00000D + g.toNat * 0x100000 + a.toNat * 0x2000 + b.toNat * 0x40
  | .gand g h j => 0x0C000010 + g.toNat * 0x100000 + h.toNat * 0x2000 + j.toNat * 0x40
  | .gor g h j => 0x0C000011 + g.toNat * 0x100000 + h.toNat * 0x2000 + j.toNat * 0x40
  | .gnot g h => 0x0C001C12 + g.toNat * 0x100000 + h.toNat * 0x2000
  | .madW d a b c => 0x10000000 + d.toNat * 0x100000 + a.toNat * 0x2000 + b.toNat * 0x40 + c.toNat * 0x4
  | .madD d a b c => 0x10000001 + d.toNat * 0x100000 + a.toNat * 0x2000 + b.toNat * 0x40 + c.toNat * 0x4
  | .shadd d a b c => 0x10000002 + d.toNat * 0x100000 + a.toNat * 0x2000 + b.toNat * 0x40 + c.toNat * 0x4
  | .bfi d a b c => 0x10000003 + d.toNat * 0x100000 + a.toNat * 0x2000 + b.toNat * 0x40 + c.toNat * 0x4
  | .addi d a i => 0x14000000 + d.toNat * 0x100000 + a.toNat * 0x2000 + i.toNat * 0x1
  | .andi d a i => 0x14000400 + d.toNat * 0x100000 + a.toNat * 0x2000 + i.toNat * 0x1
  | .ori d a i => 0x14000800 + d.toNat * 0x100000 + a.toNat * 0x2000 + i.toNat * 0x1
  | .xori d a i => 0x14000C00 + d.toNat * 0x100000 + a.toNat * 0x2000 + i.toNat * 0x1
  | .shli d a i => 0x14001000 + d.toNat * 0x100000 + a.toNat * 0x2000 + i.toNat * 0x1
  | .shri d a i => 0x14001400 + d.toNat * 0x100000 + a.toNat * 0x2000 + i.toNat * 0x1
  | .sari d a i => 0x14001800 + d.toNat * 0x100000 + a.toNat * 0x2000 + i.toNat * 0x1
  | .ceqi d a i => 0x18000000 + d.toNat * 0x100000 + a.toNat * 0x2000 + i.toNat * 0x1
  | .clti d a i => 0x18000400 + d.toNat * 0x100000 + a.toNat * 0x2000 + i.toNat * 0x1
  | .geqi g a i => 0x18000800 + g.toNat * 0x100000 + a.toNat * 0x2000 + i.toNat * 0x1
  | .gnei g a i => 0x18000C00 + g.toNat * 0x100000 + a.toNat * 0x2000 + i.toNat * 0x1
  | .glti g a i => 0x18001000 + g.toNat * 0x100000 + a.toNat * 0x2000 + i.toNat * 0x1
  | .sel d a b g => 0x1C000000 + d.toNat * 0x100000 + a.toNat * 0x2000 + b.toNat * 0x40 + g.toNat * 0x8
  | .seln d a b g => 0x1C000001 + d.toNat * 0x100000 + a.toNat * 0x2000 + b.toNat * 0x40 + g.toNat * 0x8
  | .fadd d a b => 0x20000000 + d.toNat * 0x100000 + a.toNat * 0x2000 + b.toNat * 0x40
  | .fsub d a b => 0x20000001 + d.toNat * 0x100000 + a.toNat * 0x2000 + b.toNat * 0x40
  | .fmul d a b => 0x20000002 + d.toNat * 0x100000 + a.toNat * 0x2000 + b.toNat * 0x40
  | .fmin d a b => 0x20000003 + d.toNat * 0x100000 + a.toNat * 0x2000 + b.toNat * 0x40
  | .fmax d a b => 0x20000004 + d.toNat * 0x100000 + a.toNat * 0x2000 + b.toNat * 0x40
  | .fabs d a => 0x20001C05 + d.toNat * 0x100000 + a.toNat * 0x2000
  | .fneg d a => 0x20001C06 + d.toNat * 0x100000 + a.toNat * 0x2000
  | .frint d a => 0x20001C07 + d.toNat * 0x100000 + a.toNat * 0x2000
  | .fma d a b c => 0x24000000 + d.toNat * 0x100000 + a.toNat * 0x2000 + b.toNat * 0x40 + c.toNat * 0x4
  | .fms d a b c => 0x24000001 + d.toNat * 0x100000 + a.toNat * 0x2000 + b.toNat * 0x40 + c.toNat * 0x4
  | .fnma d a b c => 0x24000002 + d.toNat * 0x100000 + a.toNat * 0x2000 + b.toNat * 0x40 + c.toNat * 0x4
  | .dfma d a b c => 0x24000003 + d.toNat * 0x100000 + a.toNat * 0x2000 + b.toNat * 0x40 + c.toNat * 0x4
  | .hadd2 d a b => 0x28000000 + d.toNat * 0x100000 + a.toNat * 0x2000 + b.toNat * 0x40
  | .hmul2 d a b => 0x28000001 + d.toNat * 0x100000 + a.toNat * 0x2000 + b.toNat * 0x40
  | .hmin2 d a b => 0x28000002 + d.toNat * 0x100000 + a.toNat * 0x2000 + b.toNat * 0x40
  | .hmax2 d a b => 0x28000003 + d.toNat * 0x100000 + a.toNat * 0x2000 + b.toNat * 0x40
  | .hfma2 d a b c => 0x2C000000 + d.toNat * 0x100000 + a.toNat * 0x2000 + b.toNat * 0x40 + c.toNat * 0x4
  | .dot4 d a b c => 0x2C000001 + d.toNat * 0x100000 + a.toNat * 0x2000 + b.toNat * 0x40 + c.toNat * 0x4
  | .dadd d a b => 0x30000000 + d.toNat * 0x100000 + a.toNat * 0x2000 + b.toNat * 0x40
  | .dsub d a b => 0x30000001 + d.toNat * 0x100000 + a.toNat * 0x2000 + b.toNat * 0x40
  | .dmul d a b => 0x30000002 + d.toNat * 0x100000 + a.toNat * 0x2000 + b.toNat * 0x40
  | .dmin d a b => 0x30000003 + d.toNat * 0x100000 + a.toNat * 0x2000 + b.toNat * 0x40
  | .dmax d a b => 0x30000004 + d.toNat * 0x100000 + a.toNat * 0x2000 + b.toNat * 0x40
  | .cvtF32S32 d a => 0x34001C00 + d.toNat * 0x100000 + a.toNat * 0x2000
  | .cvtS32F32 d a => 0x34001C01 + d.toNat * 0x100000 + a.toNat * 0x2000
  | .cvtU32F32 d a => 0x34001C02 + d.toNat * 0x100000 + a.toNat * 0x2000
  | .cvtF64F32 d a => 0x34001C03 + d.toNat * 0x100000 + a.toNat * 0x2000
  | .cvtF32F64 d a => 0x34001C04 + d.toNat * 0x100000 + a.toNat * 0x2000
  | .cvtF64S64 d a => 0x34001C05 + d.toNat * 0x100000 + a.toNat * 0x2000
  | .cvtS64F64 d a => 0x34001C06 + d.toNat * 0x100000 + a.toNat * 0x2000
  | .cvtBf16F32 d a => 0x34001C07 + d.toNat * 0x100000 + a.toNat * 0x2000
  | .cvtF32Bf16 d a => 0x34001C08 + d.toNat * 0x100000 + a.toNat * 0x2000
  | .cvtF16F32 d a => 0x34001C09 + d.toNat * 0x100000 + a.toNat * 0x2000
  | .cvtF32F16 d a => 0x34001C0A + d.toNat * 0x100000 + a.toNat * 0x2000
  | .pack2 d a b => 0x3400000B + d.toNat * 0x100000 + a.toNat * 0x2000 + b.toNat * 0x40
  | .fclt d a b => 0x38000000 + d.toNat * 0x100000 + a.toNat * 0x2000 + b.toNat * 0x40
  | .fcle d a b => 0x38000001 + d.toNat * 0x100000 + a.toNat * 0x2000 + b.toNat * 0x40
  | .fceq d a b => 0x38000002 + d.toNat * 0x100000 + a.toNat * 0x2000 + b.toNat * 0x40
  | .fglt g a b => 0x38000008 + g.toNat * 0x100000 + a.toNat * 0x2000 + b.toNat * 0x40
  | .fgle g a b => 0x38000009 + g.toNat * 0x100000 + a.toNat * 0x2000 + b.toNat * 0x40
  | .fgeq g a b => 0x3800000A + g.toNat * 0x100000 + a.toNat * 0x2000 + b.toNat * 0x40
  | .fgne g a b => 0x3800000B + g.toNat * 0x100000 + a.toNat * 0x2000 + b.toNat * 0x40
  | .fgun g a b => 0x3800000C + g.toNat * 0x100000 + a.toNat * 0x2000 + b.toNat * 0x40
  | .dglt g a b => 0x38000010 + g.toNat * 0x100000 + a.toNat * 0x2000 + b.toNat * 0x40
  | .ex2 d a r => 0x3C001C00 + d.toNat * 0x100000 + a.toNat * 0x2000 + r.toNat * 0x20
  | .lg2 d a r => 0x3C001C01 + d.toNat * 0x100000 + a.toNat * 0x2000 + r.toNat * 0x20
  | .rcp d a r => 0x3C001C02 + d.toNat * 0x100000 + a.toNat * 0x2000 + r.toNat * 0x20
  | .rsq d a r => 0x3C001C03 + d.toNat * 0x100000 + a.toNat * 0x2000 + r.toNat * 0x20
  | .sqrt d a r => 0x3C001C04 + d.toNat * 0x100000 + a.toNat * 0x2000 + r.toNat * 0x20
  | .sinpi d a r => 0x3C001C05 + d.toNat * 0x100000 + a.toNat * 0x2000 + r.toNat * 0x20
  | .cospi d a r => 0x3C001C06 + d.toNat * 0x100000 + a.toNat * 0x2000 + r.toNat * 0x20
  | .tanh d a r => 0x3C001C07 + d.toNat * 0x100000 + a.toNat * 0x2000 + r.toNat * 0x20
  | .sigm d a r => 0x3C001C08 + d.toNat * 0x100000 + a.toNat * 0x2000 + r.toNat * 0x20
  | .gelu d a r => 0x3C001C09 + d.toNat * 0x100000 + a.toNat * 0x2000 + r.toNat * 0x20
  | .qse3 d a => 0x40001C00 + d.toNat * 0x100000 + a.toNat * 0x2000
  | .qse5 d a => 0x40001C01 + d.toNat * 0x100000 + a.toNat * 0x2000
  | .qse8 d a => 0x40001C02 + d.toNat * 0x100000 + a.toNat * 0x2000
  | .dqse3 d a => 0x40001C03 + d.toNat * 0x100000 + a.toNat * 0x2000
  | .dqse5 d a => 0x40001C04 + d.toNat * 0x100000 + a.toNat * 0x2000
  | .dqse8 d a => 0x40001C05 + d.toNat * 0x100000 + a.toNat * 0x2000
  | .uadd s d a b => 0x44000000 + s.toNat * 0x2000000 + d.toNat * 0x100000 + a.toNat * 0x2000 + b.toNat * 0x40
  | .usub s d a b => 0x44000001 + s.toNat * 0x2000000 + d.toNat * 0x100000 + a.toNat * 0x2000 + b.toNat * 0x40
  | .umul s d a b => 0x44000002 + s.toNat * 0x2000000 + d.toNat * 0x100000 + a.toNat * 0x2000 + b.toNat * 0x40
  | .umin s d a b => 0x44000003 + s.toNat * 0x2000000 + d.toNat * 0x100000 + a.toNat * 0x2000 + b.toNat * 0x40
  | .umax s d a b => 0x44000004 + s.toNat * 0x2000000 + d.toNat * 0x100000 + a.toNat * 0x2000 + b.toNat * 0x40
  | .uand s d a b => 0x44000005 + s.toNat * 0x2000000 + d.toNat * 0x100000 + a.toNat * 0x2000 + b.toNat * 0x40
  | .uor s d a b => 0x44000006 + s.toNat * 0x2000000 + d.toNat * 0x100000 + a.toNat * 0x2000 + b.toNat * 0x40
  | .ushl s d a b => 0x44000007 + s.toNat * 0x2000000 + d.toNat * 0x100000 + a.toNat * 0x2000 + b.toNat * 0x40
  | .ushr s d a b => 0x44000008 + s.toNat * 0x2000000 + d.toNat * 0x100000 + a.toNat * 0x2000 + b.toNat * 0x40
  | .uceq s d a b => 0x44000009 + s.toNat * 0x2000000 + d.toNat * 0x100000 + a.toNat * 0x2000 + b.toNat * 0x40
  | .uclt s d a b => 0x4400000A + s.toNat * 0x2000000 + d.toNat * 0x100000 + a.toNat * 0x2000 + b.toNat * 0x40
  | .ucltu s d a b => 0x4400000B + s.toNat * 0x2000000 + d.toNat * 0x100000 + a.toNat * 0x2000 + b.toNat * 0x40
  | .udivu s d a b => 0x4400000C + s.toNat * 0x2000000 + d.toNat * 0x100000 + a.toNat * 0x2000 + b.toNat * 0x40
  | .uaddi s d a i => 0x48000000 + s.toNat * 0x2000000 + d.toNat * 0x100000 + a.toNat * 0x2000 + i.toNat * 0x1
  | .uandi s d a i => 0x48000400 + s.toNat * 0x2000000 + d.toNat * 0x100000 + a.toNat * 0x2000 + i.toNat * 0x1
  | .ushli s d a i => 0x48000800 + s.toNat * 0x2000000 + d.toNat * 0x100000 + a.toNat * 0x2000 + i.toNat * 0x1
  | .ushri s d a i => 0x48000C00 + s.toNat * 0x2000000 + d.toNat * 0x100000 + a.toNat * 0x2000 + i.toNat * 0x1
  | .uceqi s d a i => 0x48001000 + s.toNat * 0x2000000 + d.toNat * 0x100000 + a.toNat * 0x2000 + i.toNat * 0x1
  | .uclti s d a i => 0x48001400 + s.toNat * 0x2000000 + d.toNat * 0x100000 + a.toNat * 0x2000 + i.toNat * 0x1
  | .ulda s d a o => 0x4C000000 + s.toNat * 0x2000000 + d.toNat * 0x100000 + a.toNat * 0x2000 + o.toNat * 0x1
  | .uldk s d a o => 0x4C000400 + s.toNat * 0x2000000 + d.toNat * 0x100000 + a.toNat * 0x2000 + o.toNat * 0x1
  | .uld d a o => 0x4C000800 + d.toNat * 0x100000 + a.toNat * 0x2000 + o.toNat * 0x1
  | .ureadl d a b => 0x50000000 + d.toNat * 0x100000 + a.toNat * 0x2000 + b.toNat * 0x40
  | .ufirst d a => 0x50001C01 + d.toNat * 0x100000 + a.toNat * 0x2000
  | .ld x a m z c o p => 0x60000000 + x.toNat * 0x80000 + a.toNat * 0x1000 + m.toNat * 0x800 + z.toNat * 0x100 + c.toNat * 0x20 + o.toNat * 0x8 + p.toNat * 0x1
  | .st x a m z c o g => 0x64000000 + x.toNat * 0x80000 + a.toNat * 0x1000 + m.toNat * 0x800 + z.toNat * 0x100 + c.toNat * 0x20 + o.toNat * 0x8 + g.toNat * 0x1
  | .atomAdd x a w c o g => 0x68000000 + x.toNat * 0x100000 + a.toNat * 0x2000 + w.toNat * 0x1000 + c.toNat * 0x20 + o.toNat * 0x8 + g.toNat * 0x1
  | .atomMin x a w c o g => 0x68000100 + x.toNat * 0x100000 + a.toNat * 0x2000 + w.toNat * 0x1000 + c.toNat * 0x20 + o.toNat * 0x8 + g.toNat * 0x1
  | .atomMax x a w c o g => 0x68000200 + x.toNat * 0x100000 + a.toNat * 0x2000 + w.toNat * 0x1000 + c.toNat * 0x20 + o.toNat * 0x8 + g.toNat * 0x1
  | .atomAnd x a w c o g => 0x68000300 + x.toNat * 0x100000 + a.toNat * 0x2000 + w.toNat * 0x1000 + c.toNat * 0x20 + o.toNat * 0x8 + g.toNat * 0x1
  | .atomOr x a w c o g => 0x68000400 + x.toNat * 0x100000 + a.toNat * 0x2000 + w.toNat * 0x1000 + c.toNat * 0x20 + o.toNat * 0x8 + g.toNat * 0x1
  | .atomXor x a w c o g => 0x68000500 + x.toNat * 0x100000 + a.toNat * 0x2000 + w.toNat * 0x1000 + c.toNat * 0x20 + o.toNat * 0x8 + g.toNat * 0x1
  | .atomExch x a w c o g => 0x68000600 + x.toNat * 0x100000 + a.toNat * 0x2000 + w.toNat * 0x1000 + c.toNat * 0x20 + o.toNat * 0x8 + g.toNat * 0x1
  | .atomCas x a w c o g => 0x68000700 + x.toNat * 0x100000 + a.toNat * 0x2000 + w.toNat * 0x1000 + c.toNat * 0x20 + o.toNat * 0x8 + g.toNat * 0x1
  | .atomFadd x a w c o g => 0x68000800 + x.toNat * 0x100000 + a.toNat * 0x2000 + w.toNat * 0x1000 + c.toNat * 0x20 + o.toNat * 0x8 + g.toNat * 0x1
  | .redAdd x a w c o g => 0x6C000000 + x.toNat * 0x100000 + a.toNat * 0x2000 + w.toNat * 0x1000 + c.toNat * 0x20 + o.toNat * 0x8 + g.toNat * 0x1
  | .redMax x a w c o g => 0x6C000100 + x.toNat * 0x100000 + a.toNat * 0x2000 + w.toNat * 0x1000 + c.toNat * 0x20 + o.toNat * 0x8 + g.toNat * 0x1
  | .redFadd x a w c o g => 0x6C000200 + x.toNat * 0x100000 + a.toNat * 0x2000 + w.toNat * 0x1000 + c.toNat * 0x20 + o.toNat * 0x8 + g.toNat * 0x1
  | .redFadd2 x a c o g => 0x6C000300 + x.toNat * 0x100000 + a.toNat * 0x2000 + c.toNat * 0x20 + o.toNat * 0x8 + g.toNat * 0x1
  | .fence c o => 0x70380000 + c.toNat * 0x1000 + o.toNat * 0x400
  | .fenceR a c o => 0x70400000 + a.toNat * 0x8000 + c.toNat * 0x1000 + o.toNat * 0x400
  | .cwb a c => 0x70800000 + a.toNat * 0x8000 + c.toNat * 0x1000
  | .cinv a c => 0x70C00000 + a.toNat * 0x8000 + c.toNat * 0x1000
  | .pref a c => 0x71000000 + a.toNat * 0x8000 + c.toNat * 0x1000
  | .br g d => 0x80000000 + g.toNat * 0x800000 + d.toNat * 0x1
  | .brn g d => 0x80200000 + g.toNat * 0x800000 + d.toNat * 0x1
  | .call g d => 0x80400000 + g.toNat * 0x800000 + d.toNat * 0x1
  | .bruz s c d => 0x84000000 + s.toNat * 0x2000000 + c.toNat * 0x40000 + d.toNat * 0x1
  | .brunz s c d => 0x84020000 + s.toNat * 0x2000000 + c.toNat * 0x40000 + d.toNat * 0x1
  | .jmpi a => 0x8BF01C00 + a.toNat * 0x2000
  | .calli a => 0x8BF01C01 + a.toNat * 0x2000
  | .ret => 0x8BFE1C02
  | .land => 0x8BFE1C03
  | .park a => 0x8FF01C00 + a.toNat * 0x2000
  | .yield => 0x8FFE1C01
  | .exit => 0x8FFE1C02
  | .regroup a => 0x93F01C00 + a.toNat * 0x2000
  | .part k a => 0x90001C01 + k.toNat * 0x100000 + a.toNat * 0x2000
  | .gmask d k => 0x90001C02 + d.toNat * 0x100000 + k.toNat * 0x2000
  | .vall d a k => 0x94001C00 + d.toNat * 0x100000 + a.toNat * 0x2000 + k.toNat * 0x10
  | .vany d a k => 0x94001C01 + d.toNat * 0x100000 + a.toNat * 0x2000 + k.toNat * 0x10
  | .vbal d a k => 0x94001C02 + d.toNat * 0x100000 + a.toNat * 0x2000 + k.toNat * 0x10
  | .shfl d a b k => 0x94000003 + d.toNat * 0x100000 + a.toNat * 0x2000 + b.toNat * 0x40 + k.toNat * 0x10
  | .push d a b k => 0x94000004 + d.toNat * 0x100000 + a.toNat * 0x2000 + b.toNat * 0x40 + k.toNat * 0x10
  | .csum d a k => 0x94001C05 + d.toNat * 0x100000 + a.toNat * 0x2000 + k.toNat * 0x10
  | .cmax d a k => 0x94001C06 + d.toNat * 0x100000 + a.toNat * 0x2000 + k.toNat * 0x10
  | .cfsum d a k => 0x94001C07 + d.toNat * 0x100000 + a.toNat * 0x2000 + k.toNat * 0x10
  | .cscan d a k => 0x94001C08 + d.toNat * 0x100000 + a.toNat * 0x2000 + k.toNat * 0x10
  | .compress d a b m => 0x98000000 + d.toNat * 0x100000 + a.toNat * 0x2000 + b.toNat * 0x40 + m.toNat * 0x4
  | .expand d a b m => 0x98000001 + d.toNat * 0x100000 + a.toNat * 0x2000 + b.toNat * 0x40 + m.toNat * 0x4
  | .slideup d a b m => 0x98000002 + d.toNat * 0x100000 + a.toNat * 0x2000 + b.toNat * 0x40 + m.toNat * 0x4
  | .slidedn d a b m => 0x98000003 + d.toNat * 0x100000 + a.toNat * 0x2000 + b.toNat * 0x40 + m.toNat * 0x4
  | .loop l c e t r u => 0xA0000000 + l.toNat * 0x1000000 + c.toNat * 0x20000 + e.toNat * 0x20 + t.toNat * 0x4 + r.toNat * 0x2 + u.toNat * 0x1
  | .lbrk g l => 0xA40387E0 + g.toNat * 0x800000 + l.toNat * 0x200000
  | .lrd g l a h => 0xA4040000 + g.toNat * 0x800000 + l.toNat * 0x200000 + a.toNat * 0x800 + h.toNat * 0x20
  | .lwr l a => 0xA40807E0 + l.toNat * 0x200000 + a.toNat * 0x800
  | .adbase k a b => 0xA8000000 + k.toNat * 0x400000 + a.toNat * 0x1000 + b.toNat * 0x20
  | .adcoef k a b => 0xA8080000 + k.toNat * 0x400000 + a.toNat * 0x1000 + b.toNat * 0x20
  | .adlim k a => 0xA8100E00 + k.toNat * 0x400000 + a.toNat * 0x1000
  | .adstg k a => 0xA8180E00 + k.toNat * 0x400000 + a.toNat * 0x1000
  | .macq e => 0xC0000000 + e.toNat * 0x20
  | .mrel => 0xC0400000
  | .mwl t => 0xC0800000 + t.toNat * 0x4000
  | .mms a k z => 0xC0C00000 + a.toNat * 0x40000 + k.toNat * 0x800 + z.toNat * 0x400
  | .mrd d a k => 0xC1000000 + d.toNat * 0x10000 + a.toNat * 0x200 + k.toNat * 0x40
  | .mwr d a k => 0xC1400000 + d.toNat * 0x10000 + a.toNat * 0x200 + k.toNat * 0x40
  | .mepi a k e => 0xC1800000 + a.toNat * 0x40000 + k.toNat * 0x800 + e.toNat * 0x20
  | .mzero k => 0xC1C00000 + k.toNat * 0x800
  | .thbase t a b => 0xC4000000 + t.toNat * 0x400000 + a.toNat * 0x1000 + b.toNat * 0x20
  | .thshape t a b => 0xC4080000 + t.toNat * 0x400000 + a.toNat * 0x1000 + b.toNat * 0x20
  | .thfmt t a b => 0xC4100000 + t.toNat * 0x400000 + a.toNat * 0x1000 + b.toNat * 0x20
  | .thmc t a => 0xC4180E00 + t.toNat * 0x400000 + a.toNat * 0x1000
  | .cpy s c t j => 0xC8000000 + s.toNat * 0x40000 + c.toNat * 0x8000 + t.toNat * 0x4000 + j.toNat * 0x2000
  | .cpym s c t j => 0xC8800000 + s.toNat * 0x40000 + c.toNat * 0x8000 + t.toNat * 0x4000 + j.toNat * 0x2000
  | .cpyg s c t j => 0xC9000000 + s.toNat * 0x40000 + c.toNat * 0x8000 + t.toNat * 0x4000 + j.toNat * 0x2000
  | .chain s i o => 0xCC000000 + s.toNat * 0x200000 + i.toNat * 0x20000 + o.toNat * 0x2000
  | .jinit a b => 0xD0000000 + a.toNat * 0x20000 + b.toNat * 0x400
  | .jarv a b c => 0xD1000000 + a.toNat * 0x20000 + b.toNat * 0x400 + c.toNat * 0x80
  | .jexp a b => 0xD2000000 + a.toNat * 0x20000 + b.toNat * 0x400
  | .jwait a b c => 0xD3000000 + a.toNat * 0x20000 + b.toNat * 0x400 + c.toNat * 0x80
  | .tlrd e a d => 0xD4000000 + e.toNat * 0x800000 + a.toNat * 0x10000 + d.toNat * 0x100
  | .tlwait e a c => 0xD6000000 + e.toNat * 0x800000 + a.toNat * 0x10000 + c.toNat * 0x2000
  | .enq s p => 0xD8000000 + s.toNat * 0x200000 + p.toNat * 0x100000
  | .trap c => 0xE0000000 + c.toNat * 0x1
  | .bkpt c => 0xE1000000 + c.toNat * 0x1
  | .eret => 0xE2000000
  | .csrr d n => 0xE4038000 + d.toNat * 0x40000 + n.toNat * 0x1
  | .csrw a n => 0xE5FC0000 + a.toNat * 0x800 + n.toNat * 0x1
  | .csrs d a n => 0xE6000000 + d.toNat * 0x40000 + a.toNat * 0x800 + n.toNat * 0x1
  | .msgs a => 0xE5FC0031 + a.toNat * 0x800
  | .msgr d => 0xE4038032 + d.toNat * 0x40000
  | .metr d a => 0xE8000000 + d.toNat * 0x200000 + a.toNat * 0x4000
  | .himm h => 0xFC000000 + h.toNat * 0x1
  | .hsched p c b a y => 0xFD000000 + p.toNat * 0x10 + c.toNat * 0x8 + b.toNat * 0x4 + a.toNat * 0x2 + y.toNat * 0x1
  | .hmod n c p e m => 0xFE000000 + n.toNat * 0x100 + c.toNat * 0x80 + p.toNat * 0x10 + e.toNat * 0x8 + m.toNat * 0x1
  | .loadReply _ _ _ => 0
  | .acknowledgement _ => 0
  | .homeRequest _ => 0
  | .linePush _ => 0
  | .invalidation _ _ => 0
  | .eviction _ _ _ => 0
  | .pageWalk _ _ _ _ => 0
  | .scratchRefill _ _ _ => 0
  | .migrationReplay _ => 0
  | .fenceRDrain _ => 0
  | .messageArrival _ => 0
  | .msgrDelivery _ => 0
  | .parkWake _ _ => 0
  | .parkTimeout _ _ => 0
  | .backEdge _ => 0
  | .regroupPoolTimeout _ _ => 0
  | .macqGrant _ => 0
  | .arbiterSelect _ => 0
  | .mwlComplete _ => 0
  | .mmsComplete _ => 0
  | .drainStart _ => 0
  | .drainEnd _ => 0
  | .chainComplete _ => 0
  | .copyBeat _ => 0
  | .jwaitRelease _ _ => 0
  | .tlwaitRelease _ _ => 0
  | .handlerEntry _ => 0
  | .killWorkgroup _ => 0
  | .killNode _ => 0
  | .killRegion _ => 0
  | .doorbell _ _ => 0
  | .qcbFirmwareWalk => 0
  | .nop _ => 0
  | .node _ => 0
  | .wait _ => 0
  | .waitReread _ => 0
  | .waitParkedRewalk _ => 0
  | .admission => 0
  | .argumentCopy _ => 0
  | .placeWorkgroup _ => 0
  | .jigJobDone _ _ => 0
  | .nodeBlocking _ => 0
  | .drainExpiry _ => 0
  | .save _ _ => 0
  | .flush _ => 0
  | .resumeWorkgroup _ => 0
  | .ringMove _ => 0
  | .nodeComplete _ => 0
  | .invalidationRequest _ => 0
  | .invalidationComplete => 0
  | .create => 0
  | .req => 0
  | .seal => 0
  | .sealHandover _ => 0
  | .resume => 0
  | .restart => 0
  | .reportWrite => 0
  | .registration => 0
  | .enable _ => 0
  | .errcnt _ => 0
  | .congest _ => 0
  | .evlost _ => 0
  | .registerWrite _ _ => 0
  | .hostBar2Access _ _ _ _ => 0
  | .colInboundRequest _ _ _ _ _ => 0
  | .routeLost _ => 0
  | .pcieLinkTrain _ _ => 0
  | .colPortTrain _ _ => 0
  | .congestionEvent _ _ => 0
  | .patrolScrub _ _ _ => 0
  | .coldReset _ => 0
  | .functionLevelReset => 0
  | .throttleStart _ _ => 0
  | .throttleEnd _ _ => 0
  | .trip _ _ => 0
  | .illegalInstruction _ => 0
  | .instructionFetchFault => 0
  | .clockCycle => 0
  | .debugHaltEnd _ => 0
  | .debuggerAccess _ _ _ _ _ => 0
  | .colPortDown _ => 0
  | .flitCrcFailure _ => 0

/-- The words of an instruction: one, or none for a row without an encoding. -/
def encode (i : Instr) : List (BitVec 32) := if i.isWord then [BitVec.ofNat 32 (encodeNat i)] else []

/-- Function field of MAJ 0x1 (R41). -/
def decodeIalu (w : Nat) : Except DecodeError Instr :=
  match w / 0x1 % 32 with
  | 0 => .ok (.add (fld w 20 _) (fld w 13 _) (fld w 6 _) (fld w 5 _))
  | 1 => .ok (.sub (fld w 20 _) (fld w 13 _) (fld w 6 _) (fld w 5 _))
  | 2 => .ok (.mul (fld w 20 _) (fld w 13 _) (fld w 6 _) (fld w 5 _))
  | 3 => .ok (.mulhu (fld w 20 _) (fld w 13 _) (fld w 6 _) (fld w 5 _))
  | 4 => .ok (.min (fld w 20 _) (fld w 13 _) (fld w 6 _) (fld w 5 _))
  | 5 => .ok (.max (fld w 20 _) (fld w 13 _) (fld w 6 _) (fld w 5 _))
  | 6 => .ok (.minu (fld w 20 _) (fld w 13 _) (fld w 6 _) (fld w 5 _))
  | 7 => .ok (.maxu (fld w 20 _) (fld w 13 _) (fld w 6 _) (fld w 5 _))
  | 8 => .ok (.divu (fld w 20 _) (fld w 13 _) (fld w 6 _) (fld w 5 _))
  | 9 => .ok (.remu (fld w 20 _) (fld w 13 _) (fld w 6 _) (fld w 5 _))
  | _ => .error .unassignedFunction

/-- Function field of MAJ 0x2 (R41). -/
def decodeIlogic (w : Nat) : Except DecodeError Instr :=
  match w / 0x1 % 32 with
  | 0 => .ok (.and (fld w 20 _) (fld w 13 _) (fld w 6 _) (fld w 5 _))
  | 1 => .ok (.or (fld w 20 _) (fld w 13 _) (fld w 6 _) (fld w 5 _))
  | 2 => .ok (.xor (fld w 20 _) (fld w 13 _) (fld w 6 _) (fld w 5 _))
  | 3 => .ok (.andn (fld w 20 _) (fld w 13 _) (fld w 6 _) (fld w 5 _))
  | 4 => .ok (.shl (fld w 20 _) (fld w 13 _) (fld w 6 _) (fld w 5 _))
  | 5 => .ok (.shr (fld w 20 _) (fld w 13 _) (fld w 6 _) (fld w 5 _))
  | 6 => .ok (.sar (fld w 20 _) (fld w 13 _) (fld w 6 _) (fld w 5 _))
  | 7 => .ok (.popc (fld w 20 _) (fld w 13 _) (fld w 5 _))
  | 8 => .ok (.clz (fld w 20 _) (fld w 13 _) (fld w 5 _))
  | 9 => .ok (.ctz (fld w 20 _) (fld w 13 _) (fld w 5 _))
  | 10 => .ok (.bfx (fld w 20 _) (fld w 13 _) (fld w 6 _) (fld w 5 _))
  | _ => .error .unassignedFunction

/-- Function field of MAJ 0x3 (R41). -/
def decodeIcmp (w : Nat) : Except DecodeError Instr :=
  match w / 0x1 % 64 with
  | 0 => .ok (.ceq (fld w 20 _) (fld w 13 _) (fld w 6 _))
  | 1 => .ok (.clt (fld w 20 _) (fld w 13 _) (fld w 6 _))
  | 2 => .ok (.cltu (fld w 20 _) (fld w 13 _) (fld w 6 _))
  | 8 => .ok (.geq (fld w 20 _) (fld w 13 _) (fld w 6 _))
  | 9 => .ok (.gne (fld w 20 _) (fld w 13 _) (fld w 6 _))
  | 10 => .ok (.glt (fld w 20 _) (fld w 13 _) (fld w 6 _))
  | 11 => .ok (.gle (fld w 20 _) (fld w 13 _) (fld w 6 _))
  | 12 => .ok (.gltu (fld w 20 _) (fld w 13 _) (fld w 6 _))
  | 13 => .ok (.gleu (fld w 20 _) (fld w 13 _) (fld w 6 _))
  | 16 => .ok (.gand (fld w 20 _) (fld w 13 _) (fld w 6 _))
  | 17 => .ok (.gor (fld w 20 _) (fld w 13 _) (fld w 6 _))
  | 18 => .ok (.gnot (fld w 20 _) (fld w 13 _))
  | _ => .error .unassignedFunction

/-- Function field of MAJ 0x4 (R41). -/
def decodeIl4 (w : Nat) : Except DecodeError Instr :=
  match w / 0x1 % 4 with
  | 0 => .ok (.madW (fld w 20 _) (fld w 13 _) (fld w 6 _) (fld w 2 _))
  | 1 => .ok (.madD (fld w 20 _) (fld w 13 _) (fld w 6 _) (fld w 2 _))
  | 2 => .ok (.shadd (fld w 20 _) (fld w 13 _) (fld w 6 _) (fld w 2 _))
  | 3 => .ok (.bfi (fld w 20 _) (fld w 13 _) (fld w 6 _) (fld w 2 _))
  | _ => .error .unassignedFunction

/-- Function field of MAJ 0x5 (R41). -/
def decodeIimm (w : Nat) : Except DecodeError Instr :=
  match w / 0x400 % 8 with
  | 0 => .ok (.addi (fld w 20 _) (fld w 13 _) (fld w 0 _))
  | 1 => .ok (.andi (fld w 20 _) (fld w 13 _) (fld w 0 _))
  | 2 => .ok (.ori (fld w 20 _) (fld w 13 _) (fld w 0 _))
  | 3 => .ok (.xori (fld w 20 _) (fld w 13 _) (fld w 0 _))
  | 4 => .ok (.shli (fld w 20 _) (fld w 13 _) (fld w 0 _))
  | 5 => .ok (.shri (fld w 20 _) (fld w 13 _) (fld w 0 _))
  | 6 => .ok (.sari (fld w 20 _) (fld w 13 _) (fld w 0 _))
  | _ => .error .unassignedFunction

/-- Function field of MAJ 0x6 (R41). -/
def decodeCimm (w : Nat) : Except DecodeError Instr :=
  match w / 0x400 % 8 with
  | 0 => .ok (.ceqi (fld w 20 _) (fld w 13 _) (fld w 0 _))
  | 1 => .ok (.clti (fld w 20 _) (fld w 13 _) (fld w 0 _))
  | 2 => .ok (.geqi (fld w 20 _) (fld w 13 _) (fld w 0 _))
  | 3 => .ok (.gnei (fld w 20 _) (fld w 13 _) (fld w 0 _))
  | 4 => .ok (.glti (fld w 20 _) (fld w 13 _) (fld w 0 _))
  | _ => .error .unassignedFunction

/-- Function field of MAJ 0x7 (R41). -/
def decodeSel (w : Nat) : Except DecodeError Instr :=
  match w / 0x1 % 8 with
  | 0 => .ok (.sel (fld w 20 _) (fld w 13 _) (fld w 6 _) (fld w 3 _))
  | 1 => .ok (.seln (fld w 20 _) (fld w 13 _) (fld w 6 _) (fld w 3 _))
  | _ => .error .unassignedFunction

/-- Function field of MAJ 0x8 (R41). -/
def decodeFp32 (w : Nat) : Except DecodeError Instr :=
  match w / 0x1 % 64 with
  | 0 => .ok (.fadd (fld w 20 _) (fld w 13 _) (fld w 6 _))
  | 1 => .ok (.fsub (fld w 20 _) (fld w 13 _) (fld w 6 _))
  | 2 => .ok (.fmul (fld w 20 _) (fld w 13 _) (fld w 6 _))
  | 3 => .ok (.fmin (fld w 20 _) (fld w 13 _) (fld w 6 _))
  | 4 => .ok (.fmax (fld w 20 _) (fld w 13 _) (fld w 6 _))
  | 5 => .ok (.fabs (fld w 20 _) (fld w 13 _))
  | 6 => .ok (.fneg (fld w 20 _) (fld w 13 _))
  | 7 => .ok (.frint (fld w 20 _) (fld w 13 _))
  | _ => .error .unassignedFunction

/-- Function field of MAJ 0x9 (R41). -/
def decodeFma (w : Nat) : Except DecodeError Instr :=
  match w / 0x1 % 4 with
  | 0 => .ok (.fma (fld w 20 _) (fld w 13 _) (fld w 6 _) (fld w 2 _))
  | 1 => .ok (.fms (fld w 20 _) (fld w 13 _) (fld w 6 _) (fld w 2 _))
  | 2 => .ok (.fnma (fld w 20 _) (fld w 13 _) (fld w 6 _) (fld w 2 _))
  | 3 => .ok (.dfma (fld w 20 _) (fld w 13 _) (fld w 6 _) (fld w 2 _))
  | _ => .error .unassignedFunction

/-- Function field of MAJ 0xa (R41). -/
def decodeBf2 (w : Nat) : Except DecodeError Instr :=
  match w / 0x1 % 64 with
  | 0 => .ok (.hadd2 (fld w 20 _) (fld w 13 _) (fld w 6 _))
  | 1 => .ok (.hmul2 (fld w 20 _) (fld w 13 _) (fld w 6 _))
  | 2 => .ok (.hmin2 (fld w 20 _) (fld w 13 _) (fld w 6 _))
  | 3 => .ok (.hmax2 (fld w 20 _) (fld w 13 _) (fld w 6 _))
  | _ => .error .unassignedFunction

/-- Function field of MAJ 0xb (R41). -/
def decodeHl4 (w : Nat) : Except DecodeError Instr :=
  match w / 0x1 % 4 with
  | 0 => .ok (.hfma2 (fld w 20 _) (fld w 13 _) (fld w 6 _) (fld w 2 _))
  | 1 => .ok (.dot4 (fld w 20 _) (fld w 13 _) (fld w 6 _) (fld w 2 _))
  | _ => .error .unassignedFunction

/-- Function field of MAJ 0xc (R41). -/
def decodeFp64 (w : Nat) : Except DecodeError Instr :=
  match w / 0x1 % 64 with
  | 0 => .ok (.dadd (fld w 20 _) (fld w 13 _) (fld w 6 _))
  | 1 => .ok (.dsub (fld w 20 _) (fld w 13 _) (fld w 6 _))
  | 2 => .ok (.dmul (fld w 20 _) (fld w 13 _) (fld w 6 _))
  | 3 => .ok (.dmin (fld w 20 _) (fld w 13 _) (fld w 6 _))
  | 4 => .ok (.dmax (fld w 20 _) (fld w 13 _) (fld w 6 _))
  | _ => .error .unassignedFunction

/-- Function field of MAJ 0xd (R41). -/
def decodeCvt (w : Nat) : Except DecodeError Instr :=
  match w / 0x1 % 64 with
  | 0 => .ok (.cvtF32S32 (fld w 20 _) (fld w 13 _))
  | 1 => .ok (.cvtS32F32 (fld w 20 _) (fld w 13 _))
  | 2 => .ok (.cvtU32F32 (fld w 20 _) (fld w 13 _))
  | 3 => .ok (.cvtF64F32 (fld w 20 _) (fld w 13 _))
  | 4 => .ok (.cvtF32F64 (fld w 20 _) (fld w 13 _))
  | 5 => .ok (.cvtF64S64 (fld w 20 _) (fld w 13 _))
  | 6 => .ok (.cvtS64F64 (fld w 20 _) (fld w 13 _))
  | 7 => .ok (.cvtBf16F32 (fld w 20 _) (fld w 13 _))
  | 8 => .ok (.cvtF32Bf16 (fld w 20 _) (fld w 13 _))
  | 9 => .ok (.cvtF16F32 (fld w 20 _) (fld w 13 _))
  | 10 => .ok (.cvtF32F16 (fld w 20 _) (fld w 13 _))
  | 11 => .ok (.pack2 (fld w 20 _) (fld w 13 _) (fld w 6 _))
  | _ => .error .unassignedFunction

/-- Function field of MAJ 0xe (R41). -/
def decodeFcmp (w : Nat) : Except DecodeError Instr :=
  match w / 0x1 % 64 with
  | 0 => .ok (.fclt (fld w 20 _) (fld w 13 _) (fld w 6 _))
  | 1 => .ok (.fcle (fld w 20 _) (fld w 13 _) (fld w 6 _))
  | 2 => .ok (.fceq (fld w 20 _) (fld w 13 _) (fld w 6 _))
  | 8 => .ok (.fglt (fld w 20 _) (fld w 13 _) (fld w 6 _))
  | 9 => .ok (.fgle (fld w 20 _) (fld w 13 _) (fld w 6 _))
  | 10 => .ok (.fgeq (fld w 20 _) (fld w 13 _) (fld w 6 _))
  | 11 => .ok (.fgne (fld w 20 _) (fld w 13 _) (fld w 6 _))
  | 12 => .ok (.fgun (fld w 20 _) (fld w 13 _) (fld w 6 _))
  | 16 => .ok (.dglt (fld w 20 _) (fld w 13 _) (fld w 6 _))
  | _ => .error .unassignedFunction

/-- Function field of MAJ 0xf (R41). -/
def decodeSfu (w : Nat) : Except DecodeError Instr :=
  match w / 0x1 % 32 with
  | 0 => .ok (.ex2 (fld w 20 _) (fld w 13 _) (fld w 5 _))
  | 1 => .ok (.lg2 (fld w 20 _) (fld w 13 _) (fld w 5 _))
  | 2 => .ok (.rcp (fld w 20 _) (fld w 13 _) (fld w 5 _))
  | 3 => .ok (.rsq (fld w 20 _) (fld w 13 _) (fld w 5 _))
  | 4 => .ok (.sqrt (fld w 20 _) (fld w 13 _) (fld w 5 _))
  | 5 => .ok (.sinpi (fld w 20 _) (fld w 13 _) (fld w 5 _))
  | 6 => .ok (.cospi (fld w 20 _) (fld w 13 _) (fld w 5 _))
  | 7 => .ok (.tanh (fld w 20 _) (fld w 13 _) (fld w 5 _))
  | 8 => .ok (.sigm (fld w 20 _) (fld w 13 _) (fld w 5 _))
  | 9 => .ok (.gelu (fld w 20 _) (fld w 13 _) (fld w 5 _))
  | _ => .error .unassignedFunction

/-- Function field of MAJ 0x10 (R41). -/
def decodeSeb (w : Nat) : Except DecodeError Instr :=
  match w / 0x1 % 64 with
  | 0 => .ok (.qse3 (fld w 20 _) (fld w 13 _))
  | 1 => .ok (.qse5 (fld w 20 _) (fld w 13 _))
  | 2 => .ok (.qse8 (fld w 20 _) (fld w 13 _))
  | 3 => .ok (.dqse3 (fld w 20 _) (fld w 13 _))
  | 4 => .ok (.dqse5 (fld w 20 _) (fld w 13 _))
  | 5 => .ok (.dqse8 (fld w 20 _) (fld w 13 _))
  | _ => .error .unassignedFunction

/-- Function field of MAJ 0x11 (R41). -/
def decodeUalu (w : Nat) : Except DecodeError Instr :=
  match w / 0x1 % 64 with
  | 0 => .ok (.uadd (fld w 25 _) (fld w 20 _) (fld w 13 _) (fld w 6 _))
  | 1 => .ok (.usub (fld w 25 _) (fld w 20 _) (fld w 13 _) (fld w 6 _))
  | 2 => .ok (.umul (fld w 25 _) (fld w 20 _) (fld w 13 _) (fld w 6 _))
  | 3 => .ok (.umin (fld w 25 _) (fld w 20 _) (fld w 13 _) (fld w 6 _))
  | 4 => .ok (.umax (fld w 25 _) (fld w 20 _) (fld w 13 _) (fld w 6 _))
  | 5 => .ok (.uand (fld w 25 _) (fld w 20 _) (fld w 13 _) (fld w 6 _))
  | 6 => .ok (.uor (fld w 25 _) (fld w 20 _) (fld w 13 _) (fld w 6 _))
  | 7 => .ok (.ushl (fld w 25 _) (fld w 20 _) (fld w 13 _) (fld w 6 _))
  | 8 => .ok (.ushr (fld w 25 _) (fld w 20 _) (fld w 13 _) (fld w 6 _))
  | 9 => .ok (.uceq (fld w 25 _) (fld w 20 _) (fld w 13 _) (fld w 6 _))
  | 10 => .ok (.uclt (fld w 25 _) (fld w 20 _) (fld w 13 _) (fld w 6 _))
  | 11 => .ok (.ucltu (fld w 25 _) (fld w 20 _) (fld w 13 _) (fld w 6 _))
  | 12 => .ok (.udivu (fld w 25 _) (fld w 20 _) (fld w 13 _) (fld w 6 _))
  | _ => .error .unassignedFunction

/-- Function field of MAJ 0x12 (R41). -/
def decodeUimm (w : Nat) : Except DecodeError Instr :=
  match w / 0x400 % 8 with
  | 0 => .ok (.uaddi (fld w 25 _) (fld w 20 _) (fld w 13 _) (fld w 0 _))
  | 1 => .ok (.uandi (fld w 25 _) (fld w 20 _) (fld w 13 _) (fld w 0 _))
  | 2 => .ok (.ushli (fld w 25 _) (fld w 20 _) (fld w 13 _) (fld w 0 _))
  | 3 => .ok (.ushri (fld w 25 _) (fld w 20 _) (fld w 13 _) (fld w 0 _))
  | 4 => .ok (.uceqi (fld w 25 _) (fld w 20 _) (fld w 13 _) (fld w 0 _))
  | 5 => .ok (.uclti (fld w 25 _) (fld w 20 _) (fld w 13 _) (fld w 0 _))
  | _ => .error .unassignedFunction

/-- Function field of MAJ 0x13 (R41). -/
def decodeUload (w : Nat) : Except DecodeError Instr :=
  match w / 0x400 % 8 with
  | 0 => .ok (.ulda (fld w 25 _) (fld w 20 _) (fld w 13 _) (fld w 0 _))
  | 1 => .ok (.uldk (fld w 25 _) (fld w 20 _) (fld w 13 _) (fld w 0 _))
  | 2 => .ok (.uld (fld w 20 _) (fld w 13 _) (fld w 0 _))
  | _ => .error .unassignedFunction

/-- Function field of MAJ 0x14 (R41). -/
def decodeUx (w : Nat) : Except DecodeError Instr :=
  match w / 0x1 % 64 with
  | 0 => .ok (.ureadl (fld w 20 _) (fld w 13 _) (fld w 6 _))
  | 1 => .ok (.ufirst (fld w 20 _) (fld w 13 _))
  | _ => .error .unassignedFunction

/-- Function field of MAJ 0x1a (R41). -/
def decodeAtom (w : Nat) : Except DecodeError Instr :=
  match w / 0x100 % 16 with
  | 0 => .ok (.atomAdd (fld w 20 _) (fld w 13 _) (fld w 12 _) (fld w 5 _) (fld w 3 _) (fld w 0 _))
  | 1 => .ok (.atomMin (fld w 20 _) (fld w 13 _) (fld w 12 _) (fld w 5 _) (fld w 3 _) (fld w 0 _))
  | 2 => .ok (.atomMax (fld w 20 _) (fld w 13 _) (fld w 12 _) (fld w 5 _) (fld w 3 _) (fld w 0 _))
  | 3 => .ok (.atomAnd (fld w 20 _) (fld w 13 _) (fld w 12 _) (fld w 5 _) (fld w 3 _) (fld w 0 _))
  | 4 => .ok (.atomOr (fld w 20 _) (fld w 13 _) (fld w 12 _) (fld w 5 _) (fld w 3 _) (fld w 0 _))
  | 5 => .ok (.atomXor (fld w 20 _) (fld w 13 _) (fld w 12 _) (fld w 5 _) (fld w 3 _) (fld w 0 _))
  | 6 => .ok (.atomExch (fld w 20 _) (fld w 13 _) (fld w 12 _) (fld w 5 _) (fld w 3 _) (fld w 0 _))
  | 7 => .ok (.atomCas (fld w 20 _) (fld w 13 _) (fld w 12 _) (fld w 5 _) (fld w 3 _) (fld w 0 _))
  | 8 => .ok (.atomFadd (fld w 20 _) (fld w 13 _) (fld w 12 _) (fld w 5 _) (fld w 3 _) (fld w 0 _))
  | _ => .error .unassignedFunction

/-- Function field of MAJ 0x1b (R41). -/
def decodeRed (w : Nat) : Except DecodeError Instr :=
  match w / 0x100 % 16 with
  | 0 => .ok (.redAdd (fld w 20 _) (fld w 13 _) (fld w 12 _) (fld w 5 _) (fld w 3 _) (fld w 0 _))
  | 1 => .ok (.redMax (fld w 20 _) (fld w 13 _) (fld w 12 _) (fld w 5 _) (fld w 3 _) (fld w 0 _))
  | 2 => .ok (.redFadd (fld w 20 _) (fld w 13 _) (fld w 12 _) (fld w 5 _) (fld w 3 _) (fld w 0 _))
  | 3 => .ok (.redFadd2 (fld w 20 _) (fld w 13 _) (fld w 5 _) (fld w 3 _) (fld w 0 _))
  | _ => .error .unassignedFunction

/-- Function field of MAJ 0x1c (R41). -/
def decodeFence (w : Nat) : Except DecodeError Instr :=
  match w / 0x400000 % 16 with
  | 0 => .ok (.fence (fld w 12 _) (fld w 10 _))
  | 1 => .ok (.fenceR (fld w 15 _) (fld w 12 _) (fld w 10 _))
  | 2 => .ok (.cwb (fld w 15 _) (fld w 12 _))
  | 3 => .ok (.cinv (fld w 15 _) (fld w 12 _))
  | 4 => .ok (.pref (fld w 15 _) (fld w 12 _))
  | _ => .error .unassignedFunction

/-- Function field of MAJ 0x20 (R41). -/
def decodeBr (w : Nat) : Except DecodeError Instr :=
  match w / 0x200000 % 4 with
  | 0 => .ok (.br (fld w 23 _) (fld w 0 _))
  | 1 => .ok (.brn (fld w 23 _) (fld w 0 _))
  | 2 => .ok (.call (fld w 23 _) (fld w 0 _))
  | _ => .error .unassignedFunction

/-- Function field of MAJ 0x21 (R41). -/
def decodeBru (w : Nat) : Except DecodeError Instr :=
  match w / 0x20000 % 2 with
  | 0 => .ok (.bruz (fld w 25 _) (fld w 18 _) (fld w 0 _))
  | 1 => .ok (.brunz (fld w 25 _) (fld w 18 _) (fld w 0 _))
  | _ => .error .unassignedFunction

/-- Function field of MAJ 0x22 (R41). -/
def decodeJmp (w : Nat) : Except DecodeError Instr :=
  match w / 0x1 % 64 with
  | 0 => .ok (.jmpi (fld w 13 _))
  | 1 => .ok (.calli (fld w 13 _))
  | 2 => .ok (.ret)
  | 3 => .ok (.land)
  | _ => .error .unassignedFunction

/-- Function field of MAJ 0x23 (R41). -/
def decodeWaitx (w : Nat) : Except DecodeError Instr :=
  match w / 0x1 % 64 with
  | 0 => .ok (.park (fld w 13 _))
  | 1 => .ok (.yield)
  | 2 => .ok (.exit)
  | _ => .error .unassignedFunction

/-- Function field of MAJ 0x24 (R41). -/
def decodeGrp (w : Nat) : Except DecodeError Instr :=
  match w / 0x1 % 64 with
  | 0 => .ok (.regroup (fld w 13 _))
  | 1 => .ok (.part (fld w 20 _) (fld w 13 _))
  | 2 => .ok (.gmask (fld w 20 _) (fld w 13 _))
  | _ => .error .unassignedFunction

/-- Function field of MAJ 0x25 (R41). -/
def decodeColl (w : Nat) : Except DecodeError Instr :=
  match w / 0x1 % 16 with
  | 0 => .ok (.vall (fld w 20 _) (fld w 13 _) (fld w 4 _))
  | 1 => .ok (.vany (fld w 20 _) (fld w 13 _) (fld w 4 _))
  | 2 => .ok (.vbal (fld w 20 _) (fld w 13 _) (fld w 4 _))
  | 3 => .ok (.shfl (fld w 20 _) (fld w 13 _) (fld w 6 _) (fld w 4 _))
  | 4 => .ok (.push (fld w 20 _) (fld w 13 _) (fld w 6 _) (fld w 4 _))
  | 5 => .ok (.csum (fld w 20 _) (fld w 13 _) (fld w 4 _))
  | 6 => .ok (.cmax (fld w 20 _) (fld w 13 _) (fld w 4 _))
  | 7 => .ok (.cfsum (fld w 20 _) (fld w 13 _) (fld w 4 _))
  | 8 => .ok (.cscan (fld w 20 _) (fld w 13 _) (fld w 4 _))
  | _ => .error .unassignedFunction

/-- Function field of MAJ 0x26 (R41). -/
def decodeRearr (w : Nat) : Except DecodeError Instr :=
  match w / 0x1 % 4 with
  | 0 => .ok (.compress (fld w 20 _) (fld w 13 _) (fld w 6 _) (fld w 2 _))
  | 1 => .ok (.expand (fld w 20 _) (fld w 13 _) (fld w 6 _) (fld w 2 _))
  | 2 => .ok (.slideup (fld w 20 _) (fld w 13 _) (fld w 6 _) (fld w 2 _))
  | 3 => .ok (.slidedn (fld w 20 _) (fld w 13 _) (fld w 6 _) (fld w 2 _))
  | _ => .error .unassignedFunction

/-- Function field of MAJ 0x29 (R41). -/
def decodeLctl (w : Nat) : Except DecodeError Instr :=
  match w / 0x40000 % 8 with
  | 0 => .ok (.lbrk (fld w 23 _) (fld w 21 _))
  | 1 => .ok (.lrd (fld w 23 _) (fld w 21 _) (fld w 11 _) (fld w 5 _))
  | 2 => .ok (.lwr (fld w 21 _) (fld w 11 _))
  | _ => .error .unassignedFunction

/-- Function field of MAJ 0x2a (R41). -/
def decodeAdset (w : Nat) : Except DecodeError Instr :=
  match w / 0x80000 % 8 with
  | 0 => .ok (.adbase (fld w 22 _) (fld w 12 _) (fld w 5 _))
  | 1 => .ok (.adcoef (fld w 22 _) (fld w 12 _) (fld w 5 _))
  | 2 => .ok (.adlim (fld w 22 _) (fld w 12 _))
  | 3 => .ok (.adstg (fld w 22 _) (fld w 12 _))
  | _ => .error .unassignedFunction

/-- Function field of MAJ 0x30 (R41). -/
def decodeMat (w : Nat) : Except DecodeError Instr :=
  match w / 0x400000 % 16 with
  | 0 => .ok (.macq (fld w 5 _))
  | 1 => .ok (.mrel)
  | 2 => .ok (.mwl (fld w 14 _))
  | 3 => .ok (.mms (fld w 18 _) (fld w 11 _) (fld w 10 _))
  | 4 => .ok (.mrd (fld w 16 _) (fld w 9 _) (fld w 6 _))
  | 5 => .ok (.mwr (fld w 16 _) (fld w 9 _) (fld w 6 _))
  | 6 => .ok (.mepi (fld w 18 _) (fld w 11 _) (fld w 5 _))
  | 7 => .ok (.mzero (fld w 11 _))
  | _ => .error .unassignedFunction

/-- Function field of MAJ 0x31 (R41). -/
def decodeThset (w : Nat) : Except DecodeError Instr :=
  match w / 0x80000 % 8 with
  | 0 => .ok (.thbase (fld w 22 _) (fld w 12 _) (fld w 5 _))
  | 1 => .ok (.thshape (fld w 22 _) (fld w 12 _) (fld w 5 _))
  | 2 => .ok (.thfmt (fld w 22 _) (fld w 12 _) (fld w 5 _))
  | 3 => .ok (.thmc (fld w 22 _) (fld w 12 _))
  | _ => .error .unassignedFunction

/-- Function field of MAJ 0x32 (R41). -/
def decodeCopy (w : Nat) : Except DecodeError Instr :=
  match w / 0x800000 % 8 with
  | 0 => .ok (.cpy (fld w 18 _) (fld w 15 _) (fld w 14 _) (fld w 13 _))
  | 1 => .ok (.cpym (fld w 18 _) (fld w 15 _) (fld w 14 _) (fld w 13 _))
  | 2 => .ok (.cpyg (fld w 18 _) (fld w 15 _) (fld w 14 _) (fld w 13 _))
  | _ => .error .unassignedFunction

/-- Function field of MAJ 0x34 (R41). -/
def decodeJoint (w : Nat) : Except DecodeError Instr :=
  match w / 0x1000000 % 4 with
  | 0 => .ok (.jinit (fld w 17 _) (fld w 10 _))
  | 1 => .ok (.jarv (fld w 17 _) (fld w 10 _) (fld w 7 _))
  | 2 => .ok (.jexp (fld w 17 _) (fld w 10 _))
  | 3 => .ok (.jwait (fld w 17 _) (fld w 10 _) (fld w 7 _))
  | _ => .error .unassignedFunction

/-- Function field of MAJ 0x35 (R41). -/
def decodeTl (w : Nat) : Except DecodeError Instr :=
  match w / 0x2000000 % 2 with
  | 0 => .ok (.tlrd (fld w 23 _) (fld w 16 _) (fld w 8 _))
  | 1 => .ok (.tlwait (fld w 23 _) (fld w 16 _) (fld w 13 _))
  | _ => .error .unassignedFunction

/-- Function field of MAJ 0x38 (R41). -/
def decodeSys (w : Nat) : Except DecodeError Instr :=
  match w / 0x1000000 % 4 with
  | 0 => .ok (.trap (fld w 0 _))
  | 1 => .ok (.bkpt (fld w 0 _))
  | 2 => .ok (.eret)
  | _ => .error .unassignedFunction

/-- Function field of MAJ 0x39 (R41). -/
def decodeCsr (w : Nat) : Except DecodeError Instr :=
  match w / 0x1000000 % 4 with
  | 0 => if w % 2048 = 0x32 then .ok (.msgr (fld w 18 _)) else .ok (.csrr (fld w 18 _) (fld w 0 _))
  | 1 => if w % 2048 = 0x31 then .ok (.msgs (fld w 11 _)) else .ok (.csrw (fld w 11 _) (fld w 0 _))
  | 2 => .ok (.csrs (fld w 18 _) (fld w 11 _) (fld w 0 _))
  | _ => .error .unassignedFunction

/-- Function field of MAJ 0x3f (R41). -/
def decodeHint (w : Nat) : Except DecodeError Instr :=
  match w / 0x1000000 % 4 with
  | 0 => .ok (.himm (fld w 0 _))
  | 1 => .ok (.hsched (fld w 4 _) (fld w 3 _) (fld w 2 _) (fld w 1 _) (fld w 0 _))
  | 2 => .ok (.hmod (fld w 8 _) (fld w 7 _) (fld w 4 _) (fld w 3 _) (fld w 0 _))
  | _ => .error .unassignedFunction

/-- Checks 1 and 2 of R43, and the fields as they stand in the word. -/
def readFields (w : Nat) : Except DecodeError Instr :=
  match w / 0x4000000 % 64 with
  | 0x1 => decodeIalu w
  | 0x2 => decodeIlogic w
  | 0x3 => decodeIcmp w
  | 0x4 => decodeIl4 w
  | 0x5 => decodeIimm w
  | 0x6 => decodeCimm w
  | 0x7 => decodeSel w
  | 0x8 => decodeFp32 w
  | 0x9 => decodeFma w
  | 0xa => decodeBf2 w
  | 0xb => decodeHl4 w
  | 0xc => decodeFp64 w
  | 0xd => decodeCvt w
  | 0xe => decodeFcmp w
  | 0xf => decodeSfu w
  | 0x10 => decodeSeb w
  | 0x11 => decodeUalu w
  | 0x12 => decodeUimm w
  | 0x13 => decodeUload w
  | 0x14 => decodeUx w
  | 0x18 => .ok (.ld (fld w 19 _) (fld w 12 _) (fld w 11 _) (fld w 8 _) (fld w 5 _) (fld w 3 _) (fld w 0 _))
  | 0x19 => .ok (.st (fld w 19 _) (fld w 12 _) (fld w 11 _) (fld w 8 _) (fld w 5 _) (fld w 3 _) (fld w 0 _))
  | 0x1a => decodeAtom w
  | 0x1b => decodeRed w
  | 0x1c => decodeFence w
  | 0x20 => decodeBr w
  | 0x21 => decodeBru w
  | 0x22 => decodeJmp w
  | 0x23 => decodeWaitx w
  | 0x24 => decodeGrp w
  | 0x25 => decodeColl w
  | 0x26 => decodeRearr w
  | 0x28 => .ok (.loop (fld w 24 _) (fld w 17 _) (fld w 5 _) (fld w 2 _) (fld w 1 _) (fld w 0 _))
  | 0x29 => decodeLctl w
  | 0x2a => decodeAdset w
  | 0x30 => decodeMat w
  | 0x31 => decodeThset w
  | 0x32 => decodeCopy w
  | 0x33 => .ok (.chain (fld w 21 _) (fld w 17 _) (fld w 13 _))
  | 0x34 => decodeJoint w
  | 0x35 => decodeTl w
  | 0x36 => .ok (.enq (fld w 21 _) (fld w 20 _))
  | 0x38 => decodeSys w
  | 0x39 => decodeCsr w
  | 0x3a => .ok (.metr (fld w 21 _) (fld w 14 _))
  | 0x3f => decodeHint w
  | _ => .error .reservedMajor

/-- Decode one word: checks 1 to 3 of R43, in order. -/
def decode (word : BitVec 32) : Except DecodeError Instr :=
  match readFields word.toNat with
  | .error e => .error e
  | .ok i => if i.wf && encodeNat i == word.toNat then .ok i else .error .badField

/-- A word from its four bytes, least significant first (R4). -/
def wordOfBytes (b0 b1 b2 b3 : BitVec 8) : BitVec 32 := b3 ++ b2 ++ b1 ++ b0

/-- Decode from bytes: the instruction of the first four and the bytes after them. -/
def decodeBytes : List (BitVec 8) → Except DecodeError (Instr × List (BitVec 8))
  | b0 :: b1 :: b2 :: b3 :: rest =>
    match decode (wordOfBytes b0 b1 b2 b3) with
    | .ok i => .ok (i, rest)
    | .error e => .error e
  | _ => .error .truncated

/-- The four bytes of a word in memory order (R4). -/
def bytesOfWord (w : BitVec 32) : List (BitVec 8) :=
  [w.extractLsb' 0 8, w.extractLsb' 8 8, w.extractLsb' 16 8, w.extractLsb' 24 8]

/-- The host's question: the instruction the decoder reads from a word whose bits are w, numbered as the table numbers them;
the word's bits above nbits are 0. -/
def decodeTableWord (nbits w : Nat) : Option Instr :=
  match decodeBytes (bytesOfWord (BitVec.ofNat 32 (w % 2 ^ nbits))) with
  | .ok (i, _) => some i
  | .error _ => none

end Sys2Proof
end

