-- ==== Sys2Proof/Config.lean ====
section
/-! DEFINITION. What the device fixes and the specification does not give a value for: constants without a body, so that
no proof can know what they are. -/

namespace Sys2Proof.Config

/-- n bytes of 0. -/
def zeros (n : Nat) : List Byte := (List.range n).map (fun _ => 0)

/-- 4,627 bytes that tell numbers below 2^64 apart. -/
def numbered (n : Nat) : List Byte := (List.range 8).map (fun i => BitVec.ofNat 8 (n / 256 ^ i)) ++ zeros 4619

theorem zeros_length (n : Nat) : (zeros n).length = n := by rw [zeros, List.length_map, List.length_range]

theorem numbered_length (n : Nat) : (numbered n).length = 4627 := by
  rw [numbered, List.length_append, List.length_map, List.length_range, zeros_length]

theorem numbered_ne {n k : Nat} (h : n ≠ k) (hn : n < 2 ^ 64) (hk : k < 2 ^ 64) : numbered n ≠ numbered k := by
  intro e
  have f : ∀ i, i < 8 → n / 256 ^ i % 256 = k / 256 ^ i % 256 := by
    intro i hi
    have g := congrArg (fun l => l[i]?) e
    simp only [numbered, List.getElem?_append, List.length_map, List.length_range, hi, if_true, List.getElem?_map, List.getElem?_range hi,
      Option.map_some, Option.some.injEq] at g
    have v := congrArg BitVec.toNat g
    rwa [BitVec.toNat_ofNat, BitVec.toNat_ofNat] at v
  have g : ∀ j, j ≤ 8 → n % 256 ^ j = k % 256 ^ j := by
    intro j
    induction j with
    | zero => intro _; rw [Nat.pow_zero, Nat.mod_one, Nat.mod_one]
    | succ j ih => intro hj; rw [Nat.pow_succ, Nat.mod_mul, Nat.mod_mul, ih (by omega), f j hj]
  have e8 := g 8 (Nat.le_refl 8)
  rw [show (256 : Nat) ^ 8 = 2 ^ 64 from rfl, Nat.mod_eq_of_lt hn, Nat.mod_eq_of_lt hk] at e8
  exact h e8

/-- The device's identity and ML-DSA-87 (R347, R350, R353; FIPS 204): the identity public key, the signature of a message with the
identity key, where a number counts the signatures made, since signing is hedged, and whether a signature (third argument) of a message
(second) verifies under a public key (first). Every signature verifies under the identity key, and no two are equal. The defaults only
show that such a scheme exists. -/
structure Identity where
  key      : List Byte := zeros 2592
  keySize  : key.length = 2592 := by exact zeros_length 2592
  sign     : List Byte → Nat → List Byte := fun _ n => numbered n
  signSize : ∀ m n, (sign m n).length = 4627 := by intro m n; exact numbered_length n
  fresh    : ∀ m n k, n ≠ k → n < 2 ^ 64 → k < 2 ^ 64 → sign m n ≠ sign m k := by intro m n k; exact numbered_ne
  verify   : List Byte → List Byte → List Byte → Bool := fun _ _ _ => true
  sound    : ∀ m n, verify key m (sign m n) = true := by intro m n; rfl
deriving Inhabited

/-- The identity the device derives from its fused secret (R353), and the signature scheme. -/
opaque identity : Identity
/-- An allowed set (R340, R350): 1 to 256 digests, none twice. The defaults only show that there is one. -/
structure AllowedSet where
  digests : List (BitVec 512) := [0]
  some'   : digests ≠ [] := by decide
  size    : digests.length ≤ 256 := by decide
  nodup   : digests.Nodup := by decide
deriving Inhabited

/-- The allowed set a slot continues after RESUME (R350), by its hash, where this device has not had it: the hand-over record carries the
hash alone. -/
opaque allowedSet : BitVec 512 → AllowedSet
/-- What an instruction reads where the specification leaves the value to the device; the argument counts the uses. -/
opaque freeWord : Nat → Word
/-- The number by which a line's address chooses among the ports of a peer's route (R358). -/
opaque portKey : Nat → Nat
/-- The slice that the pair of a source and a destination core chooses for its messages (R238). -/
opaque messageSlice : Nat → Nat → Nat

end Sys2Proof.Config
end

