-- ==== Sys2Proof/Machine/State.lean ====
section
/-! DEFINITION. The state of the device, as plain data: lanes, warps, workgroups, nodes, the memory system, the Benches, the
engines, the launch path, the Jig, the metering block, the host's registers and the links; the reasons a step can stop; and
the state after reset. Collections that the device holds sparsely are lists of (key, value) pairs with rising keys in which
no value equals what an unlisted key reads as, so that equal contents are equal data. -/

namespace Sys2Proof.Machine

/-- A sparse collection: (key, value) with strictly rising keys and no listed default. -/
abbrev SMap (α : Type) := List (Nat × α)

/-! ### Lanes -/

/-- What a named register, a queue entry or a uniform register holds (R20, R21, R184): 64 bits, the poison mark, and the
in-flight load or atomic that will fill it (R21: a load whose data has not returned still holds its position). -/
structure RVal where
  bits   : Word := 0
  poison : Bool := false
  pend   : Option Nat := none
deriving DecidableEq, Repr

/-- Where a lane waits, when it stands in no lane set. -/
inductive Park where
  /-- not parked -/
  | no
  /-- at a rendezvous instruction naming group register kN; 4 at a LOOP, whose lanes are the participants of the innermost level
  (R259, R270) -/
  | rendezvous (group : Nat)
  /-- at the back edge of a loop level (R272) -/
  | backEdge (level : Nat)
  /-- left a loop level by LBRK, until that level pops (R276) -/
  | left (level : Nat)
  /-- at PARK, watching a line, or none, since a cycle; woken once an event of R256 has occurred -/
  | watch (line : Option Nat) (since : Nat) (woken : Bool)
  /-- at JWAIT on a Joint's window address, for a generation, at a scope (R224); the order in which the set issued it -/
  | joint (addr gen scope order : Nat)
  /-- at JWAIT, whose phase has completed: it proceeds, at a scope (R220); the order in which the set issued it -/
  | freed (scope order : Nat)
  /-- at TLWAIT on context ec for number n, at a scope (R234); the order in which the set issued it -/
  | timeline (ec n scope order : Nat)
  /-- at MACQ, until the claim is granted (R153) -/
  | claim
  /-- at a read of MSGR into lane destination d; the order among waiting readers (R239) -/
  | message (d order : Nat)
  /-- at an instruction that completes with operation op: a fence (R195), a JARV (R223), an ENQ (R315) -/
  | fence (op : Nat)
  /-- in the regroup pool (R265) -/
  | pool (target : Word)
  /-- at a memory instruction with an access that the held queue of the cluster TLB holds for a migrating page, as entry id (R218) -/
  | migrating (id : Nat)
deriving DecidableEq, Repr

/-- Pending hint state of a group (R45 to R51): the PC of the first hint (original and residual), and the words so far. An HMOD whose
payload or reserved bits R51 forbids is held as the payload 0, which R51 forbids too. -/
structure Hint where
  first   : Word
  firstR  : Option Word := none
  himm    : List (BitVec 24) := []
  hsched  : Option (BitVec 6) := none
  hmod    : Option (BitVec 9) := none
  /-- the HIMM words are the Jig's, in front of a LOOP whose own CNT names no HIMM (R291) -/
  ins     : Bool := false
deriving DecidableEq, Repr

/-- A lane: the state of one thread (R18 to R23, R248 to R257). -/
structure Lane where
  /-- thread index (R18) -/
  tid    : Nat := 0
  live   : Bool := false
  /-- PCV: the original PC (R31, R248) -/
  pc     : Word := 0
  /-- the residual PC while the lane runs Jig residual code (R297) -/
  rpc    : Option Word := none
  /-- named registers by physical number (R20, R275) -/
  regs   : SMap RVal := []
  /-- the result queue, q0 first, 16 entries (R21) -/
  queue  : List RVal := []
  /-- guards: bit k is gk; bit 0 is not used, since g0 reads true (R23) -/
  guards : BitVec 8 := 0
  park   : Park := .no
  hint   : Option Hint := none
  /-- age of the lane's set in issue opportunities (R251) -/
  age    : Nat := 0
  /-- opportunities left in which a YIELD withholds the lane (R257) -/
  yield  : Nat := 0
  /-- the word the lane stands at could not issue when it was last tried: the stall cause of R317, plus one; 0 where it could (R248) -/
  blocked : Nat := 0
deriving DecidableEq, Repr

/-! ### Warps -/

/-- A loop level (R268). -/
structure Level where
  count  : BitVec 32 := 0
  index  : BitVec 33 := 0
  /-- START and END: original PCs, and the addresses in the code in which the LOOP issued, residual where res says so (R268, R297) -/
  ostart : BitVec 56 := 0
  olast  : BitVec 56 := 0
  start  : BitVec 56 := 0
  last   : BitVec 56 := 0
  res    : Bool := false
  active : Bool := false
  un     : Bool := false
  rt     : Bool := false
  st     : BitVec 3 := 0
  sm     : BitVec 8 := 0
  rrb    : BitVec 4 := 0
  back   : Mask := 0
  exit   : Mask := 0
  /-- the lanes that left the level through LBRK (R259, R276); the others of EXIT never were participants -/
  gone   : Mask := 0
  /-- the level is a Jig wrapper of this many copies: INDEX is the copy number (R291); 0 for a plain level -/
  copies : Nat := 0
deriving DecidableEq, Repr

/-- What one lane leaves in the trap frame (R370). -/
structure FrameLane where
  /-- PCV: its resume PC, which the handler may change; and as the handler finds it -/
  pc     : Word
  found  : Word
  /-- where it goes on while PCV stands as the handler found it: original PC, and residual PC in residual code (R298); at a PARK that a hint
  group led to, the PARK itself (R376) -/
  place  : Word × Option Word
  queue  : List RVal
  guards : BitVec 8
  park   : Park
deriving DecidableEq, Repr

/-- The trap frame (R370): each live lane's part by virtual lane, s0 to s31, and the loop levels. -/
structure Frame where
  lanes  : SMap FrameLane
  s      : SMap RVal
  levels : List Level
deriving DecidableEq, Repr

/-- The family of an owned bank (R159). -/
inductive Family where
  | unset | fp32 | int32
deriving DecidableEq, Repr

/-- The bank claim (R153 to R157): CLAIM's fields, and for each member the physical banks by relative index. -/
structure Claim where
  count  : Nat := 0
  gang   : Nat := 0
  /-- global Bench id of member 0 -/
  bench  : Nat := 0
  /-- bit j: bj has been handed to the Planer -/
  gone   : BitVec 8 := 0
  /-- member j's physical banks, relative index order -/
  banks  : List (List Nat) := []
  /-- family by relative index -/
  family : List Family := []
deriving DecidableEq, Repr

/-- The architectural latch (R132): the weight handle, its gang width (R141) and the meter slot of R345. -/
structure Latch where
  handle : BitVec 128
  gang   : Nat
  slot   : Option Nat := none
deriving DecidableEq, Repr

/-- A resident or saved warp (R24). -/
structure Warp where
  /-- serial number of its workgroup -/
  wg      : Nat := 0
  /-- global core id and slot on the core (R12, R252) -/
  core    : Nat := 0
  slot    : Nat := 0
  /-- %warp -/
  index   : Nat := 0
  /-- virtual lanes 0 to 31 under the lane map -/
  lanes   : List Lane := []
  s       : SMap RVal := []
  t       : SMap (BitVec 128) := []
  d       : SMap (BitVec 256) := []
  /-- sub-group sizes of k1 to k3 (R25); k0 is 32 -/
  k1      : Nat := 32
  k2      : Nat := 32
  k3      : Nat := 32
  levels  : List Level := []
  claim   : Claim := {}
  /-- a MACQ's request (count, gang) until it is granted -/
  wants   : Option (Nat × Nat) := none
  /-- members of the claim whose banks a resume has not taken again yet, with the address in the save area of the first bank's contents (R135, R386) -/
  reclaim : List (Nat × Nat) := []
  latch   : Option Latch := none
  flags   : BitVec 6 := 0
  amax    : BitVec 32 := 0
  amaxnan : Bool := false
  ackseq  : BitVec 16 := 0
  msgdst  : Word := 0
  privlim : Word := 0
  handler : Bool := false
  /-- stall counters by cause, CSR 0x108 + cause (R31, R317) -/
  stall   : SMap Word := []
  /-- the fault record and the prior one, CSR 0x200 and 0x208 (R367) -/
  record  : BitVec 512 := 0
  prior   : BitVec 512 := 0
  frame   : Option Frame := none
  /-- a fault not yet delivered, because its core is halted (R378) -/
  held    : Option (BitVec 512) := none
  /-- wait in cycles (R252) and the post-issue hint (R47): PBUMP -/
  wait    : Nat := 0
  bump    : Nat := 0
  /-- cycles in which YIELD or HSCHED withholds the warp -/
  away    : Nat := 0
  /-- waiting for the Jig (R296) -/
  jig     : Bool := false
  /-- the warp has ended or left its core for good -/
  ended   : Bool := false
deriving DecidableEq, Repr

/-! ### Workgroups, nodes, regions -/

/-- One engine context's timeline (R231, R232): the counters, FAULTNUM, and the numbers above `completed` already complete. -/
structure Timeline where
  issued    : Nat := 0
  completed : Nat := 0
  faultnum  : Nat := 0
  done      : List Nat := []
deriving DecidableEq, Repr

/-- An entry of the engine fault store (R236). -/
structure FsEntry where
  cls   : Nat
  addr  : Word
  jaddr : Option Nat := none
  tl    : Option (Nat × Nat) := none
  opc   : Word
  rpc   : Word
deriving DecidableEq, Repr

/-- A regroup pool of a workgroup on one core (R265). -/
structure Pool where
  core   : Nat
  opened : Nat
  /-- keys of the warps that entered -/
  warps  : List Nat
deriving DecidableEq, Repr

/-- How a workgroup stands (R379 to R388). -/
inductive WgStatus where
  | resident | draining | saving | flushing | saved | ended
deriving DecidableEq, Repr

/-- The effective values of a region at admission (R307, R335). Addresses are physical. -/
structure Region where
  rcb     : Nat := 0
  /-- the RCB and its ancestors, the region first -/
  chain   : List Nat := []
  pasid   : Nat := 0
  prio    : Nat := 0
  fdp     : Nat := 0
  handler : Word := 0
  pbound  : Nat := 0
  cmask   : BitVec 32 := 0
  /-- RCB that supplies RING, RINGSZ and DQCAP, and the one that supplies the arenas -/
  ringOf  : Nat := 0
  arenaOf : Nat := 0
  /-- RING, RINGSZ and DQCAP as at admission -/
  ring    : Nat := 0
  ringSize : Nat := 0
  dqcap   : Nat := 0
  /-- METER, and the TAG to SLOT bindings of its list (R341) -/
  meterAt : Nat := 0
  meter   : SMap Nat := []
deriving DecidableEq, Repr

/-- A placed workgroup. -/
structure Wg where
  node     : Nat := 0
  /-- its region as it stood at its placement (R334): a host write changes it for later placements only; none for that of its node's
  admission -/
  terms    : Option Region := none
  /-- %wg -/
  index    : Nat := 0
  size     : Nat := 0
  /-- its cores with the scratch bytes held on each, in order of their warps (R310) -/
  cores    : SMap Nat := []
  privBase : Nat := 0
  /-- issued, completed, FAULTNUM of copy, matrix, chain -/
  copyTl   : Timeline := {}
  matTl    : Timeline := {}
  chainTl  : Timeline := {}
  faults   : List FsEntry := []
  pools    : List Pool := []
  status   : WgStatus := .resident
  /-- cycle of the first issue (R380) -/
  first    : Option Nat := none
  /-- the way bound of a pending pre-emption request (R379) -/
  request  : Option Nat := none
  /-- pages have returned to its save arena since the choice, which is made again (R381) -/
  retry    : Bool := false
  /-- save area: first page and pages, once allocated (R384); where its scratch pages lie, by physical address -/
  saveArea : Option (Nat × Nat) := none
  scratchAt : Nat := 0
  /-- scratch pages (core, page) not yet refilled after a resume (R173) -/
  absent   : List (Nat × Nat) := []
  /-- those among them that an access has touched, so that they come back (R173) -/
  touched  : List (Nat × Nat) := []
  /-- messages saved with the workgroup (R240): core, value, and whether its bytes were poisoned when they came back (R385) -/
  messages : List (Nat × Word × Bool) := []
  /-- order of placement -/
  order    : Nat := 0
  /-- it was saved on a halted core and is halted until that halt ends (R377, R388) -/
  halted   : Bool := false
deriving DecidableEq, Repr

/-- A registered kernel (R63 to R67, R352). -/
structure Kernel where
  /-- physical address of its registration record -/
  kref      : Nat := 0
  pasid     : Nat := 0
  codeVa    : Nat := 0
  constVa   : Nat := 0
  codeSize  : Nat := 0
  constSize : Nat := 0
  entry     : Nat := 0
  named     : Nat := 32
  args      : Nat := 0
  priv      : Nat := 0
  scratch   : Nat := 0
  restart   : Bool := false
  eager     : Bool := false
  coresident : Bool := false
  digest    : BitVec 512 := 0
  /-- key table: offset and class bounds, in table order -/
  keys      : List (Nat × List Nat) := []
  /-- the code words and the constant bytes as assembled, and the relocated constant offsets -/
  code      : List IWord := []
  const     : List Byte := []
  relocs    : List Nat := []
deriving DecidableEq, Repr

/-- Where a node stands between its packet and its end. -/
inductive NodeStatus where
  /-- in a device queue (R316) or held for credits (R305) -/
  | held | queued
  /-- ready for admission; admitted and waiting for its argument copy; in the pool; all placed; done -/
  | ready | copying | pooled | placed | done
deriving DecidableEq, Repr

/-- A node: one launch (R303, R306). -/
structure Node where
  /-- source: physical RCB, PASID, and the packet's or record's address for events (R394) -/
  rcb     : Nat := 0
  pasid   : Nat := 0
  source  : Word := 0
  /-- queue and packet index, for successor credits (R305); none for an ENQ node -/
  packet  : Option (Nat × Nat) := none
  kref    : Word := 0
  argp    : Word := 0
  grid    : Nat := 0
  wgsize  : Nat := 0
  maddr   : Word := 0
  mval    : Word := 0
  pred    : Nat := 0
  succ    : Word := 0
  nsucc   : Nat := 0
  l1kib   : Nat := 0
  expcyc  : Nat := 0
  restart : Bool := false
  cores   : Bool := false
  status  : NodeStatus := .held
  /-- admission number (R367) -/
  number  : BitVec 32 := 0
  region  : Region := {}
  kernel  : Kernel := {}
  /-- virtual address of the argument copy and its arena page -/
  argCopy : Nat := 0
  /-- next %wg to place, workgroups that have ended, and those given back by a flush -/
  next    : Nat := 0
  ended   : Nat := 0
  flushed : List Nat := []
  faulted : Bool := false
  /-- since when it has stood at the head of its priority; blocking (R313) -/
  head    : Option Nat := none
  blocking : Bool := false
  /-- the key values of its argument copy, in key-table order (R293, R294) -/
  keys    : List Word := []
  /-- the Jig cache entry its warps run, by number (R296) -/
  jig     : Option Nat := none
  jigWait : Bool := false
  jigChosen : Bool := false
  /-- order in which it became ready, for admission and the pool -/
  order   : Nat := 0
deriving DecidableEq, Repr

/-! ### The memory system -/

/-- For whom a cache holds a line: the region (RCB), and the address space and page through which it reached it: its size as a power of two,
and its number at that size (R213, R332). -/
structure LineUser where
  region : Nat
  pasid  : Nat := 0
  size   : Nat := 12
  page   : Nat := 0
deriving DecidableEq, Repr

/-- A cache line copy (R176): line number (physical address / 128), its bytes, which of them are held, which are dirty, for whom, and its
replacement priority. -/
structure Line where
  idx   : Nat
  data  : BitVec 1024
  valid : BitVec 128
  dirty : BitVec 128
  users : List LineUser := []
  /-- replacement priority (R178): 0 lowest (stream), 1, 2 highest (keep) -/
  rank  : Nat := 1
deriving DecidableEq, Repr

/-- One lane's share of a memory operation: the byte addresses in order; how many of them one single-copy atomic access takes (R175,
R188); the bytes stored, or taken so far; the indices of those that are poisoned; whether an atomic has taken its old value. -/
structure Part where
  lane   : Nat
  /-- the lane's address -/
  va     : Word := 0
  addrs  : List Nat
  unit   : Nat := 8
  data   : List Byte := []
  bad    : List Nat := []
  taken  : Bool := false
deriving DecidableEq, Repr

/-- What an in-flight memory operation is. -/
inductive OpKind where
  /-- a load: size code SZ (R40); signed and doubled as that says -/
  | load (sz : Nat)
  /-- a load of a uniform register (ULD) -/
  | uload (s : Nat)
  /-- a posted store -/
  | store
  /-- an atomic at home: AOP, 64-bit, the data and the expected value by lane; its result is pushed -/
  | atom (aop : Nat) (wide : Bool)
  /-- a reduction at home: AOP of RED -/
  | red (aop : Nat) (wide : Bool)
  /-- dirty bytes of a line on their way out: to the cluster cache, or home; a line that an instruction named, or one that is held for the
  region (R213) -/
  | push (toHome named : Bool)
  /-- a release's pushes of dirty lines, once the warp's earlier accesses are over (R213) -/
  | sweep
  /-- FENCE.R's drain of a victim core (R196) -/
  | drain (victim : Nat)
  /-- a fence, completing once the operations it follows are acknowledged (R195); or the release of an instruction whose guard is
  false in some lane (R186), which later scoped writes of the warp follow -/
  | fence
  /-- a JARV: arrivals and bytes reach the Joint at a flat address after the release (R223) -/
  | jarv (joint arrivals bytes : Nat)
  /-- an ENQ: block register and SPILL; it acts after the release (R315) -/
  | enq (k : Nat) (spill : Bool)
deriving DecidableEq, Repr

/-- A memory operation in flight (R187, R194, R212, R213). -/
structure MemOp where
  id     : Nat
  /-- key of the issuing warp; the warp may have ended -/
  warp   : Nat
  core   : Nat
  region : Nat := 0
  /-- the lanes of the set that issued it: their later accesses wait for an acquire (R213) -/
  lanes  : BitVec 32 := 0
  /-- the address space, and the pages it translated: size and number (R332) -/
  pasid  : Nat := 0
  pages  : List (Nat × Nat) := []
  kind   : OpKind
  scope  : Nat := 0
  order  : Nat := 0
  /-- the load policy in force (R178): 3 cluster-bypass and 4 uncached allocate nowhere -/
  policy : Nat := 0
  /-- lines of further pages whose own policy is another one (R329) -/
  apart  : SMap Nat := []
  /-- where it takes effect: 0 the core's L1, 1 the cluster cache, 2 the home (R185) -/
  point  : Nat := 0
  parts  : List Part := []
  /-- the expected values of a CAS, by lane -/
  expect : SMap Word := []
  /-- operations that have to be acknowledged before this one may take effect (a release, R213) -/
  after  : List Nat := []
  /-- a load has made this many of its parts' accesses (R188) -/
  phase  : Nat := 0
  /-- it has taken effect at its point; the acknowledgements still to arrive, with the tags they carry, oldest first (R194) -/
  done   : Bool := false
  acks   : List (Option (BitVec 16)) := []
deriving DecidableEq, Repr

/-- An entry of the held queue of a cluster TLB (R218): the warp and lanes, or the engine operation, whose access to a migrating page it
holds; go: the page has its new entry, and the access is due. -/
structure Held where
  id      : Nat
  cluster : Nat
  engine  : Bool := false
  key     : Nat
  lanes   : Mask := 0
  pasid   : Nat
  va      : Nat
  write   : Bool := false
  go      : Bool := false
deriving DecidableEq, Repr

/-- A page that the device has seen migrating (R218): its address space, size, page number, and old frame. -/
structure Moved where
  pasid : Nat
  size  : Nat
  vpn   : Nat
  frame : Nat
deriving DecidableEq, Repr

/-- A translation held (R331): level 0 in a core's L1 TLB, level 1 in a cluster's, level 2 a non-leaf entry of a die's walker. -/
structure TlbEntry where
  level : Nat
  unit  : Nat
  pasid : Nat
  /-- the size it spans as a power of two, virtual page number at that size, and the entry -/
  size  : Nat
  vpn   : Nat
  leaf  : Word
deriving DecidableEq, Repr

/-! ### Benches, copies, chains -/

/-- A row of a tile as a latch reads it (R133): its element bytes, its scale bytes, and the columns that poison reaches. -/
structure TileRow where
  data  : List Byte
  scale : List Byte := []
  bad   : List Nat := []
deriving DecidableEq, Repr

/-- An array operation (R138): MWL, or MMS of a bank. -/
structure ArrayOp where
  id     : Nat
  warp   : Nat
  core   : Nat
  wg     : Nat
  prio   : Nat := 0
  /-- none for MWL; the A handle for MMS -/
  a      : Option (BitVec 128) := none
  w      : BitVec 128
  gang   : Nat := 1
  /-- the member Benches, and the bank on each (MMS) -/
  members : List Nat
  banks  : List Nat := []
  z      : Bool := false
  tlnum  : Nat := 0
  /-- meter slot of the latch (R345) -/
  slot   : Option Nat := none
  /-- selected by these members (R139, R142) and running -/
  chosen : List Nat := []
  running : Bool := false
  /-- once it runs: 0 latching its weights, 1 its A rows entering, 2 after its last row; and the cycles of that stage so far (R140) -/
  stage  : Nat := 0
  step   : Nat := 0
  /-- the members that have to latch, and the weight rows read so far (R132, R133) -/
  need   : List Nat := []
  part   : List TileRow := []
  /-- a bank operation that waits for its turn in the bank (R138, R165): MZERO where z holds, else MWR with member, index in the bank and
  value of each element -/
  imm    : Option (List (Nat × Nat × Nat)) := none
  /-- the accesses it follows (R143) -/
  after  : List Nat := []
  /-- the fetch whose rows the present stage reads (R144), and the cycles for which its first row has been awaited (R143) -/
  fetch  : Option Nat := none
  late   : Nat := 0
deriving DecidableEq, Repr

/-- A fetch of a tile's rows (R143, R144): which operation began it, with its handle and core; the accesses then in flight; the cycle in which
it began; and the rows read so far. A fetch that is merged with it takes its rows. -/
structure Fetch where
  id     : Nat
  wg     : Nat
  core   : Nat
  handle : BitVec 128
  open'  : List Nat := []
  since  : Nat
  rows   : List (Nat × TileRow) := []
deriving DecidableEq, Repr

/-- A drain handed to the Planers (R162): everything MEPI reads at issue. -/
structure DrainOp where
  id     : Nat
  warp   : Nat
  wg     : Nat
  /-- %warp of the handing warp, for the flags of R83 -/
  index  : Nat
  members : List Nat
  banks  : List Nat
  out    : BitVec 128
  act    : Nat
  smode  : Nat
  bmode  : Nat
  vbase  : Nat
  scale  : BitVec 32
  bias   : BitVec 32
  joint  : Option Nat := none
  family : Family := .unset
  noflag : Bool := false
  tlnum  : Nat := 0
  /-- the PCs of the MEPI, for the fault store (R236) -/
  opc    : Word := 0
  rpc    : Word := 0
  /-- members whose Planer has started, and has ended -/
  started : List Nat := []
  ended  : List Nat := []
  /-- cycles of each Bench's drain so far (R136) -/
  rows   : SMap Nat := []
  /-- array operations into the bank that have to complete first -/
  after  : List Nat := []
  /-- the accesses it follows (R165) -/
  behind : List Nat := []
deriving DecidableEq, Repr

/-- A Bench (R132, R134, R139): free ring, waiting claims, the physical latch and the arbiter's memory. -/
structure Bench where
  ring    : List Nat := [0, 1, 2, 3, 4, 5, 6, 7]
  /-- warps whose claims wait, in arrival order -/
  waiting : List Nat := []
  /-- the warp and handle physically latched -/
  latched : Option (Nat × BitVec 128) := none
  /-- the rows of the tile latched -/
  weights : List TileRow := []
  /-- last core served (0 to 3 within the Bench's cores), none since reset; the run -/
  served  : Option Nat := none
  run     : Nat := 0
  /-- region (RCB) of each bank's previous owner -/
  owner   : SMap Nat := []
  /-- banks waiting to return until array operations complete: bank, operations -/
  pending : List (Nat × List Nat) := []
  /-- counters 0x140 to 0x143 (R145) -/
  count   : SMap Word := []
deriving DecidableEq, Repr

/-- A copy accepted by a cluster's engines (R225 to R230). -/
structure CopyOp where
  id     : Nat
  kind   : Nat
  warp   : Nat
  wg     : Nat
  core   : Nat
  pasid  : Nat
  scope  : Nat
  dst    : Word
  src    : Word
  rows   : Nat
  rbytes : Nat
  dpitch : Nat
  spitch : Nat
  mcast  : BitVec 16 := 0
  joint  : Option Nat := none
  idx    : Nat := 0
  tlnum  : Option Nat := none
  opc    : Word
  rpc    : Word
  /-- the current row and byte, and the gather index read when the row began -/
  row    : Nat := 0
  byte   : Nat := 0
  gidx   : Option Nat := none
  started : Bool := false
  /-- the release it follows (R228) -/
  after  : List Nat := []
deriving DecidableEq, Repr

/-- A chain operation accepted by a core's chain unit (R114 to R125). -/
structure ChainOp where
  id     : Nat
  warp   : Nat
  wg     : Nat
  index  : Nat
  core   : Nat
  pasid  : Nat
  record : BitVec 512
  count  : Nat
  /-- descriptors, and the induction part of their addresses and the stage test, as they stood at issue -/
  di     : BitVec 256
  dout   : BitVec 256
  iBase  : Int
  oBase  : Int
  iOn    : Bool
  oOn    : Bool
  iNum   : Nat
  oNum   : Nat
  noflag : Bool
  tlnum  : Nat
  opc    : Word
  rpc    : Word
  /-- the thread whose private memory its elements may reach, and PRIVLIM -/
  thread : Nat := 0
  lim    : Nat := 0
  /-- the accesses it follows -/
  after  : List Nat := []
  /-- the next element, and the conditions that those before it have raised (R121, R123) -/
  next   : Nat := 0
  raised : BitVec 6 := 0
deriving DecidableEq, Repr

/-! ### Launch path, Jig, metering, links -/

/-- A hardware queue slot (R301): the address of its QCB in memory, and a WAIT standing at its head. -/
structure QSlot where
  qcb     : Nat
  waiting : Bool := false
  /-- the read a WAIT is due: set when a mirror write lands in its line -/
  due     : Bool := false
  since   : Nat := 0
deriving DecidableEq, Repr

/-- A queue parked at a WAIT whose page is not resident (R304): the address of its QCB, its address space and number, the WAIT's ADDR, and
the cycle from which its next walk is due. -/
structure ParkedWait where
  qcb   : Nat
  pasid : Nat
  qnum  : Nat
  addr  : Nat
  due   : Nat
deriving DecidableEq, Repr

/-- An early credit entry of the pending table (R305): queue, packet index, credits. -/
structure Credit where
  pasid : Nat
  qnum  : Nat
  index : Nat
  count : Nat
deriving DecidableEq, Repr

/-- What the device keeps of an entry of an overflow ring beside its record (R316, R335): the RCB that supplies the ring, the index,
and the region, address space and record address of its node. -/
structure Spilled where
  queue  : Nat
  index  : Nat
  rcb    : Nat
  pasid  : Nat
  source : Word
deriving DecidableEq, Repr

/-- A Jig cache entry (R294 to R296). -/
structure JigEntry where
  id      : Nat
  key     : BitVec 512
  /-- the identity of the residual code (R294) -/
  ident   : BitVec 512 := 0
  /-- the residual words, their map entries, and the arena address of the code -/
  words   : List IWord := []
  map     : List Word := []
  base    : Nat := 0
  /-- uniform registers the launch prefix leaves -/
  init    : SMap Word := []
  /-- where a launch starts: the residual word, and its original word -/
  start   : Nat := 0
  origin  : Nat := 0
  /-- false for an unspecialisable kernel (R292) -/
  special : Bool := true
  /-- when it was last used (R296) -/
  used    : Nat := 0
deriving DecidableEq, Repr

/-- A Jig job in progress (R296): cache key, the kernel and key values it was started for, the die. -/
structure JigJob where
  id   : Nat
  key  : BitVec 512
  kernel : Kernel
  keys : List Word
  die  : Nat
deriving DecidableEq, Repr

/-- A live meter slot (R340). -/
structure Meter where
  inst    : BitVec 128
  macs    : BitVec 96 := 0
  rbytes  : Word := 0
  seq     : Word := 0
  /-- the allowed set, and its hash (R340) -/
  allowed : List (BitVec 512) := []
  allowh  : BitVec 512 := 0
  /-- report hash of the last report, and the counters it carried -/
  prevh   : BitVec 512 := 0
  repMacs : BitVec 96 := 0
  repBytes : Word := 0
  /-- report index (write index) of an undelivered forced report -/
  forced  : Option Nat := none
  sealing : Bool := false
  /-- status address of the SEAL command in progress -/
  sealCmd : Nat := 0
deriving DecidableEq, Repr

/-- A report held in the metering block (R347, R348): its body, and the slot it forces. -/
structure Report where
  body   : BitVec 2048
  slot   : Nat
  forced : Bool := false
deriving DecidableEq, Repr

/-- A message on its way or in a FIFO (R238): destination and source core, sender's region, value. -/
structure Message where
  dst    : Nat
  src    : Nat
  region : Nat
  value  : Word
  /-- its bytes were poisoned in the save area (R385) -/
  poison : Bool := false
deriving DecidableEq, Repr

/-- A Col port (R357, R362): trained rate (1 or 2), 0 when down, and since when. -/
structure ColPort where
  rate : Nat := 0
  since : Nat := 0
deriving DecidableEq, Repr

/-- What a peer package lets this device reach (R361): the peer's own export entry for it, which is the peer's state. -/
structure Grant where
  peer : Nat
  base : Nat
  size : Nat
  r    : Bool
  w    : Bool
deriving DecidableEq, Repr

/-- The issue in progress: which warp, and which of its lanes (S, R86). -/
structure Issue where
  warp  : Nat := 0
  lanes : Mask := 0
  /-- the scheduler has chosen it, and it issues next -/
  go    : Bool := false
deriving DecidableEq, Repr

/-- A set chosen for the second port, which issues after the primary port's word: its lanes and where they stand (R249). -/
structure Second where
  warp  : Nat
  lanes : Mask
  pc    : Word
  run   : Word
deriving DecidableEq, Repr

/-! ### The device -/

/-- The whole device. -/
structure State where
  /-- steps that come next, before the scheduler's own choice: host actions, and the device's steps in the order in which they
  happen in this run -/
  agenda   : List Instr := []
  /-- the issue in progress -/
  cur      : Issue := {}
  /-- what the second port issues after it -/
  second   : Option Second := none
  /-- cores whose ports are still to be given in this cycle (R249) -/
  turns    : List Nat := []
  /-- cycles of R1 -/
  cycle    : Nat := 0
  /-- next serial number for operations, warps, workgroups, nodes -/
  serial   : Nat := 0
  /-- how many open values have been used -/
  free     : Nat := 0
  /-- DEVSTAT[0], [1] and the tripped state of R396; service started by ENABLE -/
  booted   : Bool := false
  ready    : Bool := false
  throttled : Bool := false
  tripped  : Bool := false
  refused  : Bool := false
  enabled  : Bool := false
  /-- every byte of memory: device memory at its physical address, and the other stores above it (Machine/Ops.lean) -/
  mem      : List Host.Cell := []
  /-- poisoned bytes, rising (R390) -/
  poison   : List Nat := []
  /-- last sequence tag of each line (R194) -/
  tags     : SMap (BitVec 16) := []
  /-- slot tags of scratch pages: page number of the flat address -> slot + 1 (R343) -/
  pageSlot : SMap Nat := []
  /-- lines of the L1s (by core) and the cluster caches (by cluster) -/
  l1       : SMap (List Line) := []
  cc       : SMap (List Line) := []
  /-- the die directories (R214): for each 512-byte region of device memory the clusters that may hold a copy of a line of it -/
  dir      : SMap (BitVec 32) := []
  /-- invalidations sent and not yet applied: (cluster, line), in order -/
  invs     : List (Nat × Nat) := []
  ops      : List MemOp := []
  tlb      : List TlbEntry := []
  /-- accesses held for migrating pages, in order; the pages seen migrating, until they have moved (R218) -/
  heldMig  : List Held := []
  migrating : List Moved := []
  warps    : SMap Warp := []
  wgs      : SMap Wg := []
  nodes    : SMap Node := []
  kernels  : List Kernel := []
  /-- the constant segments of the kernels that have been launched, write-protected from then on (R65): address space, address, bytes -/
  constants : List (Nat × Nat × Nat) := []
  /-- split of each core with a resident workgroup: L1 KiB (R14, R311) -/
  split    : SMap Nat := []
  /-- core stall counters (R31): core * 16 + cause; at core * 16 + 8 the cycles in which the core held a warp -/
  coreStall : SMap Word := []
  halted   : List Nat := []
  benches  : SMap Bench := []
  arrays   : List ArrayOp := []
  /-- the saved command queues of saved workgroups (R383) -/
  withdrawn : List ArrayOp := []
  drains   : List DrainOp := []
  /-- the fetches of the Benches that are under way, or began at most 16 cycles ago (R144) -/
  fetches  : List Fetch := []
  /-- gang queues: waiting gang claims (warp) and ganged operations by cluster, in order -/
  gangClaims : List (Nat × Nat) := []
  copies   : List CopyOp := []
  chains   : List ChainOp := []
  /-- receive FIFOs and messages in the slices, in order -/
  fifo     : List Message := []
  transit  : List Message := []
  slots    : List QSlot := []
  /-- queues waiting for a slot: QCB addresses in doorbell order; parked queues (STATE 2) -/
  queueWait : List Nat := []
  parked   : List ParkedWait := []
  /-- doorbell walks passed to the firmware: PASID and value -/
  walks    : List (Nat × Word) := []
  credits  : List Credit := []
  /-- successor credits dispatch has not yet placed: completing nodes in order, each with its PASID and the entries left (R305) -/
  crediting : List (Nat × Nat × List Word) := []
  /-- device queues: supplying RCB -> node keys in order -/
  dqueue   : SMap (List Nat) := []
  spilled  : List Spilled := []
  admitted : BitVec 32 := 0
  /-- the node whose workgroups dispatch places, until one does not fit (R309) -/
  placing  : Option Nat := none
  /-- cluster last placed in, by region -/
  lastCluster : SMap Nat := []
  /-- arena allocations: arena RCB, kind (false private, true save), first page, pages, owner (0 argument copy of a node,
  1 private base of a workgroup, 2 save area of a workgroup) and its key -/
  arenas   : List (Nat × Bool × Nat × Nat × Nat × Nat) := []
  jigCache : List JigEntry := []
  jigJobs  : List JigJob := []
  meters   : SMap Meter := []
  creation : Word := 0
  reports  : List Report := []
  /-- the allowed sets that commands have named since reset (R340, R350) -/
  allowedSets : List (List (BitVec 512)) := []
  /-- signatures made (R347) -/
  signed   : Nat := 0
  meterCmds : List Nat := []
  regCmds  : List Nat := []
  /-- translation invalidations submitted and not yet counted, each with the serial number at its submission, 0 once the stores before it
  have gone home; and the first doubleword written -/
  invReqs  : List (BitVec 128 × Nat) := []
  invLow   : Word := 0
  /-- BAR0 registers that hold what was written, by offset (R391) -/
  bar      : SMap Word := []
  evseq    : BitVec 56 := 0
  /-- what the last host or debugger read returned -/
  hostRead : List Byte := []
  ports    : SMap ColPort := []
  lost     : List Nat := []
  grants   : List Grant := []
  pcieRate : Nat := 0
  pcieWidth : Nat := 0
  /-- size of BAR2 in GiB (R354) -/
  bar2     : Nat := 1024
deriving DecidableEq, Repr

/-! ### Stops -/

/-- The reasons a step of the machine stops with a fault of the model. No instruction's own fault is one of them: those are
delivered to the handler or end the work under the fault-domain policy (R368, R372). -/
inductive Fault where
  /-- raised by `exec` of a word when the issue names a warp that does not exist; never by `step`. Safe: the device issues no such word. -/
  | noWarp
deriving DecidableEq, Repr

/-- The reasons a step has no meaning. -/
inductive Refusal where
  /-- raised by a refused arm of `exec`: the instruction has no meaning in this model yet. Safe: nothing can be proved of it. -/
  | notModelled (mnemonic : String)
deriving DecidableEq, Repr

/-- The outcome of one step of this machine. -/
abbrev Out := Host.Outcome State Fault Refusal

/-! ### Reset -/

/-- The device after a cold reset whose firmware verified (R395): boot passed and ready, every register at its reset value
(R391), device memory 0 with every tag 0, all banks free in order, every meter slot free, no queue, node or warp. -/
def State.reset : State :=
  { booted := true, ready := true, bar := [(0x128, 0x10000000)] }

end Sys2Proof.Machine
end

