-- ==== Sys2Proof/Machine/Maps.lean ====
section
/-! DEFINITION. Sparse maps as rising lists, and the few list operations the machine needs, all by structural recursion. -/

namespace Sys2Proof.Machine

/-- The value listed under a key. -/
def mget {α : Type} (m : SMap α) (k : Nat) : Option α :=
  match m with
  | [] => none
  | (j, v) :: r => if j = k then some v else mget r k

/-- The value under a key, or what an unlisted key reads as. -/
def mgetD {α : Type} (m : SMap α) (k : Nat) (d : α) : α := (mget m k).getD d

/-- Writes a key, keeping the keys rising. -/
def mset {α : Type} (m : SMap α) (k : Nat) (v : α) : SMap α :=
  match m with
  | [] => [(k, v)]
  | (j, x) :: r => if k < j then (k, v) :: (j, x) :: r else if k = j then (k, v) :: r else (j, x) :: mset r k v

/-- Removes a key. -/
def merase {α : Type} (m : SMap α) (k : Nat) : SMap α :=
  match m with
  | [] => []
  | (j, x) :: r => if j = k then merase r k else (j, x) :: merase r k

/-- Writes a key of a map whose unlisted keys read as d: writing d removes the entry. -/
def mput {α : Type} [DecidableEq α] (d : α) (m : SMap α) (k : Nat) (v : α) : SMap α :=
  if v = d then merase m k else mset m k v

/-- Changes the value under a key, if it is listed. -/
def mmod {α : Type} (m : SMap α) (k : Nat) (f : α → α) : SMap α :=
  match m with
  | [] => []
  | (j, x) :: r => if j = k then (j, f x) :: r else (j, x) :: mmod r k f

/-- The keys, rising. -/
def mkeys {α : Type} (m : SMap α) : List Nat := m.map Prod.fst

/-- Inserts into a rising list without repeats. -/
def insertNat (k : Nat) (l : List Nat) : List Nat :=
  match l with
  | [] => [k]
  | j :: r => if k < j then k :: j :: r else if k = j then j :: r else j :: insertNat k r

/-- Inserts before the first element whose key is not less. -/
def insertBy {α : Type} (f : α → Nat) (x : α) (l : List α) : List α :=
  match l with
  | [] => [x]
  | y :: r => if f x ≤ f y then x :: y :: r else y :: insertBy f x r

/-- Sorts by a key, keeping the order of equals. -/
def sortBy {α : Type} (f : α → Nat) (l : List α) : List α := l.foldr (insertBy f) []

/-- The first element of least key. -/
def leastBy {α : Type} (f : α → Nat) (l : List α) : Option α :=
  match l with
  | [] => none
  | x :: r =>
    match leastBy f r with
    | none => some x
    | some y => if f y < f x then some y else some x

/-- Replaces the element at a position. -/
def setAt {α : Type} (l : List α) (i : Nat) (f : α → α) : List α :=
  match l, i with
  | [], _ => []
  | x :: r, 0 => f x :: r
  | x :: r, n + 1 => x :: setAt r n f

/-- Ceiling division. -/
def cdiv (a b : Nat) : Nat := (a + b - 1) / b

/-- The lanes of a mask, rising. -/
def lanesOf (m : Mask) : List Nat := (List.range 32).filter (fun i => m.getLsbD i)

/-- The mask of a list of lanes. -/
def maskOf (l : List Nat) : Mask := l.foldl (fun m i => m ||| (1#32 <<< i)) 0#32

/-- The number of ones. -/
def popcount {w : Nat} (v : BitVec w) : Nat := (List.range w).foldl (fun n i => if v.getLsbD i then n + 1 else n) 0

/-- Bits lo to lo + n - 1 of a number. -/
def bitsOf (v lo n : Nat) : Nat := v / 2 ^ lo % 2 ^ n

/-- Little-endian bytes of a number. -/
def bytesLE (n v : Nat) : List Byte :=
  match n with
  | 0 => []
  | k + 1 => BitVec.ofNat 8 v :: bytesLE k (v / 256)

/-- The number little-endian bytes hold. -/
def natLE (bs : List Byte) : Nat :=
  match bs with
  | [] => 0
  | b :: r => b.toNat + 256 * natLE r

end Sys2Proof.Machine
end

