-- ==== Sys2Proof/Machine/Memory.lean ====
section
/-! DEFINITION. Memory: the one flat store behind every address space, its poison, the lines of the caches, and the writes
that reach a line's home. Flat addresses: device memory at its physical address; host memory at its physical address, bit 51
set (R329); scratch of workgroup serial g from 2^60 + g * 2^40, by window address (R169); the accumulator banks from 2^61;
memory of peer package p from 2^70 + p * 2^40. -/

namespace Sys2Proof.Machine

/-! ### Flat addresses -/

/-- Bytes of device memory (R329): 768 GiB. -/
def deviceBytes : Nat := 824633720832
/-- The first physical address of host memory (R329). -/
def hostBase : Nat := 2251799813685248
/-- Scratch of a workgroup, by its window address (R169, R173). -/
def scratchFlat (wg off : Nat) : Nat := 1152921504606846976 + wg * 1099511627776 + off
/-- Bytes of one accumulator bank: 192 × 192 × 4 (R13). -/
def bankBytes : Nat := 147456
/-- Byte of a physical bank of a Bench. -/
def bankFlat (bench bank byte : Nat) : Nat := 2305843009213693952 + (bench * 8 + bank) * 147456 + byte
/-- Memory of a peer package (R359). -/
def peerFlat (peer pa : Nat) : Nat := 1180591620717411303424 + peer * 1099511627776 + pa
/-- The address reaches a cached line: device, host or peer memory (R176). -/
def isCached (a : Nat) : Bool := a < 1152921504606846976 || 1180591620717411303424 ≤ a
/-- The address is homed on this device. -/
def homedHere (a : Nat) : Bool := a < deviceBytes
/-- The region of 512 bytes in which coherence is tracked, by the number of a line (R176). -/
def regionOfLine (line : Nat) : Nat := line / 4
/-- The stack of a region of device memory (R177). -/
def homeStack (r : Nat) : Nat := r % 12
/-- The home die of a region, whose directory tracks it (R177, R214). -/
def homeDie (r : Nat) : Nat := homeStack r / 3
/-- The home slice of a region by its global number (R12, R177). -/
def homeSlice (r : Nat) : Nat := homeDie r * 32 + (r / 12 ^^^ r / 384) % 32
/-- The bank of its slice in which a line has its lock (R177, R215). -/
def homeBank (line : Nat) : Nat := line % 4
/-- The address lies in a peer package. -/
def isPeer (a : Nat) : Bool := 1180591620717411303424 ≤ a

/-! ### Bytes -/

/-- The byte at a flat address; an unlisted one reads 0. -/
def peekCells (m : List Host.Cell) (a : Nat) : Byte :=
  match m with
  | [] => 0
  | (j, v) :: r => if j = a then v else peekCells r a

/-- Writes one byte, keeping the addresses rising and no 0 listed. -/
def pokeCells (m : List Host.Cell) (a : Nat) (b : Byte) : List Host.Cell := mput 0 m a b

/-- The memory's one canonical form: addresses strictly rising, no entry 0. -/
def memWf (m : List Host.Cell) : Bool :=
  match m with
  | [] => true
  | (a, b) :: r =>
    (b != 0) && (match r with | [] => true | (c, _) :: _ => decide (a < c)) && memWf r

/-- The canonical form of the machine's memory. -/
abbrev Memory.wf (s : State) : Prop := memWf s.mem = true

/-- The byte at a flat address. -/
def State.peek (s : State) (a : Nat) : Byte := peekCells s.mem a

/-- Writes bytes at consecutive flat addresses. -/
def pokeList (m : List Host.Cell) (a : Nat) (bs : List Byte) : List Host.Cell :=
  match bs with
  | [] => m
  | b :: r => pokeList (pokeCells m a b) (a + 1) r

/-- Writes pairs of address and byte, in order. -/
def pokePairs (m : List Host.Cell) (ps : List (Nat × Byte)) : List Host.Cell :=
  match ps with
  | [] => m
  | (a, b) :: r => pokePairs (pokeCells m a b) r

/-- n bytes from a flat address. -/
def State.bytes (s : State) (a n : Nat) : List Byte := (List.range n).map (fun i => s.peek (a + i))

/-- The little-endian number in n bytes from a flat address. -/
def State.num (s : State) (a n : Nat) : Nat := natLE (s.bytes a n)

/-- Makes a range of flat addresses read 0. -/
def State.clearRange (s : State) (a n : Nat) : State :=
  { s with mem := s.mem.filter (fun c => decide (c.1 < a ∨ a + n ≤ c.1)),
           poison := s.poison.filter (fun c => decide (c < a ∨ a + n ≤ c)) }

/-! ### Poison (R390) -/

/-- The byte is poisoned. -/
def State.isPoison (s : State) (a : Nat) : Bool := s.poison.elem a

/-- Some byte of a range is poisoned. -/
def State.rangePoison (s : State) (a n : Nat) : Bool := (List.range n).any (fun i => s.isPoison (a + i))

/-- Poisons n bytes. -/
def State.poisonRange (s : State) (a n : Nat) : State :=
  { s with poison := (List.range n).foldl (fun p i => insertNat (a + i) p) s.poison }

/-- Removes the poison of n bytes. -/
def State.cleanRange (s : State) (a n : Nat) : State :=
  { s with poison := s.poison.filter (fun c => decide (c < a ∨ a + n ≤ c)) }

/-- The granules of 32 bytes a set of bytes covers whole lose their poison (R390). -/
def State.cleanCovered (s : State) (as : List Nat) : State :=
  match s.poison with
  | [] => s
  | p => { s with poison := p.filter (fun c => !((List.range 32).all (fun i => as.elem (c / 32 * 32 + i)))) }

/-- Poisons the granule of a byte: an uncorrectable error (R390). -/
def State.poisonGranule (s : State) (a : Nat) : State := s.poisonRange (a / 32 * 32) 32

/-! ### Lines of the caches (R176) -/

/-- The line of a list, if held. -/
def lineGet (ls : List Line) (i : Nat) : Option Line :=
  match ls with
  | [] => none
  | l :: r => if l.idx = i then some l else lineGet r i

/-- Writes a line, rising by number; a line that holds no byte is not listed. -/
def linePut (ls : List Line) (x : Line) : List Line :=
  match ls with
  | [] => if x.valid = 0 then [] else [x]
  | l :: r =>
    if x.idx < l.idx then (if x.valid = 0 then l :: r else x :: l :: r)
    else if x.idx = l.idx then (if x.valid = 0 then r else x :: r)
    else l :: linePut r x

/-- Byte k of a line. -/
def Line.byte (l : Line) (k : Nat) : Byte := l.data.extractLsb' (8 * k) 8

/-- Puts a byte into a line; dirty as said. -/
def Line.put (l : Line) (k : Nat) (b : Byte) (dirty : Bool) : Line :=
  { l with data := (l.data &&& ~~~(0xFF#1024 <<< (8 * k))) ||| (b.setWidth 1024 <<< (8 * k)),
           valid := l.valid ||| (1#128 <<< k),
           dirty := if dirty then l.dirty ||| (1#128 <<< k) else l.dirty &&& ~~~(1#128 <<< k) }

/-- An empty line. -/
def emptyLine (i : Nat) : Line := { idx := i, data := 0, valid := 0, dirty := 0 }

/-- Which cache: L1 of a core, or the cluster cache of a cluster. -/
def State.cache (s : State) (l1 : Bool) (unit : Nat) : List Line := mgetD (if l1 then s.l1 else s.cc) unit []

/-- Replaces a cache's lines. -/
def State.setCache (s : State) (l1 : Bool) (unit : Nat) (ls : List Line) : State :=
  if l1 then { s with l1 := mput [] s.l1 unit ls } else { s with cc := mput [] s.cc unit ls }

/-- The byte a cache holds for a flat address. -/
def State.cachedByte (s : State) (l1 : Bool) (unit a : Nat) : Option Byte :=
  match lineGet (s.cache l1 unit) (a / 128) with
  | none => none
  | some l => if l.valid.getLsbD (a % 128) then some (l.byte (a % 128)) else none

/-- Writes a byte into a cache. -/
def State.cacheWrite (s : State) (l1 : Bool) (unit a : Nat) (b : Byte) (dirty : Bool) : State :=
  let ls := s.cache l1 unit
  s.setCache l1 unit (linePut ls (((lineGet ls (a / 128)).getD (emptyLine (a / 128))).put (a % 128) b dirty))

/-- Updates a byte a cache holds, leaving it clean; nothing where the cache does not hold it (R212). -/
def State.cacheUpdate (s : State) (l1 : Bool) (unit a : Nat) (b : Byte) : State :=
  match s.cachedByte l1 unit a with
  | none => s
  | some _ => s.cacheWrite l1 unit a b false

/-- The byte an access of a core sees at a point: 0 its L1, 1 its cluster cache, 2 the home (R185, R187). -/
def State.view (s : State) (core point a : Nat) : Byte :=
  if isCached a then
    match (if point = 0 then s.cachedByte true core a else none) with
    | some b => b
    | none =>
      match (if point ≤ 1 then s.cachedByte false (core / 16) a else none) with
      | some b => b
      | none => s.peek a
  else s.peek a

/-- A byte of a peer package whose route is lost (R362). -/
def State.lostAt (s : State) (a : Nat) : Bool := isPeer a && s.lost.elem ((a - peerFlat 0 0) / 1099511627776)

/-- Brings a line into a cache: bytes it does not hold come clean from the next level out; poisoned bytes, and those of a lost peer, stay
outside, so that every read of them meets the poison (R362, R390). -/
def State.fill (s : State) (l1 : Bool) (unit line : Nat) : State :=
  let ls := s.cache l1 unit
  let l0 := (lineGet ls line).getD (emptyLine line)
  let l' := (List.range 128).foldl (fun l k =>
    if l.valid.getLsbD k || s.isPoison (line * 128 + k) || s.lostAt (line * 128 + k) then l
    else l.put k (if l1 then s.view unit 1 (line * 128 + k) else s.peek (line * 128 + k)) false) l0
  s.setCache l1 unit (linePut ls l')

/-- Removes the clean bytes of the lines of a cache that satisfy p (R213, R214). -/
def State.discardLines (s : State) (l1 : Bool) (unit : Nat) (p : Line → Bool) : State :=
  s.setCache l1 unit ((s.cache l1 unit).filterMap (fun l =>
    if p l then (if l.dirty = 0 then none else some { l with valid := l.dirty }) else some l))

/-- Removes the clean bytes of lines by their numbers. -/
def State.discardClean (s : State) (l1 : Bool) (unit : Nat) (p : Nat → Bool) : State := s.discardLines l1 unit (fun l => p l.idx)

/-- The line is held for a region (R213). -/
def Line.isOf (l : Line) (region : Nat) : Bool := l.users.any (fun u => u.region == region)

/-- A region's access comes to lines that a core's L1 holds for other regions only: their clean bytes are no copies of its own, since its
acquires leave them, and go first; so do those of lines homed elsewhere in the cluster cache (R206, R213). -/
def State.claimed (s : State) (core region : Nat) (lines : List Nat) : State :=
  let p := fun (l : Line) => lines.elem l.idx && !l.isOf region
  let far := fun (l : Line) => p l && !homedHere (l.idx * 128)
  let s1 := if (s.cache true core).any p then s.discardLines true core p else s
  if (s1.cache false (core / 16)).any far then s1.discardLines false (core / 16) far else s1

/-- The replacement priority that a load policy gives a line it allocates (R178). -/
def rankOf (policy : Nat) : Nat := if policy = 1 then 0 else if policy = 2 then 2 else 1

/-- Brings a line into a cache under a load policy: a line that was not there is allocated at the policy's priority (R178). -/
def State.fillAs (s : State) (policy : Nat) (l1 : Bool) (unit line : Nat) : State :=
  let t := s.fill l1 unit line
  match lineGet (s.cache l1 unit) line, lineGet (t.cache l1 unit) line with
  | none, some l => if rankOf policy = l.rank then t else t.setCache l1 unit (linePut (t.cache l1 unit) { l with rank := rankOf policy })
  | _, _ => t

/-- Notes with the lines of a cache for whom it holds them. -/
def State.useLines (s : State) (l1 : Bool) (unit : Nat) (us : List LineUser) (lines : List Nat) : State :=
  s.setCache l1 unit ((s.cache l1 unit).map (fun l =>
    if lines.elem l.idx then { l with users := (l.users ++ us).eraseDups } else l))

/-- The bytes of a line that a cache holds dirty. -/
def State.dirtyBytes (s : State) (l1 : Bool) (unit line : Nat) : List (Nat × Byte) :=
  match lineGet (s.cache l1 unit) line with
  | none => []
  | some l => if l.dirty = 0 then []
    else ((List.range 128).filter (fun k => l.dirty.getLsbD k)).map (fun k => (line * 128 + k, l.byte k))

/-- Marks a line of a cache clean. -/
def State.markClean (s : State) (l1 : Bool) (unit line : Nat) : State :=
  let ls := s.cache l1 unit
  match lineGet ls line with
  | none => s
  | some l => s.setCache l1 unit (linePut ls { l with dirty := 0 })

/-! ### Home (R194, R214, R215) -/

/-- The last sequence tag of a line. -/
def State.tagOf (s : State) (line : Nat) : BitVec 16 := mgetD s.tags line 0

/-- The line takes its next sequence tag (R194). -/
def State.takeTag (s : State) (line : Nat) : State := { s with tags := mput 0 s.tags line (s.tagOf line + 1) }

/-- A core holds a copy of a line in its L1: what the cluster filter records (R214). -/
def State.coreHolds (s : State) (core line : Nat) : Bool := (lineGet (s.cache true core) line).isSome

/-- A cluster holds a copy of a line in its cluster cache or in an L1 of its. -/
def State.clusterHolds (s : State) (c line : Nat) : Bool :=
  (lineGet (s.cache false c) line).isSome || (s.l1.any (fun e => e.1 / 16 == c && (lineGet e.2 line).isSome))

/-- The clusters that may hold a copy of a line of the region: the directory's mask, which has those that do (R214). -/
def State.sharers (s : State) (line : Nat) : List Nat :=
  (List.range 32).filter (fun c => (mgetD s.dir (regionOfLine line) 0).getLsbD c || s.clusterHolds c line)

/-- Invalidations of a line of device memory for every other cluster of its region's mask (R214); from = 32 names no cluster. Lines of
the host and of peers have no directory here. -/
def State.invalidateOthers (s : State) (from' line : Nat) : State :=
  if homedHere (line * 128) then
    { s with invs := s.invs ++ (((s.sharers line).filter (fun c => c != from' && !(s.invs.elem (c, line)))).map
        (fun c => (c, line))) }
  else s

/-- A directory evicts the entry of a line's region: the region is invalidated in every cluster of the mask (R214). -/
def State.evictEntry (s : State) (line : Nat) : State :=
  let r := regionOfLine line
  let es := (List.range 4).flatMap (fun k => (s.sharers (4 * r + k)).map (fun c => (c, 4 * r + k)))
  { s with dir := mput 0 s.dir r 0, invs := s.invs ++ es.filter (fun e => !s.invs.elem e) }

/-- An invalidation of the line is still on its way: the line's lock is held (R215). -/
def State.locked (s : State) (line : Nat) : Bool := s.invs.any (fun e => e.2 == line)

/-- A lane watching the line wakes (R256). -/
def Lane.wakeIf (p : Nat → Bool) (l : Lane) : Lane :=
  match l.park with
  | .watch (some w) t false => if p w then { l with park := .watch (some w) t true } else l
  | _ => l

/-- Wakes the lanes that watch a line, on the cores that satisfy p (R256). -/
def State.wakeWatchers (s : State) (onCore : Nat → Bool) (line : Nat) : State :=
  { s with warps := s.warps.map (fun e =>
      if onCore e.2.core && e.2.lanes.any (fun l =>
          match l.park with
          | .watch (some w) _ false => w == line
          | _ => false)
      then (e.1, { e.2 with lanes := e.2.lanes.map (Lane.wakeIf (fun w => w == line)) }) else e) }

/-- An invalidation is applied at a cluster's filter: its clean bytes of the line go, and lanes of the cores that hold the line and watch
it wake; a cluster without the line drops it (R214, R256). -/
def State.invalidate (s : State) (cluster line : Nat) : State :=
  let s1 := { s with invs := s.invs.erase (cluster, line) }
  let cores := (mkeys s1.l1).filter (fun c => c / 16 == cluster && s1.coreHolds c line)
  (cores.foldl (fun s c => s.discardClean true c (fun l => l == line))
    (s1.discardClean false cluster (fun l => l == line))).wakeWatchers (fun c => cores.elem c) line

/-- A write of the device's own units, or from outside, waits for the locks of its lines (R215): their invalidations are applied first. -/
def State.unlock (s : State) (lines : List Nat) : State :=
  (s.invs.filter (fun e => lines.elem e.2)).foldl (fun s e => s.invalidate e.1 e.2) s

/-- A write of bytes at a line's home: memory changes, whole granules lose their poison, the line takes a tag, and the copies
of other clusters are invalidated (R194, R214, R215). Lines of the host have no tag; bytes of a lost peer are discarded (R362). -/
def State.homeWrite (s : State) (from' : Nat) (ps : List (Nat × Byte)) (line : Nat) : State :=
  if s.lostAt (line * 128) then s
  else
  let s1 := ({ s with mem := pokePairs s.mem ps }).cleanCovered (ps.map Prod.fst)
  (if homedHere (line * 128) || isPeer (line * 128) then s1.takeTag line else s1).invalidateOthers from' line

/-- Dirty bytes of a line in a core's L1 move to its cluster cache (R212). -/
def State.pushL1 (s : State) (core line : Nat) : State :=
  match s.dirtyBytes true core line with
  | [] => s
  | ps =>
    let us := ((lineGet (s.cache true core) line).map (fun l => l.users)).getD []
    ((ps.foldl (fun s p => s.cacheWrite false (core / 16) p.1 p.2 true) s).useLines false (core / 16) us [line]).markClean true core line

/-- Dirty bytes of a line in a cluster cache move to the line's home, by mask; the push takes one tag (R194, R212, R216). -/
def State.pushCc (s : State) (cluster line : Nat) : State :=
  match s.dirtyBytes false cluster line with
  | [] => s
  | ps => (s.homeWrite cluster ps line).markClean false cluster line

/-- Before an access at a point, the dirty bytes held inside it go to it (R212). -/
def State.pushTo (s : State) (core point line : Nat) : State :=
  if point = 0 then s else if point = 1 then s.pushL1 core line else (s.pushL1 core line).pushCc (core / 16) line

/-- A write of bytes of one line at a point on behalf of a core: 0 its L1, 1 its cluster cache, 2 the home. The copies passed on
the way are updated (R212), and lanes of the core that watch the line wake (R256). -/
def State.writeAt (s : State) (core point line : Nat) (ps : List (Nat × Byte)) : State :=
  let s := s.pushTo core point line
  let s' :=
    if point = 0 then ps.foldl (fun s p => s.cacheWrite true core p.1 p.2 true) s
    else if point = 1 then
      ps.foldl (fun s p => (s.cacheWrite false (core / 16) p.1 p.2 true).cacheUpdate true core p.1 p.2) s
    else
      ps.foldl (fun s p => (s.cacheUpdate false (core / 16) p.1 p.2).cacheUpdate true core p.1 p.2)
        (s.homeWrite (core / 16) ps line)
  s'.wakeWatchers (fun c => if point = 1 then c / 16 == core / 16 else c == core) line

/-- The dirty lines of a frame go home from every cache (R212, R218). -/
def State.flushFrame (s : State) (base size : Nat) : State :=
  let dirty := fun (ls : List Line) => (ls.filter (fun l => l.dirty != 0 && decide (base ≤ l.idx * 128 ∧ l.idx * 128 < base + 2 ^ size))).map
    (fun l => l.idx)
  let s1 := (s.l1.flatMap (fun e => (dirty e.2).map (fun l => (e.1, l)))).foldl (fun s e => s.pushL1 e.1 e.2) s
  (s1.cc.flatMap (fun e => (dirty e.2).map (fun l => (e.1, l)))).foldl (fun s e => (s.unlock [e.2]).pushCc e.1 e.2) s1

/-- No cache holds a line of a frame any more. -/
def State.dropFrame (s : State) (base size : Nat) : State :=
  let keep := fun (m : SMap (List Line)) => (m.map (fun (e : Nat × List Line) =>
    (e.1, e.2.filter (fun l => !decide (base ≤ l.idx * 128 ∧ l.idx * 128 < base + 2 ^ size))))).filter (fun e => e.2 != [])
  { s with l1 := keep s.l1, cc := keep s.cc }

/-- A write of bytes that are not cached: scratch, register-window-free on-chip bytes, banks (R185). -/
def State.writeRaw (s : State) (ps : List (Nat × Byte)) : State :=
  let s1 := ({ s with mem := pokePairs s.mem ps }).cleanCovered (ps.map Prod.fst)
  ((ps.map (fun p => p.1 / 128)).eraseDups).foldl (fun s l => s.wakeWatchers (fun _ => true) l) s1

/-- Writes bytes anywhere, at a point for those that are cached; line by line. -/
def State.writeBytes (s : State) (core point : Nat) (ps : List (Nat × Byte)) : State :=
  (((ps.filter (fun p => isCached p.1)).map (fun p => p.1 / 128)).eraseDups.foldl
      (fun s l => s.writeAt core point l (ps.filter (fun p => p.1 / 128 == l)))
      (match ps.filter (fun p => !isCached p.1) with
       | [] => s
       | q => s.writeRaw q))

/-- A write by the device's own units at home, under the lines' locks: queue indices, event slots, statuses (a system-scope release). -/
def State.deviceWrite (s : State) (a : Nat) (bs : List Byte) : State :=
  let ps := (List.range bs.length).zip bs |>.map (fun e => (a + e.1, e.2))
  let ls := (ps.map (fun p => p.1 / 128)).eraseDups
  ls.foldl (fun s l => s.homeWrite 32 (ps.filter (fun p => p.1 / 128 == l)) l) (s.unlock ls)

end Sys2Proof.Machine
end

