-- ==== Sys2Proof/Machine/Translate.lean ====
section
/-! DEFINITION. Translation (R326 to R331), and what an access of a lane or an engine reaches: apertures, windows, private
memory, page rights, write-protected blocks, meter tags (R168 to R175, R183, R342). -/

namespace Sys2Proof.Machine

/-- Why a walk fails: an entry with V = 0, or anything else that R326, R329 or R359 calls a translation fault (R304 tells them apart). -/
inductive WalkErr where
  | notPresent | broken
deriving DecidableEq, Repr

/-- A leaf a walk or a TLB supplies: the entry, its page size as a power of two, and the entry's address when a walk read it. -/
structure Leaf where
  entry : Word
  size  : Nat
  addr  : Option Nat := none
deriving DecidableEq, Repr

/-- A BAR0 register (R391). -/
def State.reg (s : State) (off : Nat) : Word := mgetD s.bar off 0

/-- A physical address under R329 names memory: device memory, or host memory with bit 51 set. -/
def physOk (pa : Nat) : Bool := pa < deviceBytes || (hostBase ≤ pa && pa < 2 * hostBase)

/-- FRAME of an entry, as an address. -/
def frameOf (e : Word) : Nat := bitsOf e.toNat 12 40 * 4096

/-- The physical address a leaf gives a virtual address (R327). -/
def leafPa (l : Leaf) (va : Nat) : Nat := frameOf l.entry / 2 ^ l.size * 2 ^ l.size + va % 2 ^ l.size

/-- The flat address a leaf gives a virtual address (R327, R359). -/
def leafFlat (l : Leaf) (va : Nat) : Nat :=
  if l.entry.getLsbD 62 then peerFlat (bitsOf (leafPa l va) 40 8) (leafPa l va % 2 ^ 40) else leafPa l va

/-- A leaf is well formed for an address (R329, R359); level is 3, 4 or 5. -/
def leafOk (s : State) (level : Nat) (e : Word) (va : Nat) : Bool :=
  let size := 57 - 9 * level
  let pa := leafPa { entry := e, size := size } va
  decide (3 ≤ level) && !e.getLsbD 63 && decide (frameOf e % 2 ^ size = 0) && !(e.getLsbD 2 && !e.getLsbD 1)
    && decide (bitsOf e.toNat 9 3 ≤ 4)
    && (if e.getLsbD 62 then
          decide (bitsOf pa 48 4 = 0) && decide (pa % 2 ^ 40 < deviceBytes)
            && decide (((s.reg (0x800 + 8 * bitsOf pa 40 8)).toNat % 2 ^ 24) ≠ 0)
        else physOk pa)

/-- The non-leaf entry that the walker of a die holds for an address at a level of the tables, by the size the entry spans (R331). -/
def nodeHeld (es : List TlbEntry) (die pasid size va : Nat) : Option Word :=
  (es.find? (fun t => t.level == 2 && t.unit == die && t.pasid == pasid && t.size == size && t.vpn == va / 2 ^ size)).map
    (fun t => t.leaf)

/-- The walk of a die's walker from a table at a level (R327 to R329, R331); left counts the levels still to read. -/
def walkFrom (s : State) (die pasid table level va left : Nat) : Except WalkErr Leaf :=
  match left with
  | 0 => .error .broken
  | k + 1 =>
    let size := 57 - 9 * level
    match nodeHeld s.tlb die pasid size va with
    | some e => walkFrom s die pasid (frameOf e) (level + 1) va k
    | none =>
      let ea := table + 8 * bitsOf va size (if level = 1 then 8 else 9)
      let e := BitVec.ofNat 64 (s.num ea 8)
      if !physOk ea then .error .broken
      else if !e.getLsbD 0 then .error .notPresent
      else if e.getLsbD 7 then
        (if leafOk s level e va then .ok { entry := e, size := size, addr := some ea } else .error .broken)
      else if level = 5 then .error .broken
      else if e &&& 0xFFF0000000000FFE#64 ≠ 0 then .error .broken
      else walkFrom s die pasid (frameOf e) (level + 1) va k

/-- The non-leaf entries on the way of a walk, as a die's walker holds them. -/
def walkNodes (s : State) (die pasid table level va left : Nat) : List TlbEntry :=
  match left with
  | 0 => []
  | k + 1 =>
    let size := 57 - 9 * level
    let e := match nodeHeld s.tlb die pasid size va with
      | some e => e
      | none => BitVec.ofNat 64 (s.num (table + 8 * bitsOf va size (if level = 1 then 8 else 9)) 8)
    if !e.getLsbD 0 || e.getLsbD 7 then []
    else { level := 2, unit := die, pasid := pasid, size := size, vpn := va / 2 ^ size, leaf := e }
      :: walkNodes s die pasid (frameOf e) (level + 1) va k

/-- The root table of a PASID (R326). -/
def rootOf (s : State) (pasid : Nat) : Option Nat :=
  let e := s.num ((s.reg 0x110).toNat + 8 * pasid) 8
  if pasid < 2 ^ (s.reg 0x118).toNat ∧ e % 2 = 1 ∧ e / 2 ^ 56 = 0 ∧ bitsOf e 1 10 = 0 then some (bitsOf e 11 45 * 2048) else none

/-- A whole walk of a global address by a die's walker; die 4 is none, for the units of the hub. -/
def walk (s : State) (die pasid va : Nat) : Except WalkErr Leaf :=
  match rootOf s pasid with
  | none => .error .broken
  | some r => walkFrom s die pasid r 1 va 5

/-- Keeps the n entries of a unit that were put in last (R331); the entries of other units stay. -/
def tlbCap (es : List TlbEntry) (level unit n : Nat) : List TlbEntry :=
  match es with
  | [] => []
  | e :: r =>
    if e.level = level ∧ e.unit = unit then
      match n with
      | 0 => tlbCap r level unit 0
      | k + 1 => e :: tlbCap r level unit k
    else e :: tlbCap r level unit n

/-- The translation a TLB list holds for an address in a unit (R331). -/
def tlbFind (es : List TlbEntry) (level unit pasid va : Nat) : Option Leaf :=
  match es with
  | [] => none
  | e :: r =>
    if e.level = level ∧ e.unit = unit ∧ e.pasid = pasid ∧ e.vpn = va / 2 ^ e.size then some { entry := e.leaf, size := e.size }
    else tlbFind r level unit pasid va

/-- The translation an access of a core uses: its L1 TLB, its cluster's TLB, or a walk; a write through a held leaf whose D is
clear walks again, to set it (R330, R331). -/
def translate (s : State) (core pasid va : Nat) (wr : Bool) : Except WalkErr Leaf :=
  match tlbFind s.tlb 0 core pasid va with
  | some l => if wr && !l.entry.getLsbD 6 then walk s (core / 128) pasid va else .ok l
  | none =>
    match tlbFind s.tlb 1 (core / 16) pasid va with
    | some l => if wr && !l.entry.getLsbD 6 then walk s (core / 128) pasid va else .ok l
    | none => walk s (core / 128) pasid va

/-- A page that the device has seen migrating and that has its new frame moves (R218): every line's bytes, poison and last tag are those of
the old frame, whose dirty lines go home first; no cache keeps what the new frame held before. -/
def State.carryPage (s : State) (old new size : Nat) : State :=
  let s := (s.flushFrame old size).dropFrame new size
  let to' := fun (a : Nat) => new + (a - old)
  let within := fun (base a : Nat) => decide (base ≤ a ∧ a < base + 2 ^ size)
  { s with
    mem := pokePairs (s.mem.filter (fun c => !within new c.1)) ((s.mem.filter (fun c => within old c.1)).map (fun c => (to' c.1, c.2))),
    poison := ((s.poison.filter (within old)).map to').foldl (fun p a => insertNat a p) (s.poison.filter (fun a => !within new a)),
    tags := ((s.tags.filter (fun e => within old (e.1 * 128))).map (fun e => (to' (e.1 * 128) / 128, e.2))).foldl
      (fun m e => mput 0 m e.1 e.2) (s.tags.filter (fun e => !within new (e.1 * 128))) }

/-- What the device notes of a page with MIG = 1: its old frame, once (R218). -/
def State.noteMig (s : State) (pasid va : Nat) (l : Leaf) : State :=
  let m : Moved := { pasid := pasid, size := l.size, vpn := va / 2 ^ l.size, frame := leafFlat l (va / 2 ^ l.size * 2 ^ l.size) }
  if !l.entry.getLsbD 8 || s.migrating.any (fun x => x.pasid == m.pasid && x.size == m.size && x.vpn == m.vpn) then s
  else { s with migrating := s.migrating ++ [m] }

/-- The page seen migrating that a leaf with MIG = 0 belongs to. -/
def State.movedPage (s : State) (pasid va : Nat) (l : Leaf) : Option Moved :=
  if l.entry.getLsbD 8 then none
  else s.migrating.find? (fun m => m.pasid == pasid && m.size == l.size && m.vpn == va / 2 ^ m.size)

/-- A page that may not be accessed yet (R218): it migrates, or it has its new frame while accesses to the old one are under way. -/
def State.pageHeld (s : State) (pasid va : Nat) (l : Leaf) : Bool :=
  l.entry.getLsbD 8 || (match s.movedPage pasid va l with
    | none => false
    | some m => s.ops.any (fun o => o.parts.any (fun p => p.addrs.any (fun a => decide (m.frame ≤ a ∧ a < m.frame + 2 ^ m.size)))))

/-- The first use of a leaf with MIG = 0 of a page seen migrating: the page has moved (R218). -/
def State.carried (s : State) (pasid va : Nat) (l : Leaf) : State :=
  match (if s.pageHeld pasid va l then none else s.movedPage pasid va l) with
  | none => s
  | some m =>
    let s1 := { s with migrating := s.migrating.filter (fun x => x != m) }
    let new := leafFlat l (va / 2 ^ l.size * 2 ^ l.size)
    if m.frame = new ∨ !homedHere m.frame ∨ !homedHere new then s1 else s1.carryPage m.frame new l.size

/-- The leaf that a walk's compare-and-swap acts on: the one read, or, where the entry has changed since, that of a new walk (R330). -/
def Leaf.again (s : State) (core pasid va : Nat) (l : Leaf) : Option Leaf :=
  match l.addr with
  | none => none
  | some ea =>
    if BitVec.ofNat 64 (s.num ea 8) = l.entry then some l
    else
      match walk s (core / 128) pasid va with
      | .ok x => some x
      | .error _ => none

/-- The lines of the entries that a walk reads at home. -/
def walkLines (s : State) (die pasid table level va left : Nat) : List Nat :=
  match left with
  | 0 => []
  | k + 1 =>
    let size := 57 - 9 * level
    match nodeHeld s.tlb die pasid size va with
    | some e => walkLines s die pasid (frameOf e) (level + 1) va k
    | none =>
      let ea := table + 8 * bitsOf va size (if level = 1 then 8 else 9)
      let e := BitVec.ofNat 64 (s.num ea 8)
      ea / 128 :: (if !e.getLsbD 0 || e.getLsbD 7 then [] else walkLines s die pasid (frameOf e) (level + 1) va k)

/-- A walk's effects once an access uses its leaf: A and, for a write, D are set at home, and the TLBs hold the leaf and
the walker the entries on the way (R330, R331). Its reads there wait for the locks of the lines they read (R215). -/
def State.touch (s : State) (core pasid va : Nat) (wr : Bool) (l : Leaf) : State :=
  match l.again s core pasid va with
  | none => s
  | some l =>
    let s0 := (match (if s.invs = [] then none else rootOf s pasid) with
      | none => s
      | some r => s.unlock (walkLines s (core / 128) pasid r 1 va 5)).carried pasid va l
    let e' := l.entry ||| (if wr then 0x60#64 else 0x20#64)
    let s1 := if e' = l.entry then s0 else s0.deviceWrite (l.addr.getD 0) (bytesLE 8 e'.toNat)
    let nodes := match rootOf s pasid with
      | none => []
      | some r => walkNodes s (core / 128) pasid r 1 va 5
    let keep := s1.tlb.filter (fun t => !(t.pasid == pasid && t.vpn == va / 2 ^ t.size
      && ((t.level == 0 && t.unit == core) || (t.level == 1 && t.unit == core / 16) || (t.level == 2 && t.unit == core / 128))))
    { s1 with tlb := tlbCap (tlbCap (tlbCap
        ({ level := 0, unit := core, pasid := pasid, size := l.size, vpn := va / 2 ^ l.size, leaf := e' }
          :: { level := 1, unit := core / 16, pasid := pasid, size := l.size, vpn := va / 2 ^ l.size, leaf := e' } :: (nodes ++ keep))
        0 core 64) 1 (core / 16) 2048) 2 (core / 128) 256 }

/-! ### What an access reaches -/

/-- The kinds of access whose rights differ (R183, R255, R356). -/
inductive AccKind where
  | load | store
  /-- an atomic or a reduction: AOP of ATOM that a host page allows, its scope -/
  | rmw (hostOk : Bool)
  | fetch
deriving DecidableEq, Repr

/-- Whether the kind writes. -/
def AccKind.writes : AccKind → Bool
  | .load => false
  | .store => true
  | .rmw _ => true
  | .fetch => false

/-- A page the access translated: virtual address and leaf. -/
structure Via where
  va   : Nat
  leaf : Leaf
deriving DecidableEq, Repr

/-- What an access reaches: the flat address of each byte, the pages used, the bytes of each meter slot, how many bytes one single-copy
atomic access takes (R175, R188), whether a page is held for migration. -/
structure Reach where
  flats : List Nat
  vias  : List Via := []
  slots : List (Nat × Nat) := []
  unit  : Nat := 8
  mig   : Bool := false
deriving DecidableEq, Repr

/-- A failed check: its rank in R183's order (the private limit ranks after the windows), and the fault class. -/
structure Denied where
  rank : Nat
  cls  : Nat
deriving DecidableEq, Repr

/-- On whose behalf an access is made. -/
structure Who where
  core    : Nat
  pasid   : Nat
  wg      : Nat
  meter   : SMap Nat := []
  digest  : BitVec 512 := 0
  scope   : Nat := 0
deriving DecidableEq, Repr

/-- The virtual page lies in the argument copy of a launched node of the address space, or in the constant segment of a kernel of it that
has been launched (R65, R183). -/
def State.writeProtected (s : State) (pasid va : Nat) : Bool :=
  s.nodes.any (fun e =>
    let n := e.2
    n.region.pasid == pasid && (n.status == .pooled || n.status == .placed) && n.kernel.args != 0
      && decide (n.argCopy ≤ va ∧ va < n.argCopy + cdiv n.kernel.args 4096 * 4096))
    || s.constants.any (fun k => k.1 == pasid && decide (k.2.1 ≤ va ∧ va < k.2.1 + cdiv k.2.2 4096 * 4096))

/-- A peer lets this device reach an address (R361): its export entry for us, as the grants say. -/
def State.granted (s : State) (peer pa : Nat) (k : AccKind) : Bool :=
  s.grants.any (fun g => g.peer == peer && decide (g.base ≤ pa ∧ pa < g.base + g.size)
    && (match k with | .load => g.r | .store => g.w | .rmw _ => g.r && g.w | .fetch => g.r))

/-- The kernel may touch the slot's pages (R342). -/
def State.allowedFor (s : State) (digest : BitVec 512) (slot : Nat) : Bool :=
  match mget s.meters slot with
  | none => false
  | some m => m.allowed.elem digest

/-- Checks 4 and 5 of R183 for bytes within a page of global memory. -/
def reachRights (s : State) (w : Who) (va : Nat) (k : AccKind) : Except Denied Leaf :=
  match translate s w.core w.pasid va k.writes with
  | .error _ => .error { rank := 40, cls := 0x04 }
  | .ok l =>
    let e := l.entry
    let remote := e.getLsbD 62
    let host := !remote && decide (hostBase ≤ leafPa l va)
    let right := match k with
      | .load => e.getLsbD 1
      | .store => e.getLsbD 2
      | .rmw ok => e.getLsbD 1 && e.getLsbD 2 && (!host || ok)
      | .fetch => e.getLsbD 3
    if !right || (k.writes && s.writeProtected w.pasid va)
        || (remote && (w.scope == 4 || w.scope == 5
              || !(s.lost.elem (bitsOf (leafPa l va) 40 8) || s.granted (bitsOf (leafPa l va) 40 8) (leafPa l va % 2 ^ 40) k)))
    then .error { rank := 50, cls := 0x05 }
    else .ok l

/-- The meter slot of a page (R341): none where it is not metered; a tag that is not bound is a fault. -/
def boundSlot (w : Who) (l : Leaf) : Except Denied (Option Nat) :=
  match bitsOf l.entry.toNat 52 10 with
  | 0 => .ok none
  | tag =>
    match mget w.meter tag with
    | none => .error { rank := 60, cls := 0x10 }
    | some slot => .ok (some slot)

/-- Checks 4 and 5 of R183 and the meter checks of R341 and R342 for bytes within a page of global memory. -/
def reachPage (s : State) (w : Who) (va : Nat) (k : AccKind) : Except Denied (Leaf × Option Nat) :=
  match reachRights s w va k with
  | .error d => .error d
  | .ok l =>
    if k = .fetch then .ok (l, none)
    else
      match boundSlot w l with
      | .error d => .error d
      | .ok none => .ok (l, none)
      | .ok (some slot) => if s.allowedFor w.digest slot then .ok (l, some slot) else .error { rank := 60, cls := 0x10 }

/-- n bytes of global memory that lie in one page. -/
def reachGlobal (s : State) (w : Who) (va n : Nat) (k : AccKind) : Except Denied Reach :=
  match reachPage s w va k with
  | .error d => .error d
  | .ok (l, slot) =>
    .ok { flats := (List.range n).map (fun i => leafFlat l va + i), vias := [{ va := va, leaf := l }],
          slots := (slot.map (fun j => (j, n))).toList,
          mig := l.entry.getLsbD 8 }

/-- Scratch bytes of a workgroup on a core: 0 where it holds none (R170). -/
def State.scratchOn (s : State) (wg core : Nat) : Option Nat := (mget s.wgs wg).bind (fun g => mget g.cores core)

/-- The slot tag of the scratch page of a flat address (R343). -/
def State.slotOf (s : State) (flat : Nat) : Option Nat := mget s.pageSlot (flat / 4096)

/-- n scratch bytes at a window address (R169, R170). -/
def reachScratch (s : State) (w : Who) (win n : Nat) (metered : Bool) : Except Denied Reach :=
  match s.scratchOn w.wg (win / 2 ^ 31) with
  | none => .error { rank := 30, cls := 0x07 }
  | some size =>
    if bitsOf win 29 2 ≠ 0 ∨ size < win % 2 ^ 29 + n then .error { rank := 30, cls := 0x07 }
    else
      let flat := scratchFlat w.wg win
      match (if metered then s.slotOf flat else none) with
      | none => .ok { flats := (List.range n).map (fun i => flat + i) }
      | some slot =>
        if s.allowedFor w.digest slot then .ok { flats := (List.range n).map (fun i => flat + i), slots := [(slot, n)] }
        else .error { rank := 60, cls := 0x10 }

/-- The global address of private byte p of thread t (R174). -/
def privateVa (pb ps t p : Nat) : Nat := pb + t / 32 * 32 * ps + (p / 4 * 32 + t % 32) * 4 + p % 4

/-- The words of a private access: each within one word of the interleave (R175). -/
def reachPrivate (s : State) (w : Who) (pb ps t p n : Nat) (k : AccKind) (fuel : Nat) : Except Denied Reach :=
  match fuel with
  | 0 => .error { rank := 40, cls := 0x04 }
  | f + 1 =>
    let m := Nat.min n (4 - p % 4)
    match reachGlobal s w (privateVa pb ps t p) m k with
    | .error d =>
      -- of all words' errors, the one of the earliest check (R183)
      .error (if n ≤ m then d else
        match reachPrivate s w pb ps t (p + m) (n - m) k f with
        | .error e => if e.rank < d.rank then e else d
        | .ok _ => d)
    | .ok r =>
      if n ≤ m then .ok { r with unit := 4 }
      else
        match reachPrivate s w pb ps t (p + m) (n - m) k f with
        | .error d => .error d
        | .ok q => .ok { flats := r.flats ++ q.flats, vias := r.vias ++ q.vias, slots := r.slots ++ q.slots, unit := 4,
                         mig := r.mig || q.mig }

/-- What bits [55:40] of an address select (R168). -/
inductive Aperture where
  | localAlias | privateMem | onChip | global
deriving DecidableEq, Repr

/-- The aperture of a 56-bit address. -/
def apertureOf (va : Nat) : Aperture :=
  if va / 2 ^ 40 = 0xFFFD then .localAlias else if va / 2 ^ 40 = 0xFFFE then .privateMem
  else if va / 2 ^ 40 = 0xFFFF then .onChip else .global

/-- The window address an alias or on-chip address names; none where the alias sets bits [39:29] (R169, R172). -/
def windowOf (core va : Nat) : Option Nat :=
  match apertureOf va with
  | .localAlias => if bitsOf va 29 11 = 0 then some (core * 2 ^ 31 + va % 2 ^ 29) else none
  | .onChip => some (va % 2 ^ 40)
  | .privateMem => none
  | .global => none

/-- Checks 1 to 6 of R183 and R342 for a lane's access of n bytes: thread t with private base pb, stride ps and limit lim. -/
def reachLane (s : State) (w : Who) (pb ps lim t : Nat) (addr : Word) (n : Nat) (k : AccKind) : Except Denied Reach :=
  let va := addr.toNat
  if 2 ^ 56 ≤ va then .error { rank := 10, cls := 0x04 }
  else if va % n ≠ 0 then .error { rank := 20, cls := 0x03 }
  else
    match apertureOf va with
    | .global => reachGlobal s w va n k
    | .privateMem =>
      if lim < va % 2 ^ 40 + n then .error { rank := 35, cls := 0x06 }
      else
        match k with
        | .rmw _ => .error { rank := 50, cls := 0x05 }
        | .load => reachPrivate s w pb ps t (va % 2 ^ 40) n k 4
        | .store => reachPrivate s w pb ps t (va % 2 ^ 40) n k 4
        | .fetch => .error { rank := 50, cls := 0x05 }
    | .localAlias =>
      match windowOf w.core va with
      | none => .error { rank := 30, cls := 0x07 }
      | some win => reachScratch s w win n true
    | .onChip =>
      if va % 2 ^ 40 / 2 ^ 35 = w.core / 16 then reachScratch s w (va % 2 ^ 40) n true
      else .error { rank := 30, cls := 0x07 }

/-- The walks' effects of an access that is made (R330). -/
def State.touchAll (s : State) (w : Who) (wr : Bool) (vs : List Via) : State :=
  vs.foldl (fun s v => s.touch w.core w.pasid v.va wr v.leaf) s

/-- The load policy of a page (R329). -/
def Via.policy (v : Via) : Nat := bitsOf v.leaf.entry.toNat 9 3

/-- The load policy in force: the instruction's own, an HMOD's, or the page's (R178, R329). Of several pages it is that of the first one that
is cached, where there is one. -/
def policyOf (own : Option Nat) (vs : List Via) : Nat :=
  match own with
  | some p => p
  | none => match vs.filter (fun v => v.policy != 4) ++ vs with
    | [] => 0
    | v :: _ => v.policy

/-- The words of a private access, each with its page; an access of one page is whole (R175, R329). -/
def Reach.words (r : Reach) : List Reach :=
  match r.vias with
  | _ :: _ :: _ => ((List.range r.vias.length).zip r.vias).map (fun e =>
      { r with flats := (r.flats.drop (4 * e.1)).take 4, vias := [e.2], slots := [] })
  | _ => [r]

/-- The lines of an access whose page has another policy than the one that the access goes by (R329). -/
def Reach.apart (own : Option Nat) (r : Reach) : List (Nat × Nat) :=
  (r.words.filter (fun q => policyOf own q.vias != policyOf own r.vias)).flatMap (fun q =>
    q.flats.take 1 |>.map (fun a => (a / 128, policyOf own q.vias)))

end Sys2Proof.Machine
end

