-- ==== Sys2Proof/Machine/Events.lean ====
section
/-! DEFINITION. The registers' held values, events (R394), the management error log, and the error counters (R393). -/

namespace Sys2Proof.Machine

/-! ### Registers and events -/

/-- Writes a BAR0 register's held value. -/
def State.setReg (s : State) (off : Nat) (v : Word) : State := { s with bar := mput 0 s.bar off v }

/-- A counter that saturates at 2^32 - 1 rises by one (R391). -/
def satInc (v : Word) : Word := if 0xFFFFFFFF ≤ v.toNat then 0xFFFFFFFF else v + 1

/-- Raises an event (R394): it takes the next EVSEQ, and is written into the ring, or dropped and counted in EVLOST. body is the
512-bit body of the slot. -/
def State.event (s : State) (type : Nat) (body : Nat) : State :=
  let seq := s.evseq.toNat
  let s1 := { s with evseq := s.evseq + 1 }
  let cap := 2 ^ (s.reg 0x148).toNat
  if s.enabled && decide ((s.reg 0x150).toNat - (s.reg 0x158).toNat < cap) then
    (s1.deviceWrite ((s.reg 0x140).toNat + 128 * ((s.reg 0x150).toNat % cap))
      (bytesLE 128 (type + seq * 256 + body * 2 ^ 512))).setReg 0x150 (s.reg 0x150 + 1)
  else s1.setReg 0x160 (satInc (s.reg 0x160))

/-- The body of an event that is no fault record: address and unit. -/
def eventBody (addr unit : Nat) : Nat := addr % 2 ^ 64 + unit % 2 ^ 64 * 2 ^ 64

/-- An event with an address, for which no unit is named: that is an open value among the numbers that units have (R12). -/
def State.eventAt (s : State) (type addr : Nat) : State :=
  ({ s with free := s.free + 1 } : State).event type (eventBody addr ((Config.freeWord s.free).toNat % 512))

/-- An entry of the management error log: a TYPE 3 event. -/
def State.log (s : State) (addr : Nat) : State := s.eventAt 3 addr

/-- An event for which no address is named: that is an open value too. -/
def State.eventOpen (s : State) (type : Nat) : State :=
  ({ s with free := s.free + 1 } : State).eventAt type (Config.freeWord s.free).toNat

/-- The unit that holds a byte, by its number of R12: the home slice of device memory, the core of a scratchpad, the Bench of a bank.
DESIGN CHOICE: of the units an error concerns, these are the ones a TYPE 4 event names. -/
def unitAt (a : Nat) : Option Nat :=
  if homedHere a then some (homeSlice (a / 512))
  else if scratchFlat 0 0 ≤ a ∧ a < bankFlat 0 0 0 then some ((a - scratchFlat 0 0) % 2 ^ 40 / 2 ^ 31)
  else if bankFlat 0 0 0 ≤ a ∧ a < bankFlat 128 0 0 then some ((a - bankFlat 0 0 0) / bankBytes / 8)
  else none

/-- The address an event names for a byte: of scratch its window address. -/
def eventAddr (a : Nat) : Nat := if scratchFlat 0 0 ≤ a ∧ a < bankFlat 0 0 0 then (a - scratchFlat 0 0) % 2 ^ 40 else a

/-- An event about a byte: its address, and the unit that holds it. -/
def State.eventFrom (s : State) (type a : Nat) : State :=
  match unitAt a with
  | some u => s.event type (eventBody (eventAddr a) u)
  | none => s.eventAt type (eventAddr a)

/-- Counts an error of a domain in ERRCNT (R393); an uncorrected one is also a TYPE 4 event. -/
def State.countError (s : State) (domain : Nat) (uncorrected : Bool) (addr : Nat) : State :=
  let off := 0x2100 + 8 * domain
  let v := (s.reg off).toNat
  let lo := v % 2 ^ 32
  let hi := v / 2 ^ 32
  if uncorrected then
    (s.setReg off (BitVec.ofNat 64 (lo + Nat.min (hi + 1) 0xFFFFFFFF * 2 ^ 32))).eventFrom 4 addr
  else s.setReg off (BitVec.ofNat 64 (Nat.min (lo + 1) 0xFFFFFFFF + hi * 2 ^ 32))

end Sys2Proof.Machine
end

