-- ==== Sys2Proof/Machine/Caches.lean ====
section
/-! DEFINITION. The sizes of the caches and what leaves them (R11, R14, R178, R212, R362). -/

namespace Sys2Proof.Machine

/-- Lines of a core's L1 under its split. -/
def State.l1Lines (s : State) (core : Nat) : Nat := 8 * mgetD s.split core 128
/-- Lines of a cluster cache: 8 MiB. -/
def ccLines : Nat := 65536

/-- Dirty bytes of a line in a cluster cache go home; those of a lost peer are discarded and logged (R212, R362). -/
def State.sendHome (s : State) (cluster line : Nat) : State :=
  if s.lostAt (line * 128) && s.dirtyBytes false cluster line != [] then (s.pushCc cluster line).log (line * 128)
  else s.pushCc cluster line

/-- A cluster cache evicts a line (R212): its dirty bytes go home, under the lock there, and it leaves. -/
def State.evictCc (s : State) (cluster line : Nat) : State :=
  ((s.unlock [line]).sendHome cluster line).discardClean false cluster (fun l => l == line)

/-- The lines that a cache may evict first: those of the lowest replacement priority among those not in use (R178). -/
def victims (ls : List Line) (keep : List Nat) : List Line :=
  let c := ls.filter (fun l => !keep.elem l.idx)
  let low := (c.map (fun l => l.rank)).foldl Nat.min 2
  c.filter (fun l => l.rank == low)

/-- A cache that holds more lines than its size evicts others than those in use, by evict; which ones of the lowest priority is not said, so
they are an open choice. -/
def State.trimBy (evict : State → Nat → State) (s : State) (l1 : Bool) (unit size : Nat) (keep : List Nat) (fuel : Nat) : State :=
  match fuel with
  | 0 => s
  | f + 1 =>
    let ls := victims (s.cache l1 unit) keep
    if (s.cache l1 unit).length ≤ size then s
    else
      match ls[(Config.freeWord s.free).toNat % ls.length]? with
      | none => s
      | some l => State.trimBy evict (evict { s with free := s.free + 1 } l.idx) l1 unit size keep f

/-- A cluster cache stays within its size (R11). -/
def State.trimCc (s : State) (cluster : Nat) (keep : List Nat) : State :=
  if (s.cache false cluster).length ≤ ccLines then s
  else State.trimBy (fun s l => s.evictCc cluster l) s false cluster ccLines keep 64

/-- Dirty bytes of a line leave a core's L1 for its cluster cache, which stays within its size. -/
def State.pushOut (s : State) (core line : Nat) : State := (s.pushL1 core line).trimCc (core / 16) [line]

/-- A cache evicts a line (R212): its dirty bytes go outward, and it leaves. -/
def State.evictLine (s : State) (l1 : Bool) (unit line : Nat) : State :=
  if l1 then (s.pushOut unit line).discardClean true unit (fun l => l == line) else s.evictCc unit line

/-- A core's L1 stays within its size, by evicting at most so many lines (R14). -/
def State.trimL1 (s : State) (core : Nat) (keep : List Nat) (fuel : Nat) : State :=
  if (s.cache true core).length ≤ s.l1Lines core then s
  else State.trimBy (fun s l => s.evictLine true core l) s true core (s.l1Lines core) keep fuel

end Sys2Proof.Machine
end

