-- ==== Sys2Proof/Machine/Ports.lean ====
section
/-! DEFINITION. The two issue ports of a core: what a word is to them, and which words pair in one cycle (R98, R151, R199, R250, R261). -/

namespace Sys2Proof.Machine

/-- The pairing classes of R250. -/
inductive PortClass where
  /-- simple integer, uniform, simple floating-point, branches and the other words that any word pairs with -/
  | a
  /-- FP32 arithmetic -/
  | f
  /-- memory -/
  | m
  /-- multiply, divide, FP64, DOT4 -/
  | x
  /-- special functions and quantisation -/
  | s
  /-- words that issue on the primary port alone -/
  | w
deriving DecidableEq, Repr

/-- MAJ of a word (R35). -/
def majorOf (v : IWord) : Nat := v.toNat / 2 ^ 26
/-- Bits of a word, n of them from lo. -/
def wordField (v : IWord) (lo n : Nat) : Nat := v.toNat / 2 ^ lo % 2 ^ n

/-- The class of a word, by its major and function (R41, R250). -/
def portClass (v : IWord) : PortClass :=
  let fn := wordField v 0 5
  let k := wordField v 0 2
  match majorOf v with
  | 0x01 => if fn = 2 ∨ fn = 3 ∨ fn = 8 ∨ fn = 9 then .x else .a
  | 0x04 => if k = 0 ∨ k = 1 then .x else .a
  | 0x08 => if 3 ≤ fn ∧ fn ≤ 6 then .a else .f
  | 0x09 => if k = 3 then .x else .f
  | 0x0A => if fn = 0 ∨ fn = 1 then .f else .a
  | 0x0B => if k = 0 then .f else .x
  | 0x0C => if fn ≤ 2 then .x else .a
  | 0x0D => if 3 ≤ fn ∧ fn ≤ 6 then .x else .a
  | 0x0F => .s
  | 0x10 => if fn ≤ 2 then .s else .a
  | 0x13 => .m
  | 0x18 => .m | 0x19 => .m | 0x1A => .m | 0x1B => .m | 0x1C => .m
  | 0x20 => if wordField v 21 2 = 2 then .w else .a
  | 0x22 => if fn = 3 then .a else .w
  | 0x23 => if fn = 2 then .a else .w
  | 0x24 => if fn = 0 then .w else .a
  | 0x02 => .a | 0x03 => .a | 0x05 => .a | 0x06 => .a | 0x07 => .a | 0x0E => .a | 0x11 => .a | 0x12 => .a | 0x14 => .a | 0x21 => .a
  | 0x2A => .a | 0x31 => .a | 0x3F => .a
  | _ => .w

/-- Where a word's 7-bit source specifiers stand, by format (R37). -/
def specPlaces (v : IWord) : List Nat :=
  let m := majorOf v
  if m ≤ 0x04 ∨ (0x07 ≤ m ∧ m ≤ 0x11) ∨ m = 0x14 ∨ (0x22 ≤ m ∧ m ≤ 0x26) then [13, 6]
  else if m = 0x05 ∨ m = 0x06 ∨ m = 0x12 ∨ m = 0x13 ∨ m = 0x1A ∨ m = 0x1B then [13]
  else if m = 0x18 ∨ m = 0x19 then (if m = 0x19 then [19] else []) ++ (if wordField v 11 1 = 1 then [] else [12])
  else if m = 0x1C then [15]
  else if m = 0x21 then [18]
  else if m = 0x28 then [17]
  else if m = 0x29 ∨ m = 0x39 then [11]
  else if m = 0x2A ∨ m = 0x31 then [12, 5]
  else if m = 0x30 then (if wordField v 22 4 = 4 ∨ wordField v 22 4 = 5 then [9] else [])
  else if m = 0x34 then [17, 10]
  else if m = 0x35 then [16]
  else if m = 0x3A then [14]
  else []

/-- The uniform registers that a word's blocks and register fields name (R37, R38): first register and how many. -/
def uniformBlock (v : IWord) : Nat × Nat :=
  match majorOf v with
  | 0x26 => (wordField v 2 4, 1)
  | 0x30 => if wordField v 22 4 = 0 then (wordField v 5 5, 1) else if wordField v 22 4 = 6 then (wordField v 5 5, 3) else (0, 0)
  | 0x32 => (wordField v 18 5, if wordField v 23 3 = 2 then 6 else 5)
  | 0x33 => (wordField v 21 5, 2)
  | 0x36 => (wordField v 21 5, 1)
  | _ => (0, 0)

/-- Per-warp state that two words of one warp contend for in a cycle. -/
inductive PortItem where
  | uniform (n : Nat) | handle (n : Nat) | descriptor (n : Nat) | group
deriving DecidableEq, Repr

/-- The tile handle that a MAT word names, by its function (R148): MWL its TB, MMS and MEPI their TA; the others none. -/
def matHandles (v : IWord) : List PortItem :=
  let fn := wordField v 22 4
  if fn = 2 then [.handle (wordField v 14 4)] else if fn = 3 ∨ fn = 6 then [.handle (wordField v 18 4)] else []

/-- What a word reads of that state. DESIGN CHOICE (log entry 66): of the rendezvous words, COLL reads the group registers, whichever it
names, k0 too; REARR, REGROUP, MAT and LOOP, which name none, do not. -/
def portReads (v : IWord) : List PortItem :=
  let specs := (specPlaces v).map (fun p => wordField v p 7)
  let blk := uniformBlock v
  (specs.filter (fun n => decide (0x50 ≤ n ∧ n < 0x70))).map (fun n => .uniform (n - 0x50))
    ++ (List.range blk.2).map (fun j => .uniform (blk.1 + j))
    ++ (match majorOf v with
      | 0x18 => if wordField v 11 1 = 1 then [.descriptor (wordField v 12 4)] else []
      | 0x19 => if wordField v 11 1 = 1 then [.descriptor (wordField v 12 4)] else []
      | 0x24 => if wordField v 0 6 = 2 then [.group] else []
      | 0x25 => [.group]
      | 0x30 => matHandles v
      | 0x33 => [.descriptor (wordField v 17 4), .descriptor (wordField v 13 4)]
      | _ => [])

/-- What a word writes of that state. -/
def portWrites (v : IWord) : List PortItem :=
  match majorOf v with
  | 0x11 => [.uniform (wordField v 20 5)]
  | 0x12 => [.uniform (wordField v 20 5)]
  | 0x13 => [.uniform (wordField v 20 5)]
  | 0x14 => [.uniform (wordField v 20 5)]
  | 0x24 => if wordField v 0 6 = 1 then [.group] else []
  | 0x2A => [.descriptor (wordField v 22 4)]
  | 0x31 => [.handle (wordField v 22 4)]
  | 0x35 => if wordField v 25 1 = 0 then [.uniform (wordField v 8 5)] else []
  | 0x36 => [.uniform (wordField v 21 5 + 1)]
  | 0x3A => [.uniform (wordField v 21 5)]
  | _ => []

/-- Two items are of one kind: at most one word of a pair writes each kind (R98, R151, R199, R261). -/
def PortItem.sameKind : PortItem → PortItem → Bool
  | .uniform _, .uniform _ => true
  | .handle _, .handle _ => true
  | .descriptor _, .descriptor _ => true
  | .group, .group => true
  | _, _ => false

/-- Two words of one warp leave each other's per-warp state alone (R98, R151, R199, R261). -/
def apart (p q : IWord) : Bool :=
  !((portWrites p).any (fun a => (portWrites q).any a.sameKind))
    && !((portWrites p).any (portReads q).elem) && !((portWrites q).any (portReads p).elem)

/-- The second port may issue q beside the primary word p (R250); of one warp, R98 and its like hold too. A hint word issues on the
primary port alone (R46). -/
def pairs (sameWarp : Bool) (p q : IWord) : Bool :=
  let cp := portClass p
  let cq := portClass q
  cq != .w && majorOf q != 0x3F && !(cp == cq && (cq == .m || cq == .x || cq == .s)) && (!sameWarp || apart p q)

end Sys2Proof.Machine
end

