-- ==== Sys2Proof/Machine/Control.lean ====
section
/-! DEFINITION. Warps and lanes: accessors, the code a lane runs and its PC (R31, R295, R297), lane sets and rendezvous (R248,
R259), and the loop unit's levels, back edge and pop (R268 to R278). -/

namespace Sys2Proof.Machine

/-! ### Accessors -/

/-- The warp under a key. -/
def State.warp (s : State) (k : Nat) : Option Warp := mget s.warps k
/-- Replaces a warp. -/
def State.setWarp (s : State) (k : Nat) (w : Warp) : State := { s with warps := mset s.warps k w }
/-- The workgroup under its serial number. -/
def State.wg (s : State) (g : Nat) : Wg := mgetD s.wgs g {}
/-- The node under its key. -/
def State.node (s : State) (n : Nat) : Node := mgetD s.nodes n {}
/-- Changes a workgroup. -/
def State.modWg (s : State) (g : Nat) (f : Wg → Wg) : State := { s with wgs := mmod s.wgs g f }
/-- Changes a node. -/
def State.modNode (s : State) (n : Nat) (f : Node → Node) : State := { s with nodes := mmod s.nodes n f }
/-- Changes a warp. -/
def State.modWarp (s : State) (k : Nat) (f : Warp → Warp) : State := { s with warps := mmod s.warps k f }
/-- A node as one of its workgroups sees it: with its region as it stood at that one's placement (R334). -/
def Node.forWg (n : Node) (g : Wg) : Node :=
  match g.terms with
  | none => n
  | some r => { n with region := r }
/-- The node of a warp, as its workgroup sees it. -/
def State.nodeOf (s : State) (w : Warp) : Node := (s.node (s.wg w.wg).node).forWg (s.wg w.wg)
/-- The region priority a warp runs at (R252). -/
def State.prioOf (s : State) (w : Warp) : Nat := (s.nodeOf w).region.prio

/-- Virtual lane l. -/
def Warp.lane (w : Warp) (l : Nat) : Lane := w.lanes.getD l {}
/-- Changes a virtual lane. -/
def Warp.modLane (w : Warp) (l : Nat) (f : Lane → Lane) : Warp := { w with lanes := setAt w.lanes l f }
/-- Changes the lanes of a list. -/
def Warp.modLanes (w : Warp) (ls : List Nat) (f : Nat → Lane → Lane) : Warp := ls.foldl (fun w l => w.modLane l (f l)) w
/-- The live lanes, rising. -/
def Warp.live (w : Warp) : List Nat := (List.range 32).filter (fun l => (w.lane l).live)
/-- LIVEMASK (R31). -/
def Warp.liveMask (w : Warp) : Mask := maskOf w.live

/-- On whose behalf a warp's accesses are made. -/
def State.who (s : State) (w : Warp) (scope : Nat := 0) : Who :=
  let n := s.nodeOf w
  { core := w.core, pasid := n.region.pasid, wg := w.wg, meter := n.region.meter, digest := n.kernel.digest, scope := scope }

/-! ### Code and PCs (R295, R297, R366) -/

/-- The residual code a node's warps run, when a Jig entry was chosen for it (R296). -/
def State.jigOf (s : State) (w : Warp) : Option JigEntry :=
  match (s.nodeOf w).jig with
  | none => none
  | some id => s.jigCache.find? (fun e => e.id == id && e.special)

/-- The map entry of a residual address (R295). -/
def JigEntry.mapAt (e : JigEntry) (r : Nat) : Option Word :=
  if e.base ≤ r ∧ (r - e.base) % 4 = 0 then e.map[(r - e.base) / 4]? else none

/-- ORIG of a map entry. -/
def origOf (m : Word) : Nat := m.toNat % 2 ^ 31
/-- COPY of a map entry, when COPYV is set. -/
def copyOf (m : Word) : Option Nat := if m.getLsbD 35 then some (bitsOf m.toNat 31 4) else none
/-- LEVEL of a map entry. -/
def levelOf (m : Word) : Nat := bitsOf m.toNat 36 2

/-- The residual words of an original byte offset, with their indices; the first word of an inserted run stands for it. -/
def JigEntry.wordsAt (e : JigEntry) (off : Nat) : List (Nat × Word) :=
  ((List.range e.map.length).zip e.map).filter (fun p => origOf p.2 == off)

/-- The PC the lane fetches at: residual where it runs residual code. -/
def Lane.runPc (l : Lane) : Word := l.rpc.getD l.pc

/-- The copy number of the wrapper copy a lane stands in (R295). -/
def copyAt (e : Option JigEntry) (l : Lane) : Option Nat :=
  match e, l.rpc with
  | some e, some r => (e.mapAt r.toNat).bind copyOf
  | _, _ => none

/-- Loop depth: the number of active levels (R268). -/
def Warp.depth (w : Warp) : Nat := (w.levels.filter (fun v => v.active)).length
/-- Level k. -/
def Warp.level (w : Warp) (k : Nat) : Level := w.levels.getD k {}
/-- A lane participates in level k (R269). -/
def Warp.participates (w : Warp) (k l : Nat) : Bool :=
  (w.level k).active && (w.lane l).live && !(w.level k).exit.getLsbD l

/-- Places a lane at an original PC: at the residual word mapped to it, or in the original code (R297). A PC with several words has
one for each copy of a wrapper, and the lane takes that of its level's INDEX. once: take a word only where the PC has exactly one, as for a
lane that runs on in the original code. -/
def Warp.placeLane (w : Warp) (e : Option JigEntry) (codeVa l : Nat) (pc : Word) (once : Bool) (x : Lane) : Lane :=
  match e with
  | none => { x with pc := pc, rpc := none }
  | some e =>
    if w.handler ∨ pc.toNat < codeVa then { x with pc := pc, rpc := none }
    else
      let ws := e.wordsAt (pc.toNat - codeVa)
      let plain := ws.filter (fun p => (copyOf p.2).isNone)
      let copies := ws.filter (fun p => match copyOf p.2 with
        | none => false
        | some j => w.participates (levelOf p.2) l && (w.level (levelOf p.2)).copies != 0
            && (w.level (levelOf p.2)).index.toNat == j)
      match (if once then (if ws.length = 1 then ws else []) else if copies = [] then plain else copies) with
      | [] => { x with pc := pc, rpc := none }
      | p :: _ => { x with pc := pc, rpc := some (BitVec.ofNat 64 (e.base + 4 * p.1)) }

/-- Places a lane at a residual address. -/
def placeRun (e : JigEntry) (codeVa : Nat) (r : Word) (x : Lane) : Option Lane :=
  match e.mapAt r.toNat with
  | none => none
  | some m => some { x with pc := BitVec.ofNat 64 (codeVa + origOf m), rpc := some r }

/-- Moves a lane to an address of the code it runs: a PC-relative target, the next word, or a loop's START or END + 4. -/
def Warp.runTo (w : Warp) (e : Option JigEntry) (codeVa l : Nat) (a : Word) (x : Lane) : Lane :=
  match x.rpc, e with
  | some _, some j =>
    match placeRun j codeVa a x with
    | some y => y
    | none => { x with pc := x.pc + 4, rpc := none }
  | _, _ => w.placeLane e codeVa l a true x

/-- An address of the code a warp runs, as an original PC. -/
def toOrig (e : Option JigEntry) (codeVa : Nat) (a : Word) : Word :=
  match e with
  | none => a
  | some j => match j.mapAt a.toNat with
    | none => a
    | some m => BitVec.ofNat 64 (codeVa + origOf m)

/-- The address in the code a warp runs for an original PC that software supplies for START or END of a level: what stands there where
that is its original PC, else the first residual word of the PC, else the PC itself (R297). -/
def fromOrig (e : Option JigEntry) (codeVa : Nat) (cur pc : Word) : Word :=
  if toOrig e codeVa cur = pc then cur
  else
    match e with
    | none => pc
    | some j => match (if pc.toNat < codeVa then [] else j.wordsAt (pc.toNat - codeVa)) with
      | [] => pc
      | p :: _ => BitVec.ofNat 64 (j.base + 4 * p.1)

/-- The code a warp runs: its Jig entry (none in handler mode) and the code's address. -/
structure Code where
  jig  : Option JigEntry
  base : Nat
  size : Nat
  /-- the words as assembled -/
  words : List IWord := []
deriving DecidableEq, Repr

/-- The code of a warp. -/
def State.code (s : State) (w : Warp) : Code :=
  { jig := if w.handler then none else s.jigOf w, base := (s.nodeOf w).kernel.codeVa, size := (s.nodeOf w).kernel.codeSize,
    words := (s.nodeOf w).kernel.code }

/-- The original word at a PC. -/
def Code.wordAt (c : Code) (pc : Word) : IWord := c.words.getD ((pc.toNat - c.base) / 4) 0

/-- The original PC of the first word of the hint group a residual word stands for, where the Jig has dropped the group's hint words (R48,
R286, R291). -/
def Code.groupStart (c : Code) (pc : Word) (fuel : Nat) : Word :=
  match fuel, c.jig with
  | f + 1, some j =>
    if c.base < pc.toNat ∧ majorOf (c.wordAt (pc - 4)) = 0x3F ∧ j.wordsAt (pc.toNat - 4 - c.base) = [] then c.groupStart (pc - 4) f else pc
  | _, _ => pc

/-- Fetch at an original PC for a warp: the word, or the class of the fault R366 gives. -/
def State.fetchAt (s : State) (w : Warp) (pc : Word) (handlerBound : Bool) : Except Nat IWord :=
  if 2 ^ 56 ≤ pc.toNat ∨ pc.toNat % 4 ≠ 0 then .error 0x04
  else if apertureOf pc.toNat ≠ .global then .error 0x05
  else
    match reachGlobal s (s.who w) pc.toNat 4 .fetch with
    | .error d => .error d.cls
    | .ok r =>
      let c := s.code w
      if !handlerBound ∧ !(c.base ≤ pc.toNat ∧ pc.toNat < c.base + c.size) then .error 0x05
      else .ok (BitVec.ofNat 32 (natLE (r.flats.map (fun a => s.view w.core 2 a))))

/-- The effects of the walk of a fetch (R330). -/
def State.touchFetch (s : State) (w : Warp) (pc : Word) : State :=
  match reachGlobal s (s.who w) pc.toNat 4 .fetch with
  | .error _ => s
  | .ok r => s.touchAll (s.who w) false r.vias

/-- The word a lane of a warp stands at: from the arena for residual code (R295), else fetched (R366). -/
def State.fetchLane (s : State) (w : Warp) (x : Lane) : Except Nat IWord :=
  match x.rpc with
  | some r => if r.toNat < deviceBytes then .ok (BitVec.ofNat 32 (s.num r.toNat 4)) else .error 0x05
  | none => s.fetchAt w x.pc w.handler

/-! ### Lane sets (R248) and rendezvous (R259) -/

/-- Two lanes stand at one place with one hint state. -/
def sameSet (a b : Lane) : Bool := a.pc == b.pc && a.rpc == b.rpc && a.hint == b.hint

/-- The value HIMM words assemble, with the low bits of an IMM or OFF field (R49). -/
def himmValue (h : List (BitVec 24)) (low : Option (BitVec 10)) : Word :=
  match h, low with
  | [], none => 0
  | [], some l => l.signExtend 64
  | [a], none => a.signExtend 64
  | [a], some l => (a ++ l).signExtend 64
  | a :: b :: _, none => (a ++ b).signExtend 64
  | a :: b :: _, some l => (a ++ b ++ l).signExtend 64

/-- The hint state that lanes parked at one rendezvous have to share (R410): the assembled HIMM value or none, the HSCHED payload or none,
the HMOD payload or none. No rendezvous instruction has an IMM or OFF field. HIMM words that the Jig put there are none of the program's
(R286). -/
def hintState (h : Option Hint) : Option Word × Option (BitVec 6) × Option (BitVec 9) :=
  match h with
  | none => (none, none, none)
  | some h => (if h.himm = [] ∨ h.ins then none else some (himmValue h.himm none), h.hsched, h.hmod)

/-- The size of the sub-groups of kj (R25); a LOOP's is the warp. -/
def Warp.groupSize (w : Warp) (j : Nat) : Nat := if j = 1 then w.k1 else if j = 2 then w.k2 else if j = 3 then w.k3 else 32

/-- An original PC lies in the body of level k (R269). -/
def Warp.inBody (w : Warp) (k : Nat) (pc : Word) : Bool :=
  decide ((w.level k).ostart.toNat ≤ pc.toNat ∧ pc.toNat ≤ (w.level k).olast.toNat)

/-- A lane is live for a rendezvous at an original PC (R259): it has not exited, nor left through LBRK a level that is active and encloses
that PC. -/
def Warp.counts (w : Warp) (pc : Word) (l : Nat) : Bool :=
  (w.lane l).live && (List.range 4).all (fun m => !(w.level m).active || !(w.level m).gone.getLsbD l || !w.inBody m pc)

/-- The lanes that a rendezvous of lane l over kj needs: itself, and the sub-group's lanes that are live for it (R259); for a LOOP the participants of
the innermost active level, or every live lane at depth 0 (R270). -/
def Warp.subgroup (w : Warp) (j l : Nat) : List Nat :=
  let g := w.groupSize j
  if j = 4 then
    (match w.depth with
     | 0 => w.live
     | k + 1 => (List.range 32).filter (fun m => w.participates k m))
  else (List.range 32).filter (fun m => m / g == l / g && (w.lane m).live && (m == l || w.counts (w.lane l).pc m))

/-- The lane is parked at a rendezvous instruction, or at a back edge, which counts as one (R259, R272). -/
def Lane.atRendezvous (x : Lane) : Bool :=
  match x.park with
  | .rendezvous _ => true
  | .backEdge _ => true
  | _ => false

/-- The original PC at which R260 sees a parked lane: its own, or END of its level for a back edge (R272). -/
def Warp.rendezvousAt (w : Warp) (l : Nat) : Nat :=
  match (w.lane l).park with
  | .backEdge k => (w.level k).olast.toNat
  | _ => (w.lane l).pc.toNat

/-- The copy numbers that some lanes stand in are one: lanes of the original code have none (R297). -/
def Warp.oneCopy (w : Warp) (c : Code) (ls : List Nat) : Bool :=
  match ls.filterMap (fun m => copyAt c.jig (w.lane m)) with
  | [] => true
  | n :: r => r.all (fun m => m == n)

/-- The rendezvous of lane l's sub-group is complete: every lane that counts is parked there with one hint state (R259, R410). -/
def Warp.complete (w : Warp) (c : Code) (l : Nat) : Bool :=
  match (w.lane l).park with
  | .rendezvous j =>
    (w.subgroup j l).all (fun m => (w.lane m).park == .rendezvous j && (w.lane m).pc == (w.lane l).pc
      && hintState (w.lane m).hint == hintState (w.lane l).hint) && w.oneCopy c (w.subgroup j l)
  | _ => false

/-- The rendezvous of lane l's sub-group cannot complete: every lane that counts is parked at a rendezvous, and they differ (R260). DESIGN CHOICE (log entry 66): so it is too where some of them wait at a back edge and the others are parked at a rendezvous
instruction that is the END word itself: their PCs agree, but the instruction can never issue. -/
def Warp.mismatched (w : Warp) (c : Code) (l : Nat) : Bool :=
  match (w.lane l).park with
  | .rendezvous j => (w.subgroup j l).all (fun m => (w.lane m).atRendezvous) && !w.complete c l
  | _ => false

/-! ### The loop unit (R268 to R278) -/

/-- All four levels, inactive. -/
def noLevels : List Level := [{}, {}, {}, {}]

/-- Sends a lane to a place that a LOOP or its level names: the address a of the residual code where res says that it issued there and the
lane runs that code, else the original PC o (R271, R272, R297). A place past the residual code is the original PC. -/
def Warp.goTo (w : Warp) (c : Code) (l : Nat) (res : Bool) (a o : Word) (x : Lane) : Lane :=
  match (if res && x.rpc.isSome then c.jig.bind (fun j => placeRun j c.base a x) else none) with
  | some y => y
  | none => w.placeLane c.jig c.base l o x.rpc.isNone x

/-- A lane has completed the word at END of level k: its BACK bit is set, its PC becomes START, and it waits there (R272). -/
def Warp.reachEnd (w : Warp) (c : Code) (k l : Nat) : Warp :=
  let v := w.level k
  let w1 := { w with levels := setAt w.levels k (fun v => { v with back := v.back ||| (1#32 <<< l) }) }
  w1.modLane l (fun x => { w1.goTo c l v.res (v.start.setWidth 64) (v.ostart.setWidth 64) x with park := .backEdge k })

/-- The lane stands in the body of level k (R269). -/
def Warp.inside (w : Warp) (k l : Nat) : Bool := w.inBody k (w.lane l).pc

/-- The word a lane stands at is END of level k in the code the lane runs: where the LOOP issued in the other code, the last word that
comes of the body (R272, R297). -/
def Warp.atEnd (w : Warp) (c : Code) (k : Nat) (x : Lane) : Bool :=
  let v := w.level k
  match x.rpc, c.jig with
  | some r, some j =>
    if v.res then r == v.last.setWidth 64
    else w.inBody k x.pc && (match j.mapAt (r.toNat + 4) with
      | none => true
      | some m => !w.inBody k (BitVec.ofNat 64 (c.base + origOf m)))
  | _, _ => x.pc == v.olast.setWidth 64

/-- A lane leaves to END + 4 of level k as a fall-through does: where that word is also the END of the next level out, it has
completed that level's END word (R273). -/
def Warp.leaveTo (w : Warp) (c : Code) (k l : Nat) : Warp :=
  let v := w.level k
  let out := w.modLane l (fun x =>
    { w.goTo c l v.res (v.last.setWidth 64 + 4) (v.olast.setWidth 64 + 4) x with park := .no })
  match k with
  | 0 => out
  | j + 1 => if (w.level j).olast = v.olast ∧ w.participates j l then w.reachEnd c j l else out

/-- Level k pops, and every level above it (R278): the waiting lanes go to END + 4. -/
def Warp.pop (w : Warp) (c : Code) (k : Nat) : Warp :=
  let waits := (List.range 32).filter (fun l => (w.lane l).live && (match (w.lane l).park with
    | .left m => decide (k ≤ m)
    | .backEdge m => decide (k ≤ m)
    | _ => false))
  let w1 := waits.foldl (fun w l => w.leaveTo c k l) w
  { w1 with levels := (List.range 4).map (fun i => if k ≤ i then {} else w1.level i) }

/-- The back edge of level k when every participant has completed END (R272). DESIGN CHOICE (log entry 66): a lane that waits there issues at
the START it was given when it completed END, its PCV; a START or PCV that a handler has changed meanwhile moves no lane by the other. -/
def Warp.fire (w : Warp) (c : Code) (k : Nat) : Warp :=
  let v := w.level k
  let idx := if v.copies = 0 then v.index else BitVec.ofNat 33 (v.copies - 1)
  let j := idx + 1
  let more := decide (j.toNat < v.count.toNat)
  let sm := ((v.sm <<< 1) ||| (if more then 1 else 0)) &&& BitVec.ofNat 8 (2 ^ (v.st.toNat + 1) - 1)
  if sm = 0 then w.pop c k
  else
    let back := (List.range 32).filter (fun l => v.back.getLsbD l)
    let w1 := { w with levels := setAt w.levels k (fun v =>
      { v with index := j, sm := sm, back := 0, rrb := if v.rt then v.rrb - 1 else v.rrb }) }
    w1.modLanes back (fun _ x => if x.park = .backEdge k then { x with park := .no } else x)

/-- Fires back edges and pops levels as long as the innermost level calls for it (R272, R273, R278). -/
def Warp.settleLoops (w : Warp) (c : Code) (fuel : Nat) : Warp :=
  match fuel with
  | 0 => w
  | f + 1 =>
    match w.depth with
    | 0 => w
    | k + 1 =>
      let ps := (List.range 32).filter (fun l => w.participates k l)
      if ps = [] then (w.pop c k).settleLoops c f
      else if ps.all (fun l => (w.level k).back.getLsbD l) then
        (let w1 := w.fire c k
         if w1.depth = k + 1 then w1 else w1.settleLoops c f)
      else w

/-- Where an instruction sends a lane. -/
inductive Move where
  /-- the next word -/
  | fall
  /-- an address of the code the lane runs -/
  | run (a : Word)
  /-- an original PC (R297) -/
  | orig (a : Word)
  /-- a place that a LOOP names: residual address and original PC -/
  | place (res : Bool) (a o : Word)
deriving DecidableEq, Repr

/-- One lane of the issuing set moves on; its hint state goes, its age restarts, and a fall-through at END waits for the back
edge (R47, R251, R272). -/
def Warp.moveLane (w : Warp) (c : Code) (l : Nat) (m : Move) : Warp :=
  let x := w.lane l
  let w0 := w.modLane l (fun x => { x with hint := none, age := 0, park := .no, blocked := 0 })
  match m with
  | .run a => w0.modLane l (fun x => w0.runTo c.jig c.base l a x)
  | .orig a => w0.modLane l (fun x => w0.placeLane c.jig c.base l a false x)
  | .place res a o => w0.modLane l (fun x => w0.goTo c l res a o x)
  | .fall =>
    match w0.depth with
    | 0 => w0.modLane l (fun x => w0.runTo c.jig c.base l (x.runPc + 4) x)
    | k + 1 =>
      if w0.participates k l ∧ w0.atEnd c k x then w0.reachEnd c k l
      else w0.modLane l (fun x => w0.runTo c.jig c.base l (x.runPc + 4) x)

/-- The lanes of the issuing set move on, and the loop unit acts. -/
def Warp.moveLanes (w : Warp) (c : Code) (ls : List Nat) (m : Nat → Move) : Warp :=
  (ls.foldl (fun w l => w.moveLane c l (m l)) w).settleLoops c 8

end Sys2Proof.Machine
end

