-- ==== Sys2Proof/Machine/Regions.lean ====
section
/-! DEFINITION. Regions: the RCBs and their effective values (R307, R334, R335, R341), a node as its next placement sees it, and the
pool's order and heads (R309, R313). -/

namespace Sys2Proof.Machine

/-! ### Regions (R307, R334, R335) -/

/-- A field of an RCB in memory: bits lo to lo + n - 1 (R334). -/
def State.rcb (s : State) (a lo n : Nat) : Nat := bitsOf (s.num a 128) lo n

/-- The RCB and its ancestors, the region first; none where the chain is deeper than 8, returns to itself or names no memory. -/
def State.rcbChain (s : State) (a fuel : Nat) : Option (List Nat) :=
  match fuel with
  | 0 => none
  | f + 1 =>
    if a % 128 ≠ 0 ∨ !physOk a then none
    else if s.rcb a 0 56 = 0 then some [a]
    else (s.rcbChain (s.rcb a 0 56) f).map (fun r => a :: r)

/-- An RCB's reserved bits are 0 and its fields lie in their ranges (R334). -/
def State.rcbOk (s : State) (a : Nat) : Bool :=
  let zero := fun (lo n : Nat) => s.rcb a lo n == 0
  zero 856 168 && zero 632 8 && zero 570 6 && zero 504 8 && zero 400 48 && zero 380 4 && zero 312 8 && zero 168 8 && zero 120 8
    && zero 106 6 && zero 100 4 && zero 84 12 && zero 56 8 && decide (s.rcb a 568 2 ≤ 1) && decide (s.rcb a 104 2 ≤ 2)
    && decide (s.rcb a 96 4 ≤ 11) && (decide (s.rcb a 160 8 ≤ 128) || s.rcb a 160 8 == 0xFF) && s.rcb a 384 16 != 0
    && zero 320 7 && zero 576 12 && zero 672 21 && decide (s.rcb a 672 56 < deviceBytes) && physOk (s.rcb a 320 56) && physOk (s.rcb a 448 56)

/-- The RCB on a chain whose own value of an overridable field is used: the first whose OVR bit is set, or the root (R335). -/
def State.supplier (s : State) (chain : List Nat) (bit : Nat) : Nat :=
  match chain with
  | [] => 0
  | [a] => a
  | a :: r => if bitsOf (s.rcb a 112 8) bit 1 = 1 then a else s.supplier r bit

/-- No own PRIO on the chain exceeds its parent's effective PRIO (R307). -/
def State.prioOk (s : State) (chain : List Nat) : Bool :=
  match chain with
  | [] => true
  | [_] => true
  | a :: r => (bitsOf (s.rcb a 112 8) 1 1 == 0 || decide (s.rcb a 96 4 ≤ s.rcb (s.supplier r 1) 96 4)) && s.prioOk r

/-- The binding list at a physical address (R341): TAG to SLOT; none where it is malformed or names a slot that takes no new node. -/
def State.bindings (s : State) (a : Nat) : Option (SMap Nat) :=
  let n := s.num a 8
  if a = 0 then some []
  else if !physOk a ∨ n = 0 ∨ 1023 < n then none
  else
    let es := (List.range n).map (fun i => s.num (a + 8 * (i + 1)) 8)
    let ok := fun (e : Nat) => bitsOf e 0 10 != 0 && bitsOf e 10 6 == 0 && bitsOf e 26 38 == 0
      && (match mget s.meters (bitsOf e 16 10) with
          | none => false
          | some m => !m.sealing)
    if es.all ok ∧ (es.map (fun e => bitsOf e 0 10)).Nodup then
      some (es.foldl (fun m e => mset m (bitsOf e 0 10) (bitsOf e 16 10)) [])
    else none

/-- The effective values of a region, its chain given (R307, R335). -/
def State.regionOf (s : State) (chain : List Nat) : Region :=
  let of := fun (bit lo n : Nat) => s.rcb (s.supplier chain bit) lo n
  { rcb := chain.headD 0, chain := chain, pasid := of 0 64 20, prio := of 1 96 4, fdp := of 2 104 2,
    handler := BitVec.ofNat 64 (of 3 256 56), pbound := of 4 224 32,
    cmask := chain.foldl (fun m a => m &&& BitVec.ofNat 32 (s.rcb a 128 32)) (BitVec.allOnes 32),
    ringOf := s.supplier chain 5, arenaOf := s.supplier chain 7, ring := of 5 320 56, ringSize := of 5 376 4, dqcap := of 5 384 16,
    meterAt := of 6 448 56, meter := (s.bindings (of 6 448 56)).getD [] }

/-! ### The pool (R309, R313) -/

/-- A node at its next placement: what the host has written to its region's RCBs since its admission counts there (R334). DEDUCED (log
entry 36): RCBs that no admission would take change nothing, and a binding list is read once, unless METER names another one. -/
def State.live (s : State) (n : Node) : Node :=
  match (if n.region.chain = [] then none else s.rcbChain n.region.rcb 8) with
  | none => n
  | some chain =>
    if !(chain.all s.rcbOk && s.prioOk chain) then n
    else
      let r := s.regionOf chain
      let meter := if r.meterAt = n.region.meterAt then n.region.meter else (s.bindings r.meterAt).getD n.region.meter
      { n with region := { r with meter := meter } }

/-- The saved workgroups of a node, in the order of their %wg. -/
def State.savedOf (s : State) (k : Nat) : List Nat :=
  (sortBy (fun (e : Nat × Wg) => e.2.index) (s.wgs.filter (fun e => e.2.node == k && e.2.status == .saved))).map Prod.fst

/-- The pool in order: effective priority, highest first, then admission (R309). A node with a saved workgroup is in it (R386). -/
def State.pool (s : State) : List (Nat × Node) :=
  sortBy (fun e => (16 - e.2.region.prio) * 2 ^ 128 + e.2.order)
    ((s.nodes.filter (fun e => e.2.status == .pooled || s.savedOf e.1 != [])).map (fun e => (e.1, s.live e.2)))

/-- A node stands at the head of its priority in a pool. -/
def atHead (pool : List (Nat × Node)) (k : Nat) : Bool :=
  match pool.find? (fun e => e.1 == k) with
  | none => false
  | some n => (pool.find? (fun e => e.2.region.prio == n.2.region.prio)) == some n

/-- The nodes that stand at the head of their priority note since when; others do not stand there (R313). -/
def State.heads (s : State) : State :=
  let pool := s.pool
  { s with nodes := s.nodes.map (fun (e : Nat × Node) =>
      (e.1, if atHead pool e.1 then { e.2 with head := some (e.2.head.getD s.cycle) }
            else { e.2 with head := none, blocking := false })) }

end Sys2Proof.Machine
end

