-- ==== Sys2Proof/Machine/Ends.lean ====
section
/-! DEFINITION. What ends and what it gives back: timelines (R231, R232), bank claims (R134, R154, R155),
workgroup resources (R336, R337), and the fault-domain kills (R372). -/

namespace Sys2Proof.Machine

/-! ### Timelines (R231, R232) -/

/-- The completed counter moves over the numbers that are done. -/
def Timeline.advance (t : Timeline) (fuel : Nat) : Timeline :=
  match fuel with
  | 0 => t
  | f + 1 =>
    if t.done.elem (t.completed + 1) then
      Timeline.advance { t with completed := t.completed + 1, done := t.done.filter (fun n => n != t.completed + 1) } f
    else t

/-- An operation of the context completes, faulted or not. -/
def Timeline.complete (t : Timeline) (n : Nat) (faulted : Bool) : Timeline :=
  let t1 := { t with done := insertNat n t.done,
                     faultnum := if faulted && (t.faultnum == 0 || decide (n < t.faultnum)) then n else t.faultnum }
  t1.advance (t1.done.length + 1)

/-- The timeline of an engine context: 0 copy, 1 matrix, 2 chain. -/
def Wg.tl (g : Wg) (ec : Nat) : Timeline := if ec = 0 then g.copyTl else if ec = 1 then g.matTl else g.chainTl

/-- Changes the timeline of a context. -/
def Wg.modTl (g : Wg) (ec : Nat) (f : Timeline → Timeline) : Wg :=
  if ec = 0 then { g with copyTl := f g.copyTl } else if ec = 1 then { g with matTl := f g.matTl }
  else { g with chainTl := f g.chainTl }

/-- A numbered operation completes on its workgroup's timeline. -/
def State.completeTl (s : State) (g ec n : Nat) (faulted : Bool) : State :=
  s.modWg g (fun g => g.modTl ec (fun t => t.complete n faulted))

/-! ### Claims (R134, R154, R155) -/

/-- A Bench. -/
def State.bench (s : State) (b : Nat) : Bench := mgetD s.benches b {}
/-- Replaces a Bench. -/
def State.setBench (s : State) (b : Nat) (x : Bench) : State := { s with benches := mput {} s.benches b x }

/-- Member j of a gang that starts at a Bench: it wraps within the cluster (R12, R141). -/
def memberOf (bench j : Nat) : Nat := bench / 4 * 4 + (bench % 4 + j) % 4

/-- The relative indices a warp owns. -/
def Claim.kept (c : Claim) : List Nat := (List.range c.count).filter (fun j => !c.gone.getLsbD j)

/-- Array and bank operations of a warp into a bank of a Bench that are not complete. -/
def State.opsInto (s : State) (wk bench bank : Nat) : List Nat :=
  (s.arrays.filter (fun o => o.warp == wk && (o.a.isSome || o.imm.isSome)
    && ((o.members.zip o.banks).any (fun p => p.1 == bench && p.2 == bank)))).map (fun o => o.id)

/-- A bank returns to the tail of its ring, once the operations into it have completed. -/
def State.returnBank (s : State) (wk bench bank : Nat) : State :=
  let b := s.bench bench
  match s.opsInto wk bench bank with
  | [] => s.setBench bench { b with ring := b.ring ++ [bank] }
  | ids => s.setBench bench { b with pending := b.pending ++ [(bank, ids)] }

/-- The claim of a warp ends: owned banks return in ascending relative index on every member (R134, R154); of members that a resume has
not given their banks yet, there are none. -/
def State.endClaim (s : State) (wk : Nat) : State :=
  match s.warp wk with
  | none => s
  | some w =>
    let c := w.claim
    let s1 := ((List.range c.gang).flatMap (fun m => (List.range c.count).map (fun j => (m, j)))).foldl
      (fun s p =>
        if c.gone.getLsbD p.2 || w.reclaim.any (fun e => e.1 == p.1) then s
        else s.returnBank wk (memberOf c.bench p.1) ((c.banks.getD p.1 []).getD p.2 0)) s
    let s2 := if w.reclaim = [] then s1 else
      { s1 with benches := s1.benches.map (fun (e : Nat × Bench) => (e.1, { e.2 with waiting := e.2.waiting.filter (fun k => k != wk) })) }
    s2.modWarp wk (fun w => { w with claim := {}, wants := none, reclaim := [] })

/-- The gang claim at the head of a cluster's queue joins the claim queue of every member that has neither granted it nor holds it
(R153). -/
def State.joinGang (s : State) (cluster : Nat) : State :=
  match s.gangClaims.find? (fun e => e.1 == cluster) with
  | none => s
  | some e =>
    match s.warp e.2 with
    | none => s
    | some w =>
      (List.range w.claim.gang).foldl (fun s j =>
        let b := memberOf w.claim.bench j
        if w.claim.banks.getD j [] != [] || (s.bench b).waiting.elem e.2 then s
        else s.setBench b { s.bench b with waiting := (s.bench b).waiting ++ [e.2] }) s

/-- A MACQ that waits is withdrawn: from its queues, and banks that some members have granted already return (R134, R142, R383). -/
def State.withdrawClaim (s : State) (wk : Nat) : State :=
  match s.warp wk with
  | none => s
  | some w =>
    if w.wants.isNone then s
    else
      let s1 := { s with
        benches := s.benches.map (fun (e : Nat × Bench) => (e.1, { e.2 with waiting := e.2.waiting.filter (fun k => k != wk) })),
        gangClaims := s.gangClaims.filter (fun e => e.2 != wk) }
      let s2 := ((List.range w.claim.gang).flatMap (fun m => (w.claim.banks.getD m []).map (fun b => (m, b)))).foldl
        (fun s p => s.returnBank wk (memberOf w.claim.bench p.1) p.2) s1
      (s2.modWarp wk (fun w => { w with claim := {}, wants := none })).joinGang (w.core / 16)

/-- Array operations are over: drains and returning banks that waited for them go on. -/
def State.arraysGone (s : State) (ids : List Nat) : State :=
  let keep := fun (l : List Nat) => l.filter (fun i => !ids.elem i)
  { s with
    drains := s.drains.map (fun (d : DrainOp) => { d with after := keep d.after }),
    benches := s.benches.map (fun (e : Nat × Bench) =>
      let p := e.2.pending.map (fun q => (q.1, keep q.2))
      (e.1, { e.2 with pending := p.filter (fun q => q.2 != []),
                       ring := e.2.ring ++ (p.filter (fun q => q.2 == [])).map Prod.fst })) }

/-- Writes an element of a bank. -/
def State.putElement (s : State) (e v : Nat) : State := ({ s with mem := pokeList s.mem e (bytesLE 4 v) }).cleanRange e 4

/-- What a bank operation that waited does at its turn: MZERO or MWR on every member; a bank that has been given up meanwhile, whose number
is past the last, takes nothing (R157, R160, R161). -/
def ArrayOp.bankWrites (o : ArrayOp) (s : State) : State :=
  let at' := fun (j i : Nat) => bankFlat (o.members.getD j 0) (o.banks.getD j 8) (4 * i)
  let there := fun (j : Nat) => decide (o.banks.getD j 8 < 8)
  if o.z then (List.range o.members.length).foldl (fun s j => if there j then s.clearRange (at' j 0) bankBytes else s) s
  else (o.imm.getD []).foldl (fun s w => if there w.1 then s.putElement (at' w.1 w.2.1) w.2.2 else s) s

/-- A bank operation's turn has come: its bank is there, and no earlier operation of its warp into that bank is left (R138, R165). -/
def State.hasTurn (s : State) (o : ArrayOp) : Bool :=
  o.imm.isSome && (match s.warp o.warp with | none => true | some w => w.reclaim == [])
    && (o.members.zip o.banks).all (fun p => (s.opsInto o.warp p.1 p.2).all (fun i => decide (o.id ≤ i)))

/-- The bank operations whose turn has come take effect, in order. -/
def State.bankTurns (s : State) : State :=
  (s.arrays.filter (fun o => o.imm.isSome)).foldl (fun s o =>
    if s.hasTurn o then ({ o.bankWrites s with arrays := s.arrays.filter (fun p => p.id != o.id) } : State).arraysGone [o.id] else s) s

/-- Array operations of a warp that no Bench has selected are discarded: each counts as completed, without effect (R155). Bank operations
behind them have their turn then; those of a warp whose banks a resume has not taken again have nothing to act on. -/
def State.discardArrays (s : State) (wk : Nat) : State :=
  let out := fun (o : ArrayOp) => o.warp == wk && o.chosen == []
    && (o.imm.isNone || (match s.warp wk with | none => false | some w => w.reclaim != []))
  let gone := s.arrays.filter out
  let s1 := { s with arrays := s.arrays.filter (fun o => !out o) }
  ((gone.foldl (fun s o => if o.imm.isNone then s.completeTl o.wg 1 o.tlnum false else s) s1).arraysGone (gone.map (fun o => o.id))).bankTurns

/-! ### Region budgets and arenas (R336, R337) -/

/-- Adds to a counter in memory, little-endian in n bytes; the device's write. -/
def State.addAt (s : State) (a n : Nat) (d : Int) : State :=
  s.deviceWrite a (bytesLE n (((s.num a n : Int) + d).toNat))

/-- The own Benches of a list of cores (R12). -/
def benchesOf (cores : List Nat) : List Nat := (cores.map (fun c => c / 4)).eraseDups

/-- A workgroup that is on its cores: neither saved nor given back. DESIGN CHOICE: one that has ended counts as resident, for the split of
R14 and the budgets of R336, until its posted and engine operations are over and it gives back what it holds. -/
def Wg.present (g : Wg) : Bool := g.status != .saved && g.cores != []

/-- Issue of a workgroup has stopped for a save or a flush (R383). -/
def Wg.quiescing (g : Wg) : Bool := g.status == .saving || g.status == .flushing

/-- Benches used by the other resident workgroups of a region. -/
def State.benchesUsed (s : State) (rcb : Nat) (but : Nat) : List Nat :=
  (s.wgs.filter (fun e => e.1 != but && e.2.present && (s.node e.2.node).region.rcb == rcb)).flatMap
    (fun e => benchesOf (mkeys e.2.cores))

/-- Scratch pages of a workgroup. -/
def Wg.pages (g : Wg) : Nat := (g.cores.map (fun c => c.2 / 4096)).sum

/-- Charges or releases a workgroup's budgets along its region's chain (R336); sign is 1 or -1; saved pages stay counted. -/
def State.budget (s : State) (k : Nat) (sign : Int) (pages : Bool) : State :=
  let g := s.wg k
  let r := ((s.node g.node).forWg g).region
  let nb := ((benchesOf (mkeys g.cores)).filter (fun b => !((s.benchesUsed r.rcb k).elem b))).length
  r.chain.foldl (fun s a =>
    let s1 := (s.addAt (a + 68) 2 sign).addAt (a + 70) 1 (sign * nb)
    if pages then s1.addAt (a + 64) 4 (sign * g.pages) else s1) s

/-- The RCB whose arenas a workgroup uses. -/
def State.arenaFor (s : State) (g : Wg) : Nat := ((s.node g.node).forWg g).region.arenaOf

/-- Returns the pages an owner holds of an arena; PAUSED or SAUSED counts them (R337). Requests that wait for a way are decided again where
pages return to their save arena (R381). -/
def State.freePages (s : State) (owner key : Nat) : State :=
  let mine := s.arenas.filter (fun a => a.2.2.2.2.1 == owner && a.2.2.2.2.2 == key)
  let s1 : State := { s with
    arenas := s.arenas.filter (fun a => !(a.2.2.2.2.1 == owner && a.2.2.2.2.2 == key)),
    wgs := if mine.any (fun a => a.2.1) then s.wgs.map (fun (e : Nat × Wg) => if e.2.request.isSome && mine.any (fun a => a.2.1 && a.1 == s.arenaFor e.2)
        then (e.1, { e.2 with retry := true }) else e)
      else s.wgs }
  mine.foldl (fun s a => s.addAt (a.1 + (if a.2.1 then 99 else 95)) 4 (-(a.2.2.2.1 : Int))) s1

/-- Takes pages of an arena: kind false private, true save (R337). -/
def State.takePages (s : State) (rcb : Nat) (save : Bool) (first n owner key : Nat) : State :=
  ({ s with arenas := s.arenas ++ [(rcb, save, first, n, owner, key)] }).addAt (rcb + (if save then 99 else 95)) 4 n

/-- The arena of a kind of an RCB: base in pages, size in pages. -/
def State.arenaBounds (s : State) (rcb : Nat) (save : Bool) : Nat × Nat :=
  if save then (s.rcb rcb 672 56 / 4096, s.rcb rcb 728 32) else (s.rcb rcb 576 56 / 4096, s.rcb rcb 640 32)

/-- A run of pages may be allocated: inside its arena and free (R337). -/
def State.pagesFree (s : State) (rcb : Nat) (save : Bool) (first n : Nat) : Bool :=
  let b := s.arenaBounds rcb save
  decide (b.1 ≤ first ∧ first + n ≤ b.1 + b.2)
    && s.arenas.all (fun a => !(a.1 == rcb && a.2.1 == save) || decide (a.2.2.1 + a.2.2.2.1 ≤ first ∨ first + n ≤ a.2.2.1))

/-- Some run of n pages is free: it would start at the arena's base or right after an allocation. -/
def State.someRun (s : State) (rcb : Nat) (save : Bool) (n : Nat) : Bool :=
  ((s.arenaBounds rcb save).1 :: (s.arenas.map (fun a => a.2.2.1 + a.2.2.2.1))).any (fun f => s.pagesFree rcb save f n)

/-! ### The end of a workgroup -/

/-- Keys of the warps of a workgroup. -/
def State.warpsOf (s : State) (g : Nat) : List Nat := (s.warps.filter (fun e => e.2.wg == g)).map Prod.fst

/-- Operations of a workgroup that are still under way: memory, array, drain, copy, chain. -/
def State.busy (s : State) (g : Nat) : Bool :=
  s.ops.any (fun o => match s.warp o.warp with | none => false | some w => w.wg == g)
    || s.arrays.any (fun o => o.wg == g) || s.drains.any (fun o => o.wg == g)
    || s.copies.any (fun o => o.wg == g) || s.chains.any (fun o => o.wg == g)

/-- The scratch pages of a workgroup are freed: their slot tags clear (R343); what they hold stays until a workgroup starts (R173). -/
def State.freeTags (s : State) (g : Nat) : State :=
  { s with pageSlot := s.pageSlot.filter (fun e =>
      decide (e.1 < scratchFlat g 0 / 4096 ∨ scratchFlat (g + 1) 0 / 4096 ≤ e.1)) }

/-- The scratch pages of a workgroup are freed, and read 0 from then on (R173, R343). -/
def State.freeScratch (s : State) (g : Nat) : State := (s.clearRange (scratchFlat g 0) 1099511627776).freeTags g

/-- The workgroups that have ended and given back what they held leave nothing behind once another one starts (R173). -/
def State.sweepEnded (s : State) : State :=
  let gone := fun (g : Nat) => (s.wg g).status == .ended && (s.wg g).cores == []
  let s1 := ((s.warps.filter (fun e => gone e.2.wg)).map (fun e => e.2.wg)).eraseDups.foldl
    (fun s g => s.clearRange (scratchFlat g 0) 1099511627776) s
  { s1 with warps := s1.warps.filter (fun e => !gone e.2.wg) }

/-- A core that holds no workgroup returns to the default split, and its L1 keeps no more lines than that leaves it (R14). -/
def State.resplit (s : State) : State :=
  let out := fun (c : Nat) => !s.wgs.any (fun g => g.2.present && (mget g.2.cores c).isSome)
  ((mkeys s.split).filter out).foldl (fun s c => s.trimL1 c [] 3072) { s with split := s.split.filter (fun e => !out e.1) }

/-- Gives back what a workgroup that has ended holds, once its operations have completed (R336, R337, R372). What its scratch and its warps
held last stays to be seen until another workgroup starts. -/
def State.release (s : State) (k : Nat) : State :=
  let g := s.wg k
  if g.status == .ended && g.cores != [] && !s.busy k then
    let s1 := ((s.budget k (-1) true).freePages 1 k).freePages 2 k
    ((s1.freeTags k).modWg k (fun g => { g with cores := [] })).resplit
  else s

/-- A workgroup whose warps have all ended has ended (R258). -/
def State.endWg (s : State) (k : Nat) : State :=
  let g := s.wg k
  if g.status != .ended && g.status != .saved && (s.warpsOf k).all (fun i => match s.warp i with | none => true | some w => w.ended)
  then
    ((s.modWg k (fun g => { g with status := .ended, request := none })).modNode g.node
      (fun n => { n with ended := n.ended + 1 })).release k
  else s.release k

/-- A warp ends: its claim ends; its queued array operations run on (R155, R258). -/
def State.endWarp (s : State) (k : Nat) : State :=
  match s.warp k with
  | none => s
  | some w =>
    (((s.withdrawClaim k).endClaim k).modWarp k (fun w => { w with ended := true, held := none })).endWg w.wg

/-! ### Kills (R372) -/

/-- Ends the warps of a workgroup at once (R155, R372). -/
def State.killWg (s : State) (g : Nat) : State :=
  let s1 := (s.warpsOf g).foldl (fun s k =>
    -- the banks of a saved warp have gone back already
    (if (s.wg g).status == .saved then s.modWarp k (fun w => { w with claim := {} })
      else ((s.withdrawClaim k).discardArrays k).endClaim k).modWarp k
      (fun w => { w with ended := true, held := none, latch := none,
                         lanes := w.lanes.map (fun l => { l with live := false, hint := none, park := .no }) })) s
  if (s1.wg g).status == .saved then
    let s2 := ((s1.node (s1.wg g).node).forWg (s1.wg g)).region.chain.foldl (fun s a => s.addAt (a + 64) 4 (-((s1.wg g).pages : Int))) s1
    let s3 := (((s2.modWg g (fun g => { g with status := .ended, cores := [] })).modNode (s2.wg g).node
      (fun n => { n with ended := n.ended + 1 })).freePages 1 g).freePages 2 g
    { s3.freeScratch g with warps := s3.warps.filter (fun e => e.2.wg != g), withdrawn := s3.withdrawn.filter (fun o => o.wg != g) }
  else ({ s1 with heldMig := s1.heldMig.filter (fun h => h.engine || !(s1.warpsOf g).elem h.key) } : State).endWg g

/-- The workgroups of a node that have not ended. -/
def State.wgsOf (s : State) (n : Nat) : List Nat :=
  (s.wgs.filter (fun e => e.2.node == n && e.2.status != .ended)).map Prod.fst

/-- Ends a node: every workgroup, and no further one is placed; another node may stand at the head of its priority now (R313). -/
def State.killNode (s : State) (n : Nat) : State :=
  (((s.wgsOf n).foldl State.killWg s).modNode n (fun x =>
    { x with faulted := true, next := x.grid, flushed := [], status := .placed })).heads

/-- Ends every node of a region and of its descendants that admission has let in; STATE becomes 1. -/
def State.killRegion (s : State) (rcb : Nat) : State :=
  let ns := (s.nodes.filter (fun e => e.2.region.chain.elem rcb
    && (e.2.status == .copying || e.2.status == .pooled || e.2.status == .placed))).map Prod.fst
  (ns.foldl State.killNode s).deviceWrite (rcb + 71) [BitVec.ofNat 8 (s.num (rcb + 71) 1 / 4 * 4 + 1)]

end Sys2Proof.Machine
end

