-- ==== Sys2Proof/Machine/Sha3.lean ====
section
/-! DEFINITION. SHA3-512 (FIPS 202), as image digests, instance ids, report hashes and Jig cache keys use it (R67, R294, R347, R350). -/

namespace Sys2Proof.Machine

/-- Bits of the feedback shift register of FIPS 202 (rc), from state r on, n of them: its polynomial is x^8 + x^6 + x^5 + x^4 + 1. -/
def shiftBits (r n : Nat) : List Nat :=
  match n with
  | 0 => []
  | k + 1 => r % 2 :: shiftBits (if 128 ≤ r then (2 * r) ^^^ 0x171 else 2 * r) k

/-- The constants of the 24 rounds: each takes seven bits of the register, to the places 2^j - 1. -/
def roundTable : List Nat :=
  let bits := shiftBits 1 168
  (List.range 24).map (fun r => ((List.range 7).map (fun j => bits.getD (7 * r + j) 0 * 2 ^ (2 ^ j - 1))).sum)

/-- The rotations: from lane (1, 0) on, lane (x, y) goes before (y, 2 x + 3 y), and number t of them turns by (t + 1)(t + 2) / 2. -/
def turnTable (l : List Nat) (x y t n : Nat) : List Nat :=
  match n with
  | 0 => l
  | k + 1 => turnTable (setAt l (x + 5 * y) (fun _ => (t + 1) * (t + 2) / 2 % 64)) y ((2 * x + 3 * y) % 5) (t + 1) k

/-- Rotation of lane x + 5 y; lane 0 does not turn. -/
def turns : List Nat := turnTable (List.replicate 25 0) 1 0 0 24

/-- Rotation of 64 bits to the left. -/
def rotl (v n : Nat) : Nat := (v * 2 ^ n) % 2 ^ 64 + v / 2 ^ (64 - n)

/-- The lane at x, y of a state of 25 lanes. -/
def klane (a : List Nat) (x y : Nat) : Nat := a.getD (x % 5 + 5 * (y % 5)) 0

/-- One round. -/
def keccakRound (a : List Nat) (rc : Nat) : List Nat :=
  let c := (List.range 5).map (fun x =>
    klane a x 0 ^^^ klane a x 1 ^^^ klane a x 2 ^^^ klane a x 3 ^^^ klane a x 4)
  let d := (List.range 5).map (fun x => c.getD ((x + 4) % 5) 0 ^^^ rotl (c.getD ((x + 1) % 5) 0) 1)
  let t := ((List.range 25).zip a).map (fun p => p.2 ^^^ d.getD (p.1 % 5) 0)
  -- lane (x, y) of the next state comes from lane (x + 3 y, x)
  let b := (List.range 25).map (fun i =>
    let x := i % 5
    let y := i / 5
    let j := (x + 3 * y) % 5 + 5 * x
    rotl (t.getD j 0) (turns.getD j 0))
  let e := (List.range 25).map (fun i =>
    let x := i % 5
    let y := i / 5
    klane b x y ^^^ ((2 ^ 64 - 1 - klane b (x + 1) y) &&& klane b (x + 2) y))
  match e with
  | [] => []
  | v :: r => (v ^^^ rc) :: r

/-- Absorbs blocks of 72 bytes. -/
def absorb (fuel : Nat) (a : List Nat) (bs : List Byte) : List Nat :=
  match fuel, bs with
  | 0, _ => a
  | _, [] => a
  | f + 1, bs =>
    let block := (List.range 9).map (fun i => natLE ((bs.drop (8 * i)).take 8))
    absorb f (roundTable.foldl keccakRound
      (((List.range 25).zip a).map (fun p => p.2 ^^^ block.getD p.1 0))) (bs.drop 72)

/-- SHA3-512 of a byte string: the digest's 64 bytes, little-endian, as a number. -/
def sha3 (bs : List Byte) : BitVec 512 :=
  let n := bs.length
  let pad := 72 - n % 72
  let padded := bs ++ (if pad = 1 then [0x86] else [0x06] ++ List.replicate (pad - 2) 0 ++ [0x80])
  let a := absorb (n / 72 + 1) (List.replicate 25 0) padded
  BitVec.ofNat 512 ((List.range 8).foldl (fun v i => v + a.getD i 0 * 2 ^ (64 * i)) 0)

end Sys2Proof.Machine
end

