-- ==== Sys2Proof/Machine/Counting.lean ====
section
/-! DEFINITION. Meter slots: what counts, and the reports a slot emits (R340, R342, R345, R347 to R349). -/

namespace Sys2Proof.Machine

/-- ALLOWH (R340): the allowed set's digests in ascending byte order, hashed. -/
def allowHash (ds : List (BitVec 512)) : BitVec 512 :=
  sha3 ((sortBy (fun d => natLE (bytesLE 64 d.toNat).reverse) ds).flatMap (fun d => bytesLE 64 d.toNat))

/-- DEVID (R353): the digest of the identity public key. -/
def deviceId : BitVec 512 := sha3 Config.identity.key

/-- A report body (R347). -/
def Meter.body (m : Meter) (seq : Nat) (flags : Nat) (link : BitVec 128) : BitVec 2048 :=
  let sat := if m.macs = BitVec.allOnes 96 ∨ m.rbytes = BitVec.allOnes 64 then 32 else 0
  link ++ m.prevh ++ m.allowh ++ m.rbytes ++ BitVec.ofNat 32 (flags + sat) ++ m.macs ++ BitVec.ofNat 64 seq ++ m.inst
    ++ deviceId

/-- A live slot emits a report: FLAGS as given, a first report of its instance or the next one; a forced one holds the slot until it
is delivered (R347 to R349). -/
def State.emitReport (s : State) (slot flags : Nat) (first : Bool) (link : BitVec 128) : State :=
  match mget s.meters slot with
  | none => s
  | some m =>
    let seq := if first then 0 else m.seq.toNat + 1
    let body := m.body seq flags link
    let forced := flags % 2 == 1
    let index := (s.reg 0x38).toNat + s.reports.length
    { s with
      meters := mset s.meters slot { m with
        seq := BitVec.ofNat 64 seq, prevh := sha3 (bytesLE 256 body.toNat), repMacs := m.macs, repBytes := m.rbytes,
        forced := if forced then some index else m.forced },
      reports := s.reports ++ [{ body := body, slot := slot, forced := forced }] }

/-- A counter has grown by its threshold since the last report (R349). -/
def Meter.due (m : Meter) : Bool :=
  decide (2 ^ 44 - 2 ^ 36 ≤ m.macs.toNat - m.repMacs.toNat ∨ 2 ^ 40 ≤ m.rbytes.toNat - m.repBytes.toNat)

/-- The metering block holds as many reports as it can (R348). -/
def State.reportsFull (s : State) : Bool := decide (64 ≤ s.reports.length)

/-- A forced report of the slot is undelivered (R348, R349): one emitted, or one that is due and waits for room among those held. -/
def State.forcedPending (s : State) (slot : Nat) : Bool :=
  match mget s.meters slot with
  | none => false
  | some m => m.due || (match m.forced with
    | none => false
    | some index => decide ((s.reg 0x40).toNat ≤ index))

/-- A forced report where one is due (R349), once the metering block has room for it (R348). -/
def State.force (s : State) (slot : Nat) : State :=
  match mget s.meters slot with
  | none => s
  | some m => if m.due && !s.reportsFull then s.emitReport slot 1 false 0 else s

/-- A slot's read-bytes counter grows (R342); saturating. -/
def State.countBytes (s : State) (slot n : Nat) : State :=
  ({ s with meters := mmod s.meters slot (fun m =>
      { m with rbytes := BitVec.ofNat 64 (Nat.min (m.rbytes.toNat + n) (2 ^ 64 - 1)) }) }).force slot

/-- A slot's MAC counter grows (R345); saturating. -/
def State.countMacs (s : State) (slot n : Nat) : State :=
  ({ s with meters := mmod s.meters slot (fun m =>
      { m with macs := BitVec.ofNat 96 (Nat.min (m.macs.toNat + n) (2 ^ 96 - 1)) }) }).force slot

end Sys2Proof.Machine
end

