-- ==== Sys2Proof/Machine/Rounding.lean ====
section
/-! DEFINITION. Floating-point numbers and the one rounding (R70 to R76): formats, decoding, exact arithmetic on dyadic values, and
rounding of an exact quotient in each mode with its flags. -/

namespace Sys2Proof.Machine

/-! ### Flags as a set (R32, R82) -/

/-- FLAGS bits: NV, OF, UF, NX, SAT, NANB. -/
abbrev FlagBits := BitVec 6
def flagNV : FlagBits := 1
def flagOF : FlagBits := 2
def flagUF : FlagBits := 4
def flagNX : FlagBits := 8
def flagSAT : FlagBits := 16
def flagNANB : FlagBits := 32

/-- A flag, where its condition holds. -/
def flagIf (c : Bool) (f : FlagBits) : FlagBits := if c then f else 0

/-! ### Formats (R70) -/

/-- Exponent and fraction widths. -/
structure Fmt where
  eb : Nat
  fb : Nat
deriving DecidableEq, Repr

def fp64 : Fmt := ⟨11, 52⟩
def fp32 : Fmt := ⟨8, 23⟩
def bf16 : Fmt := ⟨8, 7⟩
def fp16 : Fmt := ⟨5, 10⟩

/-- Exponent bias. -/
def Fmt.bias (f : Fmt) : Nat := 2 ^ (f.eb - 1) - 1
/-- The field of all ones. -/
def Fmt.top (f : Fmt) : Nat := 2 ^ f.eb - 1
/-- Exponent of the smallest normal. -/
def Fmt.emin (f : Fmt) : Int := 1 - f.bias
/-- Sign bit's weight. -/
def Fmt.signBit (f : Fmt) : Nat := 2 ^ (f.eb + f.fb)
/-- Canonical NaN (R70, R72). -/
def Fmt.nan (f : Fmt) : Nat := f.top * 2 ^ f.fb + 2 ^ (f.fb - 1)
/-- An infinity. -/
def Fmt.inf (f : Fmt) (neg : Bool) : Nat := (if neg then f.signBit else 0) + f.top * 2 ^ f.fb
/-- The largest finite value of a sign. -/
def Fmt.huge (f : Fmt) (neg : Bool) : Nat := (if neg then f.signBit else 0) + f.top * 2 ^ f.fb - 1
/-- A zero. -/
def Fmt.zero (f : Fmt) (neg : Bool) : Nat := if neg then f.signBit else 0

/-- A decoded value: NaN (signalling or not), infinity, or (-1)^neg * m * 2^e; m = 0 is a signed zero. -/
inductive FVal where
  | nan (sig : Bool)
  | inf (neg : Bool)
  | num (neg : Bool) (m : Nat) (e : Int)
deriving DecidableEq, Repr

/-- The value of a bit pattern (R70). -/
def fval (f : Fmt) (bits : Nat) : FVal :=
  let frac := bits % 2 ^ f.fb
  let ex := bits / 2 ^ f.fb % 2 ^ f.eb
  let neg := decide (bits / 2 ^ (f.eb + f.fb) % 2 = 1)
  if ex = f.top then (if frac = 0 then .inf neg else .nan (decide (frac < 2 ^ (f.fb - 1))))
  else if ex = 0 then .num neg frac (f.emin - f.fb)
  else .num neg (2 ^ f.fb + frac) ((ex : Int) - f.bias - f.fb)

/-- Sign of a value that is no NaN. -/
def FVal.neg? : FVal → Bool
  | .nan _ => false
  | .inf n => n
  | .num n _ _ => n

/-- The value with its sign inverted. -/
def FVal.negate : FVal → FVal
  | .nan q => .nan q
  | .inf n => .inf (!n)
  | .num n m e => .num (!n) m e

/-- A NaN. -/
def FVal.isNan : FVal → Bool
  | .nan _ => true
  | _ => false

/-- A signalling NaN. -/
def FVal.isSig : FVal → Bool
  | .nan q => q
  | _ => false

/-- A zero. -/
def FVal.isZero : FVal → Bool
  | .num _ 0 _ => true
  | _ => false

/-- An infinity. -/
def FVal.isInf : FVal → Bool
  | .inf _ => true
  | _ => false

/-! ### Rounding (R71, R73) -/

/-- The rounding directions. -/
inductive Rm where
  | rne | rtz | rup | rdn | rna
deriving DecidableEq, Repr

/-- The direction of an RM code (R51); reserved codes do not reach this. -/
def rmOf (c : Nat) : Rm := if c = 1 then .rtz else if c = 2 then .rup else if c = 3 then .rdn else if c = 4 then .rna else .rne

/-- num / den rounded to an integer, for a value of the given sign. -/
def roundNat (m : Rm) (neg : Bool) (num den : Nat) : Nat :=
  let q := num / den
  let r := num % den
  let up := match m with
    | .rne => decide (den < 2 * r) || (decide (2 * r = den) && decide (q % 2 = 1))
    | .rtz => false
    | .rup => !neg && decide (r ≠ 0)
    | .rdn => neg && decide (r ≠ 0)
    | .rna => decide (den ≤ 2 * r)
  if up then q + 1 else q

/-- num / den * 2^e as a quotient of naturals. -/
def scaled (num den : Nat) (e : Int) : Nat × Nat :=
  if 0 ≤ e then (num * 2 ^ e.toNat, den) else (num, den * 2 ^ (-e).toNat)

/-- floor(log2(num / den)), for num and den not 0. -/
def floorLog2 (num den : Nat) : Int :=
  let k : Int := (Nat.log2 num : Int) - Nat.log2 den
  let p := scaled 1 1 k
  if p.1 * den ≤ num * p.2 then k else k - 1

/-- A rounded result: bits in the format, and the flags raised. -/
structure FRes where
  bits  : Nat
  flags : FlagBits := 0
deriving DecidableEq, Repr

/-- The invalid operation: canonical NaN and NV. -/
def invalid (f : Fmt) : FRes := ⟨f.nan, flagNV⟩

/-- Rounds the exact value ± num / den * 2^e, not 0, once to the format (R73), with OF, UF and NX as R82 sets them: tininess is
detected after rounding, as if the exponent range were unbounded. -/
def rnd (f : Fmt) (m : Rm) (neg : Bool) (num den : Nat) (e : Int) : FRes :=
  if num = 0 then ⟨f.zero neg, 0⟩
  else
    let l := floorLog2 num den + e
    let q : Int := (if l < f.emin then f.emin else l) - f.fb
    let x := scaled num den (e - q)
    let n := roundNat m neg x.1 x.2
    let exact := decide (n * x.2 = x.1)
    let tiny := decide (l < f.emin) && (decide (l < f.emin - 1) ||
      (let y := scaled num den (e - (l - f.fb)); decide (roundNat m neg y.1 y.2 < 2 ^ (f.fb + 1))))
    let bits := if n < 2 ^ f.fb then n else n + ((q + f.fb - f.emin).toNat) * 2 ^ f.fb
    if f.top * 2 ^ f.fb ≤ bits then
      ⟨match m with
        | .rne => f.inf neg
        | .rna => f.inf neg
        | .rtz => f.huge neg
        | .rup => if neg then f.huge neg else f.inf neg
        | .rdn => if neg then f.inf neg else f.huge neg, flagOF ||| flagNX⟩
    else ⟨f.zero neg + bits, flagIf (tiny && !exact) flagUF ||| flagIf (!exact) flagNX⟩

/-- A signed integer times 2^e, as an exact result; an exactly zero one has the sign given. -/
def rndInt' (f : Fmt) (m : Rm) (zneg : Bool) (v : Int) (e : Int) : FRes :=
  if v = 0 then ⟨f.zero zneg, 0⟩ else rnd f m (decide (v < 0)) v.natAbs 1 e

/-! ### Exact arithmetic -/

/-- The signed mantissa of a value at a lower exponent. -/
def alignTo (neg : Bool) (m : Nat) (e lo : Int) : Int :=
  (if neg then -1 else 1) * ((m * 2 ^ (e - lo).toNat : Nat) : Int)

/-- The exact sum of two dyadic values: signed mantissa and exponent. -/
def addExact (n1 : Bool) (m1 : Nat) (e1 : Int) (n2 : Bool) (m2 : Nat) (e2 : Int) : Int × Int :=
  let lo := if e1 ≤ e2 then e1 else e2
  (alignTo n1 m1 e1 lo + alignTo n2 m2 e2 lo, lo)

/-- NV where an operand is a signalling NaN. -/
def nanFlags (xs : List FVal) : FlagBits := flagIf (xs.any FVal.isSig) flagNV

/-- The sum of two values that are no NaN, with the signs of R74. -/
def fadd2 (f : Fmt) (m : Rm) (x y : FVal) : FRes :=
  match x, y with
  | .inf a, .inf b => if a = b then ⟨f.inf a, 0⟩ else invalid f
  | .inf a, _ => ⟨f.inf a, 0⟩
  | _, .inf b => ⟨f.inf b, 0⟩
  | .num n1 m1 e1, .num n2 m2 e2 =>
    let r := addExact n1 m1 e1 n2 m2 e2
    rndInt' f m (if m1 = 0 ∧ m2 = 0 ∧ n1 = n2 then n1 else decide (m = .rdn)) r.1 r.2
  | _, _ => ⟨f.nan, 0⟩

/-- The exact product of two values that are no NaN; none where it is 0 times infinity. -/
def mulExact (x y : FVal) : Option FVal :=
  match x, y with
  | .num n1 m1 e1, .num n2 m2 e2 => some (.num (n1 != n2) (m1 * m2) (e1 + e2))
  | .inf a, .num b n _ => if n = 0 then none else some (.inf (a != b))
  | .num b n _, .inf a => if n = 0 then none else some (.inf (a != b))
  | .inf a, .inf b => some (.inf (a != b))
  | _, _ => none

/-- Rounds a value that is no NaN. -/
def FVal.round (f : Fmt) (m : Rm) : FVal → FRes
  | .nan _ => ⟨f.nan, 0⟩
  | .inf n => ⟨f.inf n, 0⟩
  | .num n k e => if k = 0 then ⟨f.zero n, 0⟩ else rnd f m n k 1 e

/-- Compares two values; none where they are unordered. Zeros are equal. -/
def FVal.cmp (x y : FVal) : Option Ordering :=
  match x, y with
  | .nan _, _ => none
  | _, .nan _ => none
  | .inf a, .inf b => some (if a = b then .eq else if a then .lt else .gt)
  | .inf a, _ => some (if a then .lt else .gt)
  | _, .inf b => some (if b then .gt else .lt)
  | .num n1 m1 e1, .num n2 m2 e2 =>
    let lo := if e1 ≤ e2 then e1 else e2
    some (compareOfLessAndEq (alignTo n1 m1 e1 lo) (alignTo n2 m2 e2 lo))

/-- The integer nearest a finite value in a mode, as a magnitude. -/
def roundMag (m : Rm) (neg : Bool) (k : Nat) (e : Int) : Nat :=
  let x := scaled k 1 e
  roundNat m neg x.1 x.2

/-! ### The operations of R101 and R102 -/

/-- ADD. -/
def opAdd (f : Fmt) (m : Rm) (a b : Nat) : FRes :=
  let x := fval f a
  let y := fval f b
  if x.isNan || y.isNan then ⟨f.nan, nanFlags [x, y]⟩ else fadd2 f m x y
/-- SUB. -/
def opSub (f : Fmt) (m : Rm) (a b : Nat) : FRes :=
  let x := fval f a
  let y := fval f b
  if x.isNan || y.isNan then ⟨f.nan, nanFlags [x, y]⟩ else fadd2 f m x y.negate
/-- MUL. -/
def opMul (f : Fmt) (m : Rm) (a b : Nat) : FRes :=
  let x := fval f a
  let y := fval f b
  if x.isNan || y.isNan then ⟨f.nan, nanFlags [x, y]⟩
  else match mulExact x y with
    | none => invalid f
    | some p => p.round f m
/-- MIN: -0 orders below +0. -/
def opMin (f : Fmt) (_m : Rm) (a b : Nat) : FRes :=
  let x := fval f a
  let y := fval f b
  if x.isNan || y.isNan then ⟨f.nan, nanFlags [x, y]⟩
  else if x.cmp y = some .lt ∨ (x.isZero ∧ y.isZero ∧ x.neg?) then ⟨a, 0⟩ else ⟨b, 0⟩
/-- MAX. -/
def opMax (f : Fmt) (_m : Rm) (a b : Nat) : FRes :=
  let x := fval f a
  let y := fval f b
  if x.isNan || y.isNan then ⟨f.nan, nanFlags [x, y]⟩
  else if x.cmp y = some .gt ∨ (x.isZero ∧ y.isZero ∧ !x.neg?) then ⟨a, 0⟩ else ⟨b, 0⟩
/-- ABS. -/
def opAbs (f : Fmt) (_m : Rm) (a : Nat) : FRes :=
  let x := fval f a
  if x.isNan then ⟨f.nan, nanFlags [x]⟩ else ⟨a % f.signBit, 0⟩
/-- NEG. -/
def opNeg (f : Fmt) (_m : Rm) (a : Nat) : FRes :=
  let x := fval f a
  if x.isNan then ⟨f.nan, nanFlags [x]⟩ else ⟨a % f.signBit + (if a / f.signBit % 2 = 1 then 0 else f.signBit), 0⟩
/-- RINT: an integer value, the operand's sign kept; NX if it differs. -/
def opRint (f : Fmt) (m : Rm) (a : Nat) : FRes :=
  match fval f a with
  | .nan q => ⟨f.nan, flagIf q flagNV⟩
  | .inf n => ⟨f.inf n, 0⟩
  | .num n k e =>
    let r := roundMag m n k e
    let x := scaled k 1 e
    ⟨(if r = 0 then f.zero n else (rnd f .rne n r 1 0).bits), flagIf (decide (r * x.2 ≠ x.1)) flagNX⟩
/-- a * b + c with the product or c negated first; one rounding (R102). -/
def opFma (f : Fmt) (negP negC : Bool) (m : Rm) (a b c : Nat) : FRes :=
  let x := fval f a
  let y := fval f b
  let z := fval f c
  if (x.isZero && y.isInf) || (x.isInf && y.isZero) then invalid f
  else if x.isNan || y.isNan || z.isNan then ⟨f.nan, nanFlags [x, y, z]⟩
  else match mulExact x y with
    | none => invalid f
    | some p => fadd2 f m (if negP then p.negate else p) (if negC then z.negate else z)

/-! ### Conversions (R105, R106) -/

/-- From one floating-point format to another. -/
def convert (src dst : Fmt) (m : Rm) (a : Nat) : FRes :=
  match fval src a with
  | .nan q => ⟨dst.nan, flagIf q flagNV⟩
  | x => x.round dst m

/-- A value to an integer in lo to hi (R106): the integer and its flags. -/
def toInteger (m : Rm) (lo hi : Int) (x : FVal) : Int × FlagBits :=
  match x with
  | .nan _ => (0, flagNV)
  | .inf n => (if n then lo else hi, flagNV ||| flagSAT)
  | .num n k e =>
    let r : Int := (if n then -1 else 1) * (roundMag m n k e : Int)
    let y := scaled k 1 e
    if hi < r then (hi, flagNV ||| flagSAT)
    else if r < lo then (lo, flagNV ||| flagSAT)
    else (r, flagIf (decide (r.natAbs * y.2 ≠ y.1)) flagNX)

/-- A signed integer to a floating-point format. -/
def ofInteger (f : Fmt) (m : Rm) (v : Int) : FRes := rndInt' f m false v 0

end Sys2Proof.Machine
end

