-- ==== Sys2Proof/Machine/Blocks.lean ====
section
/-! DEFINITION. Shared-exponent blocks (R77 to R80): the value of an element, and quantisation of 32 FP32 values. -/

namespace Sys2Proof.Machine

/-- A block: scale word, the 32 codes of element width b, and the flags of R80. -/
structure SeBlock where
  scale : Nat
  codes : List Nat
  flags : FlagBits := 0
deriving DecidableEq, Repr

/-- Step σ of a group in a scale word. -/
def seStep (scale g : Nat) : Nat := scale / 2 ^ (2 * g) % 4

/-- Signed value of a code of width b. -/
def seSigned (b code : Nat) : Int :=
  if code % 2 ^ b < 2 ^ (b - 1) then ((code % 2 ^ b : Nat) : Int) else ((code % 2 ^ b : Nat) : Int) - ((2 ^ b : Nat) : Int)

/-- Element i of a block as an exact value (R78): NaN where E is 255, else code times unit. -/
def seValue (b scale code i : Nat) : FVal :=
  if scale / 256 % 256 = 255 then .nan false
  else
    let c := seSigned b code
    .num (decide (c < 0)) c.natAbs ((scale / 256 % 256 : Nat) - 127 - (b - 1) - (seStep scale (i / 8) : Nat))

/-- Element i as FP32 bits; exact (R78). -/
def seFp32 (b scale code i : Nat) : Nat := ((seValue b scale code i).round fp32 .rne).bits

/-- The magnitude of an FP32 value for R80: an infinity counts as 2^128. -/
def seMag (v : FVal) : Nat × Int :=
  match v with
  | .num _ m e => (m, e)
  | .inf _ => (1, 128)
  | .nan _ => (0, 0)

/-- floor(log2) of the largest of some magnitudes; none when all are 0. -/
def topLog (vs : List FVal) : Option Int :=
  vs.foldl (fun a v =>
    let x := seMag v
    if x.1 = 0 then a
    else
      let l := floorLog2 x.1 1 + x.2
      match a with
      | none => some l
      | some k => if k < l then some l else some k) none

/-- A value clamped to a range from 0. -/
def clampTo (x : Int) (hi : Nat) : Nat := Nat.min x.toNat hi

/-- Quantisation of 32 FP32 values (R80). -/
def quantise (b : Nat) (xs : List Nat) : SeBlock :=
  let vs := xs.map (fval fp32)
  if vs.any FVal.isNan then { scale := 255 * 256, codes := xs.map (fun _ => 0), flags := flagNANB }
  else
    let e : Nat := match topLog vs with
      | none => 0
      | some l => clampTo (l + 128) 254
    let step : Nat → Nat := fun g => match topLog ((vs.drop (8 * g)).take 8) with
      | none => 3
      | some l => clampTo ((e : Int) - (l + 128)) 3
    let code := fun (i : Nat) (v : FVal) =>
      let x := seMag v
      let q := scaled x.1 1 (x.2 - ((e : Int) - 127 - (b - 1) - (step (i / 8) : Nat)))
      let r := roundNat .rne v.neg? q.1 q.2
      let lim := if v.neg? then 2 ^ (b - 1) else 2 ^ (b - 1) - 1
      let sat := decide (lim < r)
      let n := if sat then lim else r
      let exact := !v.isInf && decide (n * q.2 = q.1)
      ((if v.neg? then (2 ^ b - n) % 2 ^ b else n), flagIf sat flagSAT ||| flagIf (!exact) flagNX)
    let cs := ((List.range 32).zip vs).map (fun p => code p.1 p.2)
    { scale := e * 256 + step 3 * 64 + step 2 * 16 + step 1 * 4 + step 0, codes := cs.map Prod.fst,
      flags := cs.foldl (fun a c => a ||| c.2) 0 }

end Sys2Proof.Machine
end

