-- ==== Sys2Proof/Machine/Ops.lean ====
section
/-! DEFINITION. The shared operations of the issue: taking a fault (R364 to R372), returning from the handler (R376), and the
frame in which every instruction word is executed: its hint checks, its operands, its completion (R43 to R51, R84, R86, R259). -/

namespace Sys2Proof.Machine

/-! ### Faults -/

/-- What an engine fault puts into the record (R237). -/
structure EngFault where
  epc   : Word
  tlnum : Nat
  ctx   : Nat
  jaddr : Nat
deriving DecidableEq, Repr

/-- A fault of an instruction: class, ADDR, the lanes of LMASK, OBJKIND and OBJIDX, and what R237 adds (R364, R367). -/
structure FaultInfo where
  cls   : Nat
  addr  : Word := 0
  lanes : List Nat
  kind  : Nat := 0
  idx   : Nat := 0
  eng   : Option EngFault := none
  /-- not recoverable: poison that a parity check finds in per-warp state (R369) -/
  fatal : Bool := false
deriving DecidableEq, Repr

/-- The fault record of R367; recov and nest as said; opc and rpc are the faulting word's PCs (R48). -/
def faultRecord (s : State) (w : Warp) (f : FaultInfo) (opc rpc : Word) (recov nest : Bool) : BitVec 512 :=
  let n := s.nodeOf w
  let e : EngFault := f.eng.getD { epc := 0, tlnum := 0, ctx := 3, jaddr := 0 }
  BitVec.ofNat 512
    (f.cls % 256 + (if recov then 2 ^ 8 else 0) + (if f.eng.isSome then 2 ^ 9 else 0) + (if nest then 2 ^ 10 else 0)
      + w.index % 512 * 2 ^ 16 + (maskOf f.lanes).toNat * 2 ^ 32 + rpc.toNat % 2 ^ 56 * 2 ^ 64 + opc.toNat % 2 ^ 56 * 2 ^ 128
      + f.addr.toNat * 2 ^ 192 + f.idx % 16 * 2 ^ 256 + f.kind % 16 * 2 ^ 260 + e.ctx % 4 * 2 ^ 278 + e.jaddr % 2 ^ 40 * 2 ^ 280
      + e.tlnum % 2 ^ 64 * 2 ^ 320 + e.epc.toNat % 2 ^ 56 * 2 ^ 384 + n.number.toNat * 2 ^ 448
      + n.region.pasid % 2 ^ 20 * 2 ^ 480 + w.depth % 8 * 2 ^ 505)

/-- The class of a fault record. -/
def recordClass (r : BitVec 512) : Nat := (r.extractLsb' 0 8).toNat

/-- Check of the word at HANDLER (R368): checks 1 to 3 of R255 with the bound of handler code (R366). -/
def handlerOk (s : State) (w : Warp) (h : Nat) : Bool :=
  decide (h % 4 = 0) && (match s.fetchAt w (BitVec.ofNat 64 h) true with
    | .error _ => false
    | .ok v => v == 0x8BFE1C03#32)

/-- A word stands at HANDLER that passes checks 1 and 2 of R255 and is no LAND: the LAND check fails, which R368 counts in the management
error log. -/
def handlerNoLand (s : State) (w : Warp) (h : Nat) : Bool :=
  decide (h % 4 = 0) && (match s.fetchAt w (BitVec.ofNat 64 h) true with
    | .error _ => false
    | .ok v => v != 0x8BFE1C03#32)

/-- A lane's resume PC: the first hint of its group, or its PC (R48, R365). -/
def Lane.resume (l : Lane) : Lane :=
  match l.hint with
  | none => l
  | some h => { l with pc := h.first, rpc := h.firstR, hint := none, park := .no }

/-- The lane as it waits through a handler or a save: at its resume PC; at a PARK, which the resumption wakes, in its place (R365, R376,
R386). -/
def Lane.rested (l : Lane) : Lane :=
  match l.park with
  | .watch a t _ => { l with hint := none, park := .watch a t true }
  | _ => l.resume

/-- The resume PC of a lane as a program sees it: the original PC of its group's first word, which the Jig may have dropped (R48, R286). -/
def Lane.resumePc (c : Code) (l : Lane) : Word := if l.resume.rpc.isSome then c.groupStart l.resume.pc 4 else l.resume.pc

/-- What a lane leaves in the trap frame (R370). -/
def Lane.framed (c : Code) (l : Lane) : FrameLane :=
  { pc := l.resumePc c, found := l.resumePc c, place := (l.rested.pc, l.rested.rpc), queue := l.queue, guards := l.guards,
    park := l.rested.park }

/-- INDEX of a wrapper level as the frame saves it: the copy in which the faulting word lies (R298); where it lies in no copy of the level,
that of the lowest lane in one. -/
def Warp.wrapperIndex (w : Warp) (c : Code) (k : Nat) (rpc : Nat) : Nat :=
  let at' := fun (m : Option Word) => m.bind (fun m => if levelOf m == k then copyOf m else none)
  let own := at' (c.jig.bind (fun e => e.mapAt rpc))
  let lanes := (w.live.filter (fun l => w.participates k l)).filterMap (fun l =>
    at' (c.jig.bind (fun e => (w.lane l).rpc.bind (fun r => e.mapAt r.toNat))))
  own.getD (lanes.headD (w.level k).index.toNat)

/-- Handler entry (R370): the trap frame takes each live lane's resume PC, queue, guards and parked state, s0 to s31 and the
levels; levels become inactive; FMODE becomes 1; every live lane joins one lane set at HANDLER. -/
def enterHandler (s : State) (w : Warp) (h : Nat) (record : BitVec 512) : Warp :=
  let frame : Frame :=
    { lanes := w.live.map (fun l => (l, (w.lane l).framed (s.code w))),
      s := w.s,
      levels := (List.range 4).map (fun k =>
        let v := w.level k
        if v.copies = 0 then v
        else { v with index := BitVec.ofNat 33 (w.wrapperIndex (s.code w) k (record.extractLsb' 64 56).toNat) }) }
  { w with
    frame := some frame, levels := noLevels, handler := true, record := record, held := none, wait := 0,
    lanes := w.lanes.map (fun l =>
      if l.live then
        { l with pc := BitVec.ofNat 64 h, rpc := none, hint := none, park := .no, age := 0, yield := 0, blocked := 0 }
      else l) }

/-- The fault-domain action of the region's FDP (R372), with the events of its records: a nested fault's prior record first. -/
def State.faultAction (s : State) (k : Nat) (record : BitVec 512) (prior : Option (BitVec 512)) : State :=
  match s.warp k with
  | none => s
  | some w =>
    let n := (s.wg w.wg).node
    let r := (s.nodeOf w).region
    let s1 := ((match prior with
      | none => s
      | some p => s.event 1 p.toNat).event 1 record.toNat).modNode n (fun x => { x with faulted := true })
    match r.fdp with
    | 0 => s1.killWg w.wg
    | 1 => s1.killNode n
    | _ => (s1.killRegion r.rcb).eventAt 2 r.rcb

/-- What a warp waits for without having completed its instruction is given up, since its lanes will issue that instruction again
(R365): operations its parked lanes complete with, its accesses held for a migrating page, and a waiting claim. -/
def State.cancelWaits (s : State) (k : Nat) : State :=
  match s.warp k with
  | none => s
  | some w =>
    let ids := w.lanes.filterMap (fun l => match l.park with
      | .fence id => if l.live then some id else none
      | _ => none)
    let s1 := { s with
      ops := (s.ops.filter (fun (o : MemOp) => !ids.elem o.id)).map (fun (o : MemOp) => { o with after := o.after.filter (fun i => !ids.elem i) }),
      heldMig := s.heldMig.filter (fun (h : Held) => if h.engine then !ids.elem h.key else h.key != k) }
    s1.withdrawClaim k

/-- Delivers a fault whose record is built (RECOV and NEST clear in it): to the handler, or by the fault-domain action (R368 to
R372). recoverable says whether the class and R369 let it. -/
def State.deliver (s : State) (k : Nat) (record : BitVec 512) (recoverable : Bool) : State :=
  match s.warp k with
  | none => s
  | some w =>
    let h := (s.nodeOf w).region.handler.toNat
    if w.handler then
      let r := record ||| (1#512 <<< 10)
      (s.setWarp k { w with prior := w.record, record := r }).faultAction k r (some w.record)
    else if recoverable ∧ h ≠ 0 then
      (if handlerOk s w h then
        (let s1 := (s.cancelWaits k).touchFetch w (BitVec.ofNat 64 h)
         s1.modWarp k (fun v => enterHandler s1 v h (record ||| (1#512 <<< 8) ||| (1#512 <<< 504))))
       else ((fun (s1 : State) => if handlerNoLand s w h then s1.log h else s1) (s.setWarp k { w with record := record })).faultAction
         k record none)
    else (s.setWarp k { w with record := record }).faultAction k record none

/-- TAKING A FAULT, the one operation of every fault of a warp: the record is built (R367); it is delivered at once, or, while the
core is under a debug halt, held with the warp (R378); of several, the one raised first (R365). -/
def State.takeFault (s : State) (k : Nat) (f : FaultInfo) (opc rpc : Word) : State :=
  match s.warp k with
  | none => s
  | some w =>
    let rec' := faultRecord s w f opc rpc false false
    if s.halted.elem w.core then
      (if w.held.isSome then s else s.setWarp k { w with held := some (if f.fatal then rec' ||| (1#512 <<< 11) else rec') })
    else s.deliver k rec' (!f.fatal)

/-- Delivers a fault held during a halt (R378): bit 11 of the held value keeps that it is not recoverable (R369). -/
def State.deliverHeld (s : State) (k : Nat) : State :=
  match s.warp k with
  | none => s
  | some w =>
    match w.held with
    | none => s
    | some r => (s.setWarp k { w with held := none }).deliver k (r &&& ~~~(1#512 <<< 11)) (!r.getLsbD 11)

/-! ### The return from the handler (R376) -/

/-- The faults of the resume PCs: alignment, then fetch and X within the kernel's code, with the failing lanes and the lowest of their
PCs (checks 1 and 2 of R255). -/
def resumeFault (s : State) (w : Warp) (ls : List (Nat × Word)) : Option FaultInfo :=
  let bad := fun (cls : Nat) (p : Word → Bool) => match ls.filter (fun e => p e.2) with
    | [] => none
    | b => some ({ cls := cls, lanes := b.map Prod.fst,
                   addr := (leastBy (fun (a : Word) => a.toNat) (b.map Prod.snd)).getD 0 } : FaultInfo)
  let fetch := fun (a : Word) => match s.fetchAt w a false with
    | .error c => c
    | .ok _ => 0
  (bad 0x08 (fun a => decide (a.toNat % 4 ≠ 0)))
    |>.orElse (fun _ => bad 0x04 (fun a => fetch a == 0x04))
    |>.orElse (fun _ => bad 0x05 (fun a => fetch a != 0))

/-- The first level that breaks R268 or R270 (R282). DESIGN CHOICE: an inactive level is not looked at, whatever the handler wrote into it,
since its fields read 0 and a LOOP writes them anew. -/
def brokenLevel (vs : List Level) (named : Nat) : Option Nat :=
  (List.range 4).find? (fun k =>
    let v := vs.getD k {}
    v.active && ((List.range k).any (fun j => !(vs.getD j {}).active)
      || decide (v.olast.toNat < v.ostart.toNat) || decide (2 ^ (v.st.toNat + 1) ≤ v.sm.toNat)
      || (v.rt && (decide (named < 48) || (List.range k).any (fun j => (vs.getD j {}).active && (vs.getD j {}).rt)))))

/-- A lane at a place of the code it ran: at a residual word whose original PC the map gives, or in the original code. -/
def Lane.at' (x : Lane) (c : Code) (p : Word × Option Word) : Lane :=
  match p.2, c.jig with
  | some r, some j => (placeRun j c.base r x).getD { x with pc := p.1, rpc := none }
  | _, _ => { x with pc := p.1, rpc := none }

/-- A lane of the frame comes back: queue, guards, its place in the code it ran unless the handler moved it (R297, R298), and its parked
state; one that the handler moved waits no longer at a PARK. A lane that waited at an instruction issues it again; a PARK counts the resumption as its wake (R256). DESIGN CHOICE: a lane waits at
a back edge, or outside a level that it left, by its parked state, whatever the handler did to BACK and EXIT of the level, and the level
fires by those bits (R282). -/
def Warp.restoreLane (w : Warp) (c : Code) (l : Nat) (f : FrameLane) (x : Lane) : Lane :=
  let y := { x with queue := f.queue, guards := f.guards, hint := none, age := 0, yield := 0, blocked := 0 }
  let z := if f.pc = f.found then y.at' c f.place else w.placeLane c.jig c.base l f.pc false y
  { z with park := match f.park with
      | .left k => .left k
      | .backEdge k => .backEdge k
      | .watch a t _ => if f.pc = f.found then .watch a t true else .no
      | _ => .no }

/-- RETURNING FROM THE HANDLER, the one operation of ERET: the frame's levels, lanes and uniform registers, and FMODE 0. -/
def State.restoreFrame (s : State) (k : Nat) (f : Frame) : State :=
  match s.warp k with
  | none => s
  | some w =>
    let w1 := { w with handler := false, frame := none, levels := f.levels, s := f.s }
    let c := s.code w1
    let w2 := f.lanes.foldl (fun w e => if (w.lane e.1).live then w.modLane e.1 (w1.restoreLane c e.1 e.2) else w) w1
    s.setWarp k (w2.settleLoops c 8)

/-! ### Scratch pages after a resume (R173) -/

/-- A byte lies in a scratch page that a resume has not brought back yet (R173). -/
def State.pageAbsent (s : State) (wg flat : Nat) : Bool :=
  let g := s.wg wg
  g.absent != [] && !isCached flat && (let win := flat - scratchFlat wg 0
    g.absent.elem (win / 2 ^ 31, win % 2 ^ 29 / 4096))

/-- The scratch page of a flat address: core and page. -/
def pageOf (wg flat : Nat) : Nat × Nat := ((flat - scratchFlat wg 0) / 2 ^ 31, (flat - scratchFlat wg 0) % 2 ^ 29 / 4096)

/-- An access touches the pages of some bytes: those that are not there come back. -/
def State.touchPages (s : State) (wg : Nat) (flats : List Nat) : State :=
  match flats.filter (s.pageAbsent wg) with
  | [] => s
  | fs => s.modWg wg (fun g => { g with touched := (g.touched ++ fs.map (pageOf wg)).eraseDups })

/-! ### The issue -/

/-- What is issuing: the warp, the lanes of the issuing set (R86), and their shared hint state. -/
structure Iss where
  k     : Nat
  w     : Warp
  lanes : List Nat
  /-- the lane whose word is issued: at a rendezvous, one of the lanes that completed it -/
  led   : Nat
  code  : Code
  hint  : Option Hint
deriving DecidableEq, Repr

/-- The lane whose word is issued: the others of the set stand at the same original PC with the same hints. -/
def Iss.lead (i : Iss) : Lane := i.w.lane i.led
/-- The original PC of the issuing word. -/
def Iss.pc (i : Iss) : Word := i.lead.pc
/-- The PC of the code that runs. -/
def Iss.run (i : Iss) : Word := i.lead.runPc

/-- The issue in progress; none where it names no warp. -/
def State.issue (s : State) : Option Iss :=
  match s.warp s.cur.warp with
  | none => none
  | some w =>
    let ls := (lanesOf s.cur.lanes).filter (fun l => (w.lane l).live)
    some { k := s.cur.warp, w := w, lanes := ls, led := ls.headD 0, code := s.code w, hint := (w.lane (ls.headD 0)).hint }

/-- How an instruction's own rule ends. -/
inductive Res where
  /-- it has taken effect; the lanes have been moved -/
  | done (s : State)
  /-- it cannot issue yet (R248): the set is noted as not ready, with the stall cause it would count (R317: 1 scoreboard, 2 memory,
  3 Bench, 6 message), plus 8 where it holds every set of its warp (R125); nothing else changes -/
  | hold (cause : Nat)
  /-- it waits for memory, and touches the scratch pages of these bytes (R173) -/
  | await (flats : List Nat)
  /-- it raises a fault -/
  | bad (f : FaultInfo)

/-- Raises a fault for the issue, at the PC of the first hint of its group (R48). -/
def Iss.fault (i : Iss) (s : State) (f : FaultInfo) : State :=
  s.takeFault i.k f (i.lead.resumePc i.code) i.lead.resume.runPc

/-- The word of the issue, as its fault record carries it (R364): the original word, in residual code too (R286). -/
def Iss.word (i : Iss) (s : State) : Word :=
  if i.lead.rpc.isSome then (i.code.wordAt i.pc).setWidth 64
  else
    match s.fetchLane i.w i.lead with
    | .error _ => 0
    | .ok v => v.setWidth 64

/-- An illegal-instruction fault of the issuing lanes: check 1 to 4 of R43. -/
def Iss.illegal (i : Iss) (s : State) : FaultInfo := { cls := 0x01, addr := i.word s, lanes := i.lanes }
/-- An illegal-operand fault of the issuing lanes: check 5 of R43. -/
def Iss.operand (i : Iss) (s : State) : FaultInfo := { cls := 0x02, addr := i.word s, lanes := i.lanes }

/-- After a step of a warp: where a sub-group's rendezvous cannot complete, its parked lanes fault (R260). -/
def State.settle (s : State) (k : Nat) : State :=
  match s.warp k with
  | none => s
  | some w =>
    if w.lanes.any Lane.atRendezvous then
      match (List.range 32).find? (fun l => (w.lane l).live && w.mismatched (s.code w) l) with
      | none => s
      | some l =>
        match (w.lane l).park with
        | .rendezvous j =>
          let ls := w.subgroup j l
          let low := (leastBy (fun m => w.rendezvousAt m) ls).getD l
          s.takeFault k { cls := 0x13, lanes := ls } (BitVec.ofNat 64 (w.rendezvousAt low))
            (match (w.lane low).park with
             | .backEdge v => (if (w.level v).res && (w.lane low).rpc.isSome then (w.level v).last else (w.level v).olast).setWidth 64
             | _ => (w.lane low).runPc)
        | _ => s
    else s

/-- The issuing set is not ready: its word is held at issue, for a cause (R248, R317). -/
def Iss.held (i : Iss) (s : State) (cause : Nat) : State :=
  s.setWarp i.k (i.w.modLanes i.lanes (fun _ x => { x with blocked := cause + 1 }))

/-- Ends the issue with a result: a next state in every case. -/
def Iss.finish (i : Iss) (s : State) (r : Res) : Out :=
  match r with
  | .done t => .next (t.settle i.k)
  | .hold c => .next (i.held s c)
  | .await fs => .next (i.held (s.touchPages i.w.wg fs) 2)
  | .bad f => .next (i.fault s f)

/-- The warp has issued: its wait restarts (R252), and the post-issue hint of the group, if it has an HSCHED, is recorded with the warp
(R47, R50). -/
def Iss.posted (i : Iss) (w : Warp) : Warp :=
  match i.hint.bind (fun h => h.hsched) with
  | none => { w with wait := 0 }
  | some p => { w with wait := 0, bump := bitsOf p.toNat 4 2, away := if p.getLsbD 0 then 1 else w.away }

/-- The lanes of the issuing set leave the instruction, and the warp is written back with its post-issue hint. -/
def Iss.leave (i : Iss) (s : State) (w : Warp) (m : Nat → Move) : State := s.setWarp i.k (i.posted (w.moveLanes i.code i.lanes m))

/-- The lanes of the issuing set wait at the instruction: they keep its hint state, which gives their resume PC (R365), and the
post-issue hint acts. -/
def Iss.parkLanes (i : Iss) (w : Warp) (p : Nat → Park) : Warp :=
  i.posted (w.modLanes i.lanes (fun l x => { x with park := p l, age := 0, blocked := 0 }))

/-- Every lane of the issuing set goes on to the next word. -/
def Iss.next (i : Iss) (s : State) (w : Warp) : Res := .done (i.leave s w (fun _ => .fall))

end Sys2Proof.Machine
end

