-- ==== Sys2Proof/Machine/Operands.lean ====
section
/-! DEFINITION. Operand specifiers and results (R20 to R23, R28, R29, R275), the hints as their instruction sees them (R45 to R51),
and the two frames every instruction word is executed in: at once (R86), or as a rendezvous (R259). -/

namespace Sys2Proof.Machine

/-! ### Reading -/

/-- The physical number of a named register under rotation (R275). -/
def Warp.physical (w : Warp) (n : Nat) : Nat :=
  if 32 ≤ n ∧ n < 48 then
    match w.levels.find? (fun v => v.active && v.rt) with
    | none => n
    | some v => 32 + (n - 32 + v.rrb.toNat) % 16
  else n

/-- The induction value of level k for the issue: INDEX, or the copy number inside a wrapper; 0 where inactive (R28, R291). -/
def Iss.ik (i : Iss) (k : Nat) : Nat :=
  let v := i.w.level k
  if !v.active then 0
  else if v.copies = 0 then v.index.toNat
  else (copyAt i.code.jig i.lead).getD v.index.toNat

/-- The HIMM words pending at the issue. -/
def Iss.himm (i : Iss) : List (BitVec 24) :=
  match i.hint with
  | none => []
  | some h => h.himm

/-- The HMOD payload pending at the issue. -/
def Iss.hmod (i : Iss) : BitVec 9 :=
  match i.hint with
  | none => 0
  | some h => h.hmod.getD 0

/-- Clean data. -/
def clean (v : Word) : RVal := { bits := v }

/-- What a specifier reads in lane l (R28, R29): low is the IMM field that an instruction with %himm and an immediate has. -/
def Iss.readSpec (i : Iss) (s : State) (low : Option (BitVec 10)) (l : Nat) (a : BitVec 7) : RVal :=
  let n := a.toNat
  let x := i.w.lane l
  let g := s.wg i.w.wg
  let nd := s.node g.node
  if n < 0x40 then mgetD x.regs (i.w.physical n) {}
  else if n < 0x50 then x.queue.getD (n - 0x40) {}
  else if n < 0x70 then mgetD i.w.s (n - 0x50) {}
  else clean (BitVec.ofNat 64
    (if n = 0x71 then l else if n = 0x72 then x.tid else if n = 0x73 then i.w.index else if n = 0x74 then g.index
     else if n = 0x75 then g.size else if n = 0x76 then i.w.core
     else if 0x77 ≤ n ∧ n ≤ 0x7A then i.ik (n - 0x77)
     else if n = 0x7B then 1 else if n = 0x7C then (himmValue i.himm low).toNat
     else if n = 0x7D then nd.argCopy else if n = 0x7E then nd.kernel.constVa else 0))

/-- Guard gk of a lane; g0 reads true (R23). -/
def Lane.guard (l : Lane) (k : BitVec 3) : Bool := k == 0 || l.guards.getLsbD k.toNat
/-- Writes guard gk, k from 1. -/
def Lane.setGuard (l : Lane) (k : BitVec 3) (v : Bool) : Lane :=
  { l with guards := if v then l.guards ||| (1#8 <<< k.toNat) else l.guards &&& ~~~(1#8 <<< k.toNat) }

/-! ### Writing -/

/-- Pushes onto the result queue: q15 is discarded (R21). -/
def Lane.pushQ (l : Lane) (v : RVal) : Lane := { l with queue := v :: l.queue.take 15 }

/-- Writes a named register of a lane by its physical number. -/
def Lane.setReg (l : Lane) (n : Nat) (v : RVal) : Lane := { l with regs := mput {} l.regs n v }

/-- A lane result: written to the named destination unless D = 63, and pushed (R21). -/
def Warp.result (w : Warp) (d : BitVec 6) (v : RVal) (l : Lane) : Lane :=
  (if d = 63 then l else l.setReg (w.physical d.toNat) v).pushQ v

/-- Writes uniform register sD. -/
def Warp.setS (w : Warp) (d : Nat) (v : RVal) : Warp := { w with s := mput {} w.s d v }

/-! ### The checks of R43 that stand outside decoding -/

/-- What an instruction word reads and lets its hints do. -/
structure Uses where
  /-- lane sources, read in every lane, or where the guard is true -/
  srcs  : List (BitVec 7) := []
  /-- sources that must be uniform, read once -/
  uni   : List (BitVec 7) := []
  /-- further sources that the word names and its own rule reads -/
  also  : List (BitVec 7) := []
  /-- the specifiers X + 1 that follow from those: no field of the word names them -/
  pair  : List (BitVec 7) := []
  /-- named lane destinations; 63 names none -/
  dst   : List (BitVec 6) := []
  /-- the conditioning guard -/
  guard : BitVec 3 := 0
  /-- the IMM or OFF field -/
  imm   : Option (BitVec 10) := none
  /-- RMEN, CPEN, NOFLAG of HMOD apply (R51) -/
  rm    : Bool := false
  cp    : Bool := false
  nf    : Bool := false
  /-- a SYS word takes no hint (R373) -/
  sys   : Bool := false
  /-- further conditions of checks 3 and 4 that depend on the hints -/
  legal : Bool := true
  /-- further conditions of check 5 -/
  opOk  : Bool := true
  /-- first register of a uniform block (R38) -/
  block : Option Nat := none

/-- The kernel's declared named count (R20). -/
def Iss.named (i : Iss) (s : State) : Nat := (s.nodeOf i.w).kernel.named

/-- A source specifier is legal (check 5 of R43). -/
def Iss.specOk (i : Iss) (s : State) (a : BitVec 7) : Bool :=
  a != 0x3F && a != 0x7F && (decide (0x40 ≤ a.toNat) || decide (a.toNat < i.named s)) && (a != 0x7C || i.himm != [])

/-- The specifier is uniform (R28). -/
def isUniform (a : BitVec 7) : Bool := decide (0x50 ≤ a.toNat ∧ a.toNat < 0x7F) && a != 0x71 && a != 0x72

/-- An HMOD payload keeps R51: it sets an enable, RM and CPOL hold 0 while their enables do, and neither holds a reserved code. -/
def modLegal (m : BitVec 9) : Bool :=
  (m.getLsbD 8 || m.getLsbD 7 || m.getLsbD 3)
    && decide (m.toNat % 8 < 5) && decide (m.toNat / 16 % 8 < 4)
    && (m.getLsbD 3 || decide (m.toNat % 8 = 0)) && (m.getLsbD 7 || decide (m.toNat / 16 % 8 = 0))

/-- The hint rules for the group's instruction: check 4 of R43 (R49, R51, R373). -/
def Iss.hintOk (i : Iss) (u : Uses) : Bool :=
  match i.hint with
  | none => true
  | some h =>
    !u.sys && (h.himm == [] || u.imm.isSome || (u.srcs ++ u.uni ++ u.also).elem 0x7C)
      && (match h.hmod with
          | none => true
          | some m => modLegal m && (!m.getLsbD 3 || u.rm) && (!m.getLsbD 7 || u.cp) && (!m.getLsbD 8 || u.nf))

/-- Checks 4 and 5 of R43 for the issue. -/
def Iss.check (i : Iss) (s : State) (u : Uses) : Option FaultInfo :=
  if !(i.hintOk u && u.legal) then some (i.illegal s)
  else if (u.srcs ++ u.uni ++ u.also ++ u.pair).all (i.specOk s) && u.uni.all isUniform && u.opOk
      && u.dst.all (fun d => d == 63 || decide (d.toNat < i.named s)) then none
  else some { i.operand s with kind := if u.block.isSome then 7 else 0, idx := u.block.getD 0 }

/-- Whether the operands can be read: an entry whose load has not returned holds the issue (R21, R86, R317); a poisoned one faults
in the lanes that read it (R184). -/
def Iss.ready (i : Iss) (s : State) (u : Uses) : Option Res :=
  let ls := i.lanes.filter (fun l => (i.w.lane l).guard u.guard)
  let us := u.uni.map (i.readSpec s u.imm (i.lanes.headD 0))
  if us.any (fun v => v.pend.isSome) || ls.any (fun l => u.srcs.any (fun a => (i.readSpec s u.imm l a).pend.isSome)) then
    some (.hold 2)
  else if us.any (fun v => v.poison) then some (.bad { cls := 0x11, lanes := i.lanes })
  else
    match ls.filter (fun l => u.srcs.any (fun a => (i.readSpec s u.imm l a).poison)) with
    | [] => none
    | bad => some (.bad { cls := 0x11, lanes := bad })

/-- The frame of an instruction that issues at once (R86). -/
def atIssue (s : State) (u : Iss → Uses) (body : Iss → Res) : Out :=
  match s.issue with
  | none => .fault .noWarp
  | some i =>
    i.finish s (match i.check s (u i) with
      | some f => .bad f
      | none =>
        match i.ready s (u i) with
        | some r => r
        | none => body i)

/-- The 64 bits a lane source reads. -/
def Iss.val (i : Iss) (s : State) (l : Nat) (a : BitVec 7) : Word := (i.readSpec s none l a).bits
/-- The 64 bits a uniform source reads. -/
def Iss.uval (i : Iss) (s : State) (a : BitVec 7) : Word := (i.readSpec s none (i.lanes.headD 0) a).bits
/-- The immediate in force: the field's, or a HIMM group's (R49). -/
def Iss.imm (i : Iss) (v : BitVec 10) : Word := himmValue i.himm (some v)

/-! ### Rendezvous (R259, R410) -/

/-- Parks the issuing lanes at a rendezvous over kj; they keep their hint state (R410). -/
def Iss.parkAt (i : Iss) (j : Nat) : Warp :=
  { i.w.modLanes i.lanes (fun _ x => { x with park := .rendezvous j, age := 0 }) with wait := 0 }

/-- Issues the rendezvous of one sub-group, when it is complete: once for the whole rendezvous set. -/
def rendezvousSet (k : Nat) (l : Nat) (u : Iss → Uses) (body : State → Iss → Res) (acc : State × Bool) : State × Bool :=
  match acc with
  | (s, true) => (s, true)
  | (s, false) =>
    match s.warp k with
    | none => (s, true)
    | some w =>
      if !(w.complete (s.code w) l) then (s, false)
      else
        let i : Iss := { k := k, w := w, lanes := (match (w.lane l).park with | .rendezvous j => w.subgroup j l | _ => [l]), led := l,
                         code := s.code w, hint := (w.lane l).hint }
        match (match i.check s (u i) with
          | some f => Res.bad f
          | none =>
            match i.ready s (u i) with
            | some r => r
            | none => body s i) with
        | .done t => (t, false)
        | .hold c => (i.held s c, false)
        | .await fs => (i.held (s.touchPages w.wg fs) 2, false)
        | .bad f => (i.fault s f, true)

/-- The frame of a rendezvous instruction: a set that reaches it is decoded and parks; each complete sub-group issues once (R259). -/
def atRendezvous (s : State) (j : Nat) (u : Iss → Uses) (body : State → Iss → Res) : Out :=
  match s.issue with
  | none => .fault .noWarp
  | some i =>
    match i.check s (u i) with
    | some f => .next (i.fault s f)
    | none =>
      let w := i.parkAt j
      let s1 := s.setWarp i.k w
      let g := w.groupSize j
      let reps := (List.range (32 / g)).filterMap (fun q => (i.lanes.filter (fun l => l / g == q)).head?)
      .next (((reps.foldl (fun acc l => rendezvousSet i.k l u body acc) (s1, false)).1).settle i.k)

/-! ### The common shapes -/

/-- A lane instruction that computes one 64-bit result from lane sources and pushes it (R21, R86, R87). -/
def laneResult (s : State) (d : BitVec 6) (u : Iss → Uses) (f : Iss → Nat → Word) : Out :=
  atIssue s u (fun i => i.next s (i.w.modLanes i.lanes (fun l x => i.w.result d (clean (f i l)) x)))

/-- A lane instruction that sets a guard and pushes nothing (R91). -/
def laneGuard (s : State) (g : BitVec 3) (u : Iss → Uses) (f : Iss → Nat → Bool) : Out :=
  atIssue s u (fun i => i.next s (i.w.modLanes i.lanes (fun l x => x.setGuard g (f i l))))

/-- A uniform instruction: computed once per issue into sD, nothing pushed (R95, R96). -/
def uniformResult (s : State) (d : BitVec 5) (u : Iss → Uses) (f : Iss → Word) : Out :=
  atIssue s u (fun i => i.next s (i.w.setS d.toNat (clean (f i))))

end Sys2Proof.Machine
end

