-- ==== Sys2Proof/Machine/Flags.lean ====
section
/-! DEFINITION. FLAGS, AMAX and AMAXNAN: how an operation updates them (R82 to R85), and the frames of the floating-point
instructions. -/

namespace Sys2Proof.Machine

/-- AMAX and AMAXNAN after an FP32 input of an updating operation (R85). -/
def amaxStep (m : BitVec 32 × Bool) (v : Nat) : BitVec 32 × Bool :=
  if (fval fp32 v).isNan then (m.1, true)
  else if m.1.toNat < v % 2 ^ 31 then (BitVec.ofNat 32 (v % 2 ^ 31), m.2) else m

/-- The indivisible updates of an operation on a warp's FLAGS, AMAX and AMAXNAN (R83). -/
def Warp.raise (w : Warp) (fl : FlagBits) (vs : List Nat) : Warp :=
  let m := vs.foldl amaxStep (w.amax, w.amaxnan)
  { w with flags := w.flags ||| fl, amax := m.1, amaxnan := m.2 }

/-- The warp that an engine operation's update goes to: the one that holds the issuing warp's slot in its workgroup (R83). -/
def State.raiseOn (s : State) (wg index : Nat) (fl : FlagBits) (vs : List Nat) : State :=
  match s.warps.find? (fun e => e.2.wg == wg && e.2.index == index && !e.2.ended) with
  | none => s
  | some e => s.modWarp e.1 (fun w => w.raise fl vs)

/-- The rounding mode in force for the issue: RNE, or the HMOD's (R51, R71). -/
def Iss.rm (i : Iss) : Rm := if i.hmod.getLsbD 3 then rmOf (bitsOf i.hmod.toNat 0 3) else .rne

/-- NOFLAG is set for the issue (R51). -/
def Iss.noflag (i : Iss) : Bool := i.hmod.getLsbD 8

/-- What one lane of a floating-point instruction gives: the register image, its flags, and the FP32 value that updates AMAX. -/
structure LaneOut where
  bits  : Nat
  flags : FlagBits := 0
  amax  : List Nat := []
deriving DecidableEq, Repr

/-- The flags of the issuing lanes together, unless NOFLAG. -/
def Iss.raised (i : Iss) (f : Nat → LaneOut) : FlagBits :=
  if i.noflag then 0 else i.lanes.foldl (fun a l => a ||| (f l).flags) 0

/-- A floating-point instruction that pushes a result in each lane (R100). -/
def floatResult (s : State) (d : BitVec 6) (srcs : List (BitVec 7)) (rm nf : Bool) (f : Iss → Nat → LaneOut) : Out :=
  atIssue s (fun _ => { srcs := srcs, dst := [d], rm := rm, nf := nf }) (fun i =>
    i.next s ((i.w.modLanes i.lanes (fun l x => i.w.result d (clean (BitVec.ofNat 64 (f i l).bits)) x)).raise
      (i.raised (f i)) (i.lanes.flatMap (fun l => (f i l).amax))))

/-- A floating-point compare that writes a guard (R107). -/
def floatGuard (s : State) (g : BitVec 3) (srcs : List (BitVec 7)) (f : Iss → Nat → Bool × FlagBits) : Out :=
  atIssue s (fun _ => { srcs := srcs, nf := true }) (fun i =>
    i.next s ((i.w.modLanes i.lanes (fun l x => x.setGuard g (f i l).1)).raise
      (i.raised (fun l => { bits := 0, flags := (f i l).2 })) []))

end Sys2Proof.Machine
end

