-- ==== Sys2Proof/Machine/Integer.lean ====
section
/-! DEFINITION. Integer, compare, select and uniform instructions (R86 to R97). -/

namespace Sys2Proof.Machine

/-! ### The arithmetic of R89 -/

/-- A function of R88 on 64 bits, or on 32 with the result sign-extended. -/
def atWidth (w : BitVec 1) (f : {n : Nat} → BitVec n → BitVec n → BitVec n) (a b : Word) : Word :=
  if w = 1 then (f (a.setWidth 32) (b.setWidth 32)).signExtend 64 else f a b

/-- The shift count: the low 6 bits of y, or the low 5 at 32 bits. -/
def shiftCount {n : Nat} (y : BitVec n) : Nat := y.toNat % n

/-- Leading zeros of an n-bit pattern; n for 0. -/
def clz {n : Nat} (x : BitVec n) : Nat :=
  ((List.range n).reverse.takeWhile (fun i => !x.getLsbD i)).length
/-- Trailing zeros; n for 0. -/
def ctz {n : Nat} (x : BitVec n) : Nat := ((List.range n).takeWhile (fun i => !x.getLsbD i)).length

def fnAdd {n : Nat} (x y : BitVec n) : BitVec n := x + y
def fnSub {n : Nat} (x y : BitVec n) : BitVec n := x - y
def fnMul {n : Nat} (x y : BitVec n) : BitVec n := x * y
def fnMulhu {n : Nat} (x y : BitVec n) : BitVec n := BitVec.ofNat n (x.toNat * y.toNat / 2 ^ n)
def fnMin {n : Nat} (x y : BitVec n) : BitVec n := if x.toInt < y.toInt then x else y
def fnMax {n : Nat} (x y : BitVec n) : BitVec n := if x.toInt > y.toInt then x else y
def fnMinu {n : Nat} (x y : BitVec n) : BitVec n := if x.toNat < y.toNat then x else y
def fnMaxu {n : Nat} (x y : BitVec n) : BitVec n := if x.toNat > y.toNat then x else y
def fnDivu {n : Nat} (x y : BitVec n) : BitVec n := if y = 0 then BitVec.allOnes n else BitVec.ofNat n (x.toNat / y.toNat)
def fnRemu {n : Nat} (x y : BitVec n) : BitVec n := if y = 0 then x else BitVec.ofNat n (x.toNat % y.toNat)
def fnAnd {n : Nat} (x y : BitVec n) : BitVec n := x &&& y
def fnOr {n : Nat} (x y : BitVec n) : BitVec n := x ||| y
def fnXor {n : Nat} (x y : BitVec n) : BitVec n := x ^^^ y
def fnAndn {n : Nat} (x y : BitVec n) : BitVec n := x &&& ~~~y
def fnShl {n : Nat} (x y : BitVec n) : BitVec n := x <<< shiftCount y
def fnShr {n : Nat} (x y : BitVec n) : BitVec n := x >>> shiftCount y
def fnSar {n : Nat} (x y : BitVec n) : BitVec n := x.sshiftRight (shiftCount y)
def fnPopc {n : Nat} (x _y : BitVec n) : BitVec n := BitVec.ofNat n (popcount x)
def fnClz {n : Nat} (x _y : BitVec n) : BitVec n := BitVec.ofNat n (clz x)
def fnCtz {n : Nat} (x _y : BitVec n) : BitVec n := BitVec.ofNat n (ctz x)
/-- BFX: the field at the shift count, of length y[14:8], within the width. -/
def fnBfx {n : Nat} (x y : BitVec n) : BitVec n :=
  let pos := shiftCount y
  BitVec.ofNat n (x.toNat / 2 ^ pos % 2 ^ Nat.min (bitsOf y.toNat 8 7) (n - pos))

/-- An IALU or ILOGIC function of two lane sources. -/
def alu (d : BitVec 6) (a b : BitVec 7) (w : BitVec 1) (f : {n : Nat} → BitVec n → BitVec n → BitVec n) (s : State) : Out :=
  laneResult s d (fun _ => { srcs := [a, b], dst := [d] }) (fun i l => atWidth w f (i.val s l a) (i.val s l b))
/-- One of a single source. -/
def alu1 (d : BitVec 6) (a : BitVec 7) (w : BitVec 1) (f : {n : Nat} → BitVec n → BitVec n → BitVec n) (s : State) : Out :=
  laneResult s d (fun _ => { srcs := [a], dst := [d] }) (fun i l => atWidth w f (i.val s l a) 0)

/-- ADD (R89). -/
def execAdd (d : BitVec 6) (a b : BitVec 7) (w : BitVec 1) (s : State) : Out := alu d a b w fnAdd s
/-- SUB (R89). -/
def execSub (d : BitVec 6) (a b : BitVec 7) (w : BitVec 1) (s : State) : Out := alu d a b w fnSub s
/-- MUL (R89). -/
def execMul (d : BitVec 6) (a b : BitVec 7) (w : BitVec 1) (s : State) : Out := alu d a b w fnMul s
/-- MULHU (R89). -/
def execMulhu (d : BitVec 6) (a b : BitVec 7) (w : BitVec 1) (s : State) : Out := alu d a b w fnMulhu s
/-- MIN (R89). -/
def execMin (d : BitVec 6) (a b : BitVec 7) (w : BitVec 1) (s : State) : Out := alu d a b w fnMin s
/-- MAX (R89). -/
def execMax (d : BitVec 6) (a b : BitVec 7) (w : BitVec 1) (s : State) : Out := alu d a b w fnMax s
/-- MINU (R89). -/
def execMinu (d : BitVec 6) (a b : BitVec 7) (w : BitVec 1) (s : State) : Out := alu d a b w fnMinu s
/-- MAXU (R89). -/
def execMaxu (d : BitVec 6) (a b : BitVec 7) (w : BitVec 1) (s : State) : Out := alu d a b w fnMaxu s
/-- DIVU (R89): all ones on division by zero. -/
def execDivu (d : BitVec 6) (a b : BitVec 7) (w : BitVec 1) (s : State) : Out := alu d a b w fnDivu s
/-- REMU (R89): the dividend on division by zero. -/
def execRemu (d : BitVec 6) (a b : BitVec 7) (w : BitVec 1) (s : State) : Out := alu d a b w fnRemu s
/-- AND (R89). -/
def execAnd (d : BitVec 6) (a b : BitVec 7) (w : BitVec 1) (s : State) : Out := alu d a b w fnAnd s
/-- OR (R89). -/
def execOr (d : BitVec 6) (a b : BitVec 7) (w : BitVec 1) (s : State) : Out := alu d a b w fnOr s
/-- XOR (R89). -/
def execXor (d : BitVec 6) (a b : BitVec 7) (w : BitVec 1) (s : State) : Out := alu d a b w fnXor s
/-- ANDN (R89). -/
def execAndn (d : BitVec 6) (a b : BitVec 7) (w : BitVec 1) (s : State) : Out := alu d a b w fnAndn s
/-- SHL (R89). -/
def execShl (d : BitVec 6) (a b : BitVec 7) (w : BitVec 1) (s : State) : Out := alu d a b w fnShl s
/-- SHR (R89). -/
def execShr (d : BitVec 6) (a b : BitVec 7) (w : BitVec 1) (s : State) : Out := alu d a b w fnShr s
/-- SAR (R89). -/
def execSar (d : BitVec 6) (a b : BitVec 7) (w : BitVec 1) (s : State) : Out := alu d a b w fnSar s
/-- POPC (R89). -/
def execPopc (d : BitVec 6) (a : BitVec 7) (w : BitVec 1) (s : State) : Out := alu1 d a w fnPopc s
/-- CLZ (R89). -/
def execClz (d : BitVec 6) (a : BitVec 7) (w : BitVec 1) (s : State) : Out := alu1 d a w fnClz s
/-- CTZ (R89). -/
def execCtz (d : BitVec 6) (a : BitVec 7) (w : BitVec 1) (s : State) : Out := alu1 d a w fnCtz s
/-- BFX (R89). -/
def execBfx (d : BitVec 6) (a b : BitVec 7) (w : BitVec 1) (s : State) : Out := alu d a b w fnBfx s

/-! ### Compares (R90, R91) -/

/-- 1 or 0. -/
def flagWord (c : Bool) : Word := if c then 1 else 0

/-- A register compare. -/
def compare (d : BitVec 6) (a b : BitVec 7) (f : Word → Word → Bool) (s : State) : Out :=
  laneResult s d (fun _ => { srcs := [a, b], dst := [d] }) (fun i l => flagWord (f (i.val s l a) (i.val s l b)))
/-- A guard compare. -/
def compareGuard (g : BitVec 3) (a b : BitVec 7) (f : Word → Word → Bool) (s : State) : Out :=
  laneGuard s g (fun _ => { srcs := [a, b] }) (fun i l => f (i.val s l a) (i.val s l b))
/-- A lane source beside an immediate: %himm in it reads the value the immediate takes (R49). -/
def Iss.valImm (i : Iss) (s : State) (l : Nat) (a : BitVec 7) (m : BitVec 10) : Word := (i.readSpec s (some m) l a).bits
/-- A register compare with an immediate. -/
def compareImm (d : BitVec 6) (a : BitVec 7) (m : BitVec 10) (f : Word → Word → Bool) (s : State) : Out :=
  laneResult s d (fun _ => { srcs := [a], dst := [d], imm := some m }) (fun i l => flagWord (f (i.valImm s l a m) (i.imm m)))
/-- A guard compare with an immediate. -/
def compareGuardImm (g : BitVec 3) (a : BitVec 7) (m : BitVec 10) (f : Word → Word → Bool) (s : State) : Out :=
  laneGuard s g (fun _ => { srcs := [a], imm := some m }) (fun i l => f (i.valImm s l a m) (i.imm m))

/-- a = b. -/
def isEq (a b : Word) : Bool := a == b
/-- a ≠ b. -/
def isNe (a b : Word) : Bool := a != b
/-- a < b, signed. -/
def isLt (a b : Word) : Bool := decide (a.toInt < b.toInt)
/-- a ≤ b, signed. -/
def isLe (a b : Word) : Bool := decide (a.toInt ≤ b.toInt)
/-- a < b, unsigned. -/
def isLtu (a b : Word) : Bool := decide (a.toNat < b.toNat)
/-- a ≤ b, unsigned. -/
def isLeu (a b : Word) : Bool := decide (a.toNat ≤ b.toNat)

/-- CEQ (R90). -/
def execCeq (d : BitVec 6) (a b : BitVec 7) (s : State) : Out := compare d a b isEq s
/-- CLT (R90). -/
def execClt (d : BitVec 6) (a b : BitVec 7) (s : State) : Out := compare d a b isLt s
/-- CLTU (R90). -/
def execCltu (d : BitVec 6) (a b : BitVec 7) (s : State) : Out := compare d a b isLtu s
/-- GEQ (R91). -/
def execGeq (g : BitVec 3) (a b : BitVec 7) (s : State) : Out := compareGuard g a b isEq s
/-- GNE (R91). -/
def execGne (g : BitVec 3) (a b : BitVec 7) (s : State) : Out := compareGuard g a b isNe s
/-- GLT (R91). -/
def execGlt (g : BitVec 3) (a b : BitVec 7) (s : State) : Out := compareGuard g a b isLt s
/-- GLE (R91). -/
def execGle (g : BitVec 3) (a b : BitVec 7) (s : State) : Out := compareGuard g a b isLe s
/-- GLTU (R91). -/
def execGltu (g : BitVec 3) (a b : BitVec 7) (s : State) : Out := compareGuard g a b isLtu s
/-- GLEU (R91). -/
def execGleu (g : BitVec 3) (a b : BitVec 7) (s : State) : Out := compareGuard g a b isLeu s
/-- GAND (R91). -/
def execGand (g h j : BitVec 3) (s : State) : Out :=
  laneGuard s g (fun _ => {}) (fun i l => (i.w.lane l).guard h && (i.w.lane l).guard j)
/-- GOR (R91). -/
def execGor (g h j : BitVec 3) (s : State) : Out :=
  laneGuard s g (fun _ => {}) (fun i l => (i.w.lane l).guard h || (i.w.lane l).guard j)
/-- GNOT (R91). -/
def execGnot (g h : BitVec 3) (s : State) : Out := laneGuard s g (fun _ => {}) (fun i l => !(i.w.lane l).guard h)
/-- CEQI (R90). -/
def execCeqi (d : BitVec 6) (a : BitVec 7) (i : BitVec 10) (s : State) : Out := compareImm d a i isEq s
/-- CLTI (R90). -/
def execClti (d : BitVec 6) (a : BitVec 7) (i : BitVec 10) (s : State) : Out := compareImm d a i isLt s
/-- GEQI (R91). -/
def execGeqi (g : BitVec 3) (a : BitVec 7) (i : BitVec 10) (s : State) : Out := compareGuardImm g a i isEq s
/-- GNEI (R91). -/
def execGnei (g : BitVec 3) (a : BitVec 7) (i : BitVec 10) (s : State) : Out := compareGuardImm g a i isNe s
/-- GLTI (R91). -/
def execGlti (g : BitVec 3) (a : BitVec 7) (i : BitVec 10) (s : State) : Out := compareGuardImm g a i isLt s

/-! ### Three sources (R92) -/

/-- The specifier of queue entry qC. -/
def queueSpec (c : BitVec 4) : BitVec 7 := 0x40#7 ||| c.setWidth 7

/-- A function of a, b and a queue entry. -/
def lane3 (d : BitVec 6) (a b : BitVec 7) (c : BitVec 4) (f : Word → Word → Word → Word) (s : State) : Out :=
  laneResult s d (fun _ => { srcs := [a, b, queueSpec c], dst := [d] })
    (fun i l => f (i.val s l a) (i.val s l b) (i.val s l (queueSpec c)))

/-- MAD.w: on 32 bits, sign-extended. -/
def fnMadW (a b c : Word) : Word := (a.setWidth 32 * b.setWidth 32 + c.setWidth 32).signExtend 64
/-- MAD.d. -/
def fnMadD (a b c : Word) : Word := a * b + c
/-- SHADD. -/
def fnShadd (a b c : Word) : Word := (a <<< (b.toNat % 64)) + c
/-- BFI: position b[5:0], length b[14:8], within 64 bits. -/
def fnBfi (a b c : Word) : Word :=
  let pos := b.toNat % 64
  let mask := BitVec.ofNat 64 ((2 ^ Nat.min (bitsOf b.toNat 8 7) (64 - pos) - 1) * 2 ^ pos)
  (c &&& ~~~mask) ||| ((a <<< pos) &&& mask)

/-- MAD_W (R92). -/
def execMadW (d : BitVec 6) (a b : BitVec 7) (c : BitVec 4) (s : State) : Out := lane3 d a b c fnMadW s
/-- MAD_D (R92). -/
def execMadD (d : BitVec 6) (a b : BitVec 7) (c : BitVec 4) (s : State) : Out := lane3 d a b c fnMadD s
/-- SHADD (R92). -/
def execShadd (d : BitVec 6) (a b : BitVec 7) (c : BitVec 4) (s : State) : Out := lane3 d a b c fnShadd s
/-- BFI (R92). -/
def execBfi (d : BitVec 6) (a b : BitVec 7) (c : BitVec 4) (s : State) : Out := lane3 d a b c fnBfi s

/-! ### Immediates (R93) -/

/-- A function of a lane source and the immediate. -/
def laneImm (d : BitVec 6) (a : BitVec 7) (m : BitVec 10) (f : Word → Word → Word) (s : State) : Out :=
  laneResult s d (fun _ => { srcs := [a], dst := [d], imm := some m }) (fun i l => f (i.valImm s l a m) (i.imm m))
/-- A shift by the immediate: any value outside 0 to 63 is an illegal instruction. -/
def laneShift (d : BitVec 6) (a : BitVec 7) (m : BitVec 10) (f : Word → Nat → Word) (s : State) : Out :=
  laneResult s d (fun i => { srcs := [a], dst := [d], imm := some m, legal := decide ((i.imm m).toNat < 64) })
    (fun i l => f (i.valImm s l a m) (i.imm m).toNat)

/-- ADDI (R93). -/
def execAddi (d : BitVec 6) (a : BitVec 7) (i : BitVec 10) (s : State) : Out := laneImm d a i (fun x v => x + v) s
/-- ANDI (R93). -/
def execAndi (d : BitVec 6) (a : BitVec 7) (i : BitVec 10) (s : State) : Out := laneImm d a i (fun x v => x &&& v) s
/-- ORI (R93). -/
def execOri (d : BitVec 6) (a : BitVec 7) (i : BitVec 10) (s : State) : Out := laneImm d a i (fun x v => x ||| v) s
/-- XORI (R93). -/
def execXori (d : BitVec 6) (a : BitVec 7) (i : BitVec 10) (s : State) : Out := laneImm d a i (fun x v => x ^^^ v) s
/-- SHLI (R93). -/
def execShli (d : BitVec 6) (a : BitVec 7) (i : BitVec 10) (s : State) : Out := laneShift d a i (fun x v => x <<< v) s
/-- SHRI (R93). -/
def execShri (d : BitVec 6) (a : BitVec 7) (i : BitVec 10) (s : State) : Out := laneShift d a i (fun x v => x >>> v) s
/-- SARI (R93). -/
def execSari (d : BitVec 6) (a : BitVec 7) (i : BitVec 10) (s : State) : Out := laneShift d a i (fun x v => x.sshiftRight v) s

/-! ### Select (R94) -/

/-- SEL (R94). -/
def execSel (d : BitVec 6) (a b : BitVec 7) (g : BitVec 3) (s : State) : Out :=
  laneResult s d (fun _ => { srcs := [a, b], dst := [d] })
    (fun i l => if (i.w.lane l).guard g then i.val s l a else i.val s l b)
/-- SELN (R94). -/
def execSeln (d : BitVec 6) (a b : BitVec 7) (g : BitVec 3) (s : State) : Out :=
  laneResult s d (fun _ => { srcs := [a, b], dst := [d] })
    (fun i l => if (i.w.lane l).guard g then i.val s l b else i.val s l a)

/-! ### Uniform instructions (R95, R96) -/

/-- A UALU function. -/
def ualu (d : BitVec 5) (a b : BitVec 7) (f : Word → Word → Word) (s : State) : Out :=
  uniformResult s d (fun _ => { uni := [a, b] }) (fun i => f (i.uval s a) (i.uval s b))
/-- A uniform source beside an immediate. -/
def Iss.uvalImm (i : Iss) (s : State) (a : BitVec 7) (m : BitVec 10) : Word := (i.readSpec s (some m) (i.lanes.headD 0) a).bits
/-- A UIMM function. -/
def uimm (d : BitVec 5) (a : BitVec 7) (m : BitVec 10) (f : Word → Word → Word) (s : State) : Out :=
  uniformResult s d (fun _ => { uni := [a], imm := some m }) (fun i => f (i.uvalImm s a m) (i.imm m))
/-- A UIMM shift: the immediate must lie in 0 to 63. -/
def uimmShift (d : BitVec 5) (a : BitVec 7) (m : BitVec 10) (f : Word → Nat → Word) (s : State) : Out :=
  uniformResult s d (fun i => { uni := [a], imm := some m, legal := decide ((i.imm m).toNat < 64) })
    (fun i => f (i.uvalImm s a m) (i.imm m).toNat)

/-- UADD (R95). The mark S changes nothing at run time. -/
def execUadd (_s : BitVec 1) (d : BitVec 5) (a b : BitVec 7) (s : State) : Out := ualu d a b fnAdd s
/-- USUB (R95). -/
def execUsub (_s : BitVec 1) (d : BitVec 5) (a b : BitVec 7) (s : State) : Out := ualu d a b fnSub s
/-- UMUL (R95). -/
def execUmul (_s : BitVec 1) (d : BitVec 5) (a b : BitVec 7) (s : State) : Out := ualu d a b fnMul s
/-- UMIN (R95). -/
def execUmin (_s : BitVec 1) (d : BitVec 5) (a b : BitVec 7) (s : State) : Out := ualu d a b fnMin s
/-- UMAX (R95): b where they are equal, which is a. -/
def execUmax (_s : BitVec 1) (d : BitVec 5) (a b : BitVec 7) (s : State) : Out := ualu d a b fnMax s
/-- UAND (R95). -/
def execUand (_s : BitVec 1) (d : BitVec 5) (a b : BitVec 7) (s : State) : Out := ualu d a b fnAnd s
/-- UOR (R95). -/
def execUor (_s : BitVec 1) (d : BitVec 5) (a b : BitVec 7) (s : State) : Out := ualu d a b fnOr s
/-- USHL (R95). -/
def execUshl (_s : BitVec 1) (d : BitVec 5) (a b : BitVec 7) (s : State) : Out := ualu d a b fnShl s
/-- USHR (R95). -/
def execUshr (_s : BitVec 1) (d : BitVec 5) (a b : BitVec 7) (s : State) : Out := ualu d a b fnShr s
/-- UCEQ (R95). -/
def execUceq (_s : BitVec 1) (d : BitVec 5) (a b : BitVec 7) (s : State) : Out := ualu d a b (fun x y => flagWord (isEq x y)) s
/-- UCLT (R95). -/
def execUclt (_s : BitVec 1) (d : BitVec 5) (a b : BitVec 7) (s : State) : Out := ualu d a b (fun x y => flagWord (isLt x y)) s
/-- UCLTU (R95). -/
def execUcltu (_s : BitVec 1) (d : BitVec 5) (a b : BitVec 7) (s : State) : Out := ualu d a b (fun x y => flagWord (isLtu x y)) s
/-- UDIVU (R95). -/
def execUdivu (_s : BitVec 1) (d : BitVec 5) (a b : BitVec 7) (s : State) : Out := ualu d a b fnDivu s
/-- UADDI (R95). -/
def execUaddi (_s : BitVec 1) (d : BitVec 5) (a : BitVec 7) (i : BitVec 10) (s : State) : Out := uimm d a i fnAdd s
/-- UANDI (R95). -/
def execUandi (_s : BitVec 1) (d : BitVec 5) (a : BitVec 7) (i : BitVec 10) (s : State) : Out := uimm d a i fnAnd s
/-- USHLI (R95). -/
def execUshli (_s : BitVec 1) (d : BitVec 5) (a : BitVec 7) (i : BitVec 10) (s : State) : Out := uimmShift d a i (fun x v => x <<< v) s
/-- USHRI (R95). -/
def execUshri (_s : BitVec 1) (d : BitVec 5) (a : BitVec 7) (i : BitVec 10) (s : State) : Out := uimmShift d a i (fun x v => x >>> v) s
/-- UCEQI (R95). -/
def execUceqi (_s : BitVec 1) (d : BitVec 5) (a : BitVec 7) (i : BitVec 10) (s : State) : Out :=
  uimm d a i (fun x y => flagWord (isEq x y)) s
/-- UCLTI (R95). -/
def execUclti (_s : BitVec 1) (d : BitVec 5) (a : BitVec 7) (i : BitVec 10) (s : State) : Out :=
  uimm d a i (fun x y => flagWord (isLt x y)) s

/-! ### From lanes to a uniform register (R97) -/

/-- A UX instruction reads the source of one virtual lane; none reads 0. An entry not yet filled holds, a poisoned one faults in
that lane. -/
def ux (d : BitVec 5) (a : BitVec 7) (uni : List (BitVec 7)) (pick : Iss → Option Nat) (s : State) : Out :=
  atIssue s (fun _ => { uni := uni, also := [a] }) (fun i =>
    match pick i with
    | none => i.next s (i.w.setS d.toNat (clean 0))
    | some l =>
      let v := i.readSpec s none l a
      if v.pend.isSome then .hold 2
      else if v.poison then .bad { cls := 0x11, lanes := [l] }
      else i.next s (i.w.setS d.toNat v))

/-- UREADL (R97): virtual lane b[4:0] of the issuing set, else 0. -/
def execUreadl (d : BitVec 5) (a b : BitVec 7) (s : State) : Out :=
  ux d a [b] (fun i => let v := (i.uval s b).toNat % 32; if i.lanes.elem v then some v else none) s
/-- UFIRST (R97): the lowest virtual lane of the issuing set. -/
def execUfirst (d : BitVec 5) (a : BitVec 7) (s : State) : Out := ux d a [] (fun i => i.lanes.head?) s

end Sys2Proof.Machine
end

