-- ==== Sys2Proof/Machine/Special.lean ====
section
/-! DEFINITION. The special-function unit (R108 to R110): the ten functions of an exact dyadic argument, rounded to FP32; the fast
grade's reduction, interpolation and reconstruction. RCP, RSQ and SQRT are exact quotients and integer roots. The other functions
are computed in fixed point, 640 bits after the point, with an error below 2^-400. -/

namespace Sys2Proof.Machine

/-! ### Fixed point: n stands for n / 2^640 -/

/-- The number 1. -/
def fxOne : Nat := 2 ^ 640
/-- Product. -/
def fxMul (a b : Nat) : Nat := a * b / 2 ^ 640
/-- Quotient. -/
def fxDiv (a b : Nat) : Nat := a * 2 ^ 640 / b
/-- A dyadic number m * 2^e. -/
def fxOf (m : Nat) (e : Int) : Nat :=
  let x := scaled m 1 (e + 640)
  x.1 / x.2

/-- Sum of z^(2k+1) / (2k+1) from k, with alternating signs where alt: t is z^(2k+1). -/
def fxAtanSum (alt : Bool) (z2 : Nat) (fuel k t : Nat) (acc : Int) : Int :=
  match fuel with
  | 0 => acc
  | f + 1 =>
    let term : Int := ((t / (2 * k + 1) : Nat) : Int)
    fxAtanSum alt z2 f (k + 1) (fxMul t z2) (if alt ∧ k % 2 = 1 then acc - term else acc + term)

/-- artanh z. -/
def fxAtanh (z : Nat) : Nat := (fxAtanSum false (fxMul z z) 220 0 z 0).toNat
/-- arctan of 1 / n. -/
def fxAtanInv (n : Nat) : Nat := (fxAtanSum true (fxOne / (n * n)) 150 0 (fxOne / n) 0).toNat
/-- ln 2, as 2 artanh(1/3). -/
def fxLn2 : Nat := 2 * fxAtanh (fxOne / 3)
/-- π, as 16 arctan(1/5) - 4 arctan(1/239). -/
def fxPi : Nat := 16 * fxAtanInv 5 - 4 * fxAtanInv 239

/-- Sum of y^k / k! from a term on. -/
def fxExpSum (y : Nat) (fuel k t acc : Nat) : Nat :=
  match fuel with
  | 0 => acc
  | f + 1 => fxExpSum y f (k + 1) (fxMul t y / k) (acc + t)

/-- e^y for y from 0 to 1. -/
def fxExp (y : Nat) : Nat := fxExpSum y 140 1 fxOne 0

/-- e^-v: 2^-n e^r with r = n ln 2 - v. -/
def fxExpNeg (v : Nat) : Nat :=
  let n := v / fxLn2 + 1
  fxExp (n * fxLn2 - v) / 2 ^ n

/-- sin y for y from 0 to 2. -/
def fxSin (y : Nat) : Nat :=
  let y2 := fxMul y y
  ((List.range 75).foldl (fun (p : Nat × Int) k =>
    (fxMul p.1 y2 / ((2 * k + 2) * (2 * k + 3)), if k % 2 = 0 then p.2 + (p.1 : Int) else p.2 - (p.1 : Int))) (y, 0)).2.toNat

/-- floor of the square root, bit by bit from 2^k down. -/
def isqrtFrom (n k r : Nat) : Nat :=
  match k with
  | 0 => if (r + 1) * (r + 1) ≤ n then r + 1 else r
  | j + 1 => isqrtFrom n j (if (r + 2 ^ (j + 1)) * (r + 2 ^ (j + 1)) ≤ n then r + 2 ^ (j + 1) else r)

/-- floor of the square root. -/
def isqrt (n : Nat) : Nat := isqrtFrom n (Nat.log2 n / 2 + 1) 0

/-- x + x^3/3 + x^5/15 + ... : terms x^(2k+1) / (2k+1)!!. -/
def fxPhiSum (x2 : Nat) (fuel k t acc : Nat) : Nat :=
  match fuel with
  | 0 => acc
  | f + 1 => fxPhiSum x2 f (k + 1) (fxMul t x2 / (2 * k + 3)) (acc + t)

/-- Φ(x) for |x| below 16: one half plus or minus the density times the sum. -/
def fxPhi (neg : Bool) (x : Nat) : Nat :=
  let x2 := fxMul x x
  let dens := fxDiv (fxExpNeg (x2 / 2)) (isqrt (2 * fxPi * 2 ^ 640))
  let t := fxMul dens (fxPhiSum x2 900 0 x 0)
  if neg then fxOne / 2 - t else fxOne / 2 + t

/-! ### The functions of an exact argument, in the accurate rounding (R109) -/

/-- The ten functions. -/
inductive Sfu where
  | ex2 | lg2 | rcp | rsq | sqrt | sinpi | cospi | tanh | sigm | gelu
deriving DecidableEq, Repr

/-- Rounds an inexact result that lies just above n / 2^640: NX always, UF where it is tiny. -/
def rndNear (neg : Bool) (n : Nat) : FRes :=
  let r := rnd fp32 .rne neg (2 * n + 1) 1 (-641)
  ⟨r.bits, r.flags ||| flagNX⟩

/-- m * 2^e less its multiple of 2^k, exactly; k at most 2. -/
def dyadicMod (m : Nat) (e : Int) (k : Nat) : Nat × Int :=
  if 0 ≤ e then (m * 2 ^ e.toNat % 2 ^ k, 0) else (m % 2 ^ (k + (-e).toNat), e)

/-- floor of m * 2^e. -/
def dyadicFloor (m : Nat) (e : Int) : Nat :=
  let x := scaled m 1 e
  x.1 / x.2

/-- sin(π r) of r = m * 2^e from 0 to 1/2, with sign; exact at 0 and 1/2. -/
def rndSinPi (neg : Bool) (m : Nat) (e : Int) : FRes :=
  let x := scaled m 1 (e + 1)
  if m = 0 then ⟨fp32.zero neg, 0⟩
  else if x.1 = x.2 then ⟨(if neg then fp32.signBit else 0) + 0x3F800000, 0⟩
  else rndNear neg (fxSin (fxMul fxPi (fxOf m e)))

/-- The root of num / den, rounded: the integer root of a scaled quotient, with a sticky part. -/
def rndRoot (num den : Nat) (e : Int) : FRes :=
  let a := num * 2 ^ 400 / den
  let r := isqrt a
  let exact := r * r * den == num * 2 ^ 400
  rnd fp32 .rne false (if exact then r else 2 * r + 1) 1 ((if exact then e else e - 1) - 200)

/-- RNE of a function at (-1)^neg * m * 2^e, m not 0, outside the cases of R108, with the flags of R109. The arguments are FP32
values and the knots of the fast grade. -/
def sfuAccurate (fn : Sfu) (neg : Bool) (m : Nat) (e : Int) : FRes :=
  match fn with
  | .ex2 =>
    if 10 ≤ floorLog2 m 1 + e then
      (if neg then rndNear false 0 else ⟨fp32.inf false, flagOF ||| flagNX⟩)
    else
      let fl := dyadicFloor m e
      let r := dyadicMod m e 0
      let whole := r.1 = 0
      -- n + u = x with u from 0 to 1
      let n : Int := if neg then (if whole then -(fl : Int) else -(fl : Int) - 1) else fl
      let u := fxOf r.1 r.2
      if whole then rnd fp32 .rne false 1 1 n
      else
        let v := fxExp (fxMul (if neg then fxOne - u else u) fxLn2)
        let q := rnd fp32 .rne false (2 * v + 1) 1 (n - 641)
        ⟨q.bits, q.flags ||| flagNX⟩
  | .lg2 =>
    let l := floorLog2 m 1
    let k := l + e
    -- x = (m / 2^l) * 2^k
    if m = 2 ^ l.toNat then ofInteger fp32 .rne k
    else
      let g := fxDiv (2 * fxAtanh (fxDiv (m - 2 ^ l.toNat) (m + 2 ^ l.toNat))) fxLn2
      let v : Int := k * fxOne + (g : Int)
      let q := rnd fp32 .rne (decide (v < 0)) (2 * v.natAbs + 1) 1 (-641)
      ⟨q.bits, q.flags ||| flagNX⟩
  | .rcp => rnd fp32 .rne neg 1 m (-e)
  | .rsq =>
    if e % 2 = 0 then rndRoot 1 m (-e / 2) else rndRoot 1 (2 * m) ((1 - e) / 2)
  | .sqrt =>
    if e % 2 = 0 then rndRoot m 1 (e / 2) else rndRoot (2 * m) 1 ((e - 1) / 2)
  | .sinpi =>
    let r := dyadicMod m e 1
    let fl := dyadicFloor r.1 r.2
    let q := dyadicMod r.1 r.2 0
    let half := scaled q.1 1 (q.2 + 1)
    let u := if half.1 ≤ half.2 then q else
      (2 ^ (-q.2).toNat - q.1, q.2)
    if q.1 = 0 then ⟨fp32.zero neg, 0⟩ else rndSinPi (neg != decide (fl = 1)) u.1 u.2
  | .cospi =>
    let r := dyadicMod m e 1
    let b := 2 ^ (-r.2).toNat
    -- distance from the nearest even integer, 0 to 1
    let d := if r.1 ≤ b then r.1 else 2 * b - r.1
    if 2 * d ≤ b then rndSinPi false (b - 2 * d) (r.2 - 1)
    else rndSinPi true (2 * d - b) (r.2 - 1)
  | .tanh =>
    if 6 ≤ floorLog2 m 1 + e then rndNear neg (fxOne - 1)
    else
      let t := fxExpNeg (2 * fxOf m e)
      rndNear neg (fxDiv (fxOne - t) (fxOne + t))
  | .sigm =>
    if 8 ≤ floorLog2 m 1 + e then (if neg then rndNear false 0 else rndNear false (fxOne - 1))
    else
      let t := fxExpNeg (fxOf m e)
      rndNear false (if neg then fxDiv t (fxOne + t) else fxDiv fxOne (fxOne + t))
  | .gelu =>
    if 4 ≤ floorLog2 m 1 + e then
      (if neg then rndNear true 0
       else
        let q := rnd fp32 .rne false (2 ^ 640 * m - 1) 1 (e - 640)
        ⟨q.bits, q.flags ||| flagNX⟩)
    else
      let p := fxPhi neg (fxOf m e)
      let q := rnd fp32 .rne neg ((2 * p + 1) * m) 1 (e - 641)
      ⟨q.bits, q.flags ||| flagNX⟩

/-! ### Special cases (R108) -/

/-- The FP32 bits of 1.0 and 0.5. -/
def one32 : Nat := 0x3F800000
def half32 : Nat := 0x3F000000

/-- R108's table on a value that is no NaN; none outside it. -/
def sfuSpecial (fn : Sfu) (x : FVal) : Option FRes :=
  let bad := some (invalid fp32)
  match fn, x with
  | _, .nan _ => none
  | .ex2, .inf n => some ⟨if n then 0 else fp32.inf false, 0⟩
  | .ex2, .num _ m _ => if m = 0 then some ⟨one32, 0⟩ else none
  | .lg2, .inf n => if n then bad else some ⟨fp32.inf false, 0⟩
  | .lg2, .num n m e =>
    if m = 0 then some ⟨fp32.inf true, 0⟩ else if n then bad
    else if (scaled m 1 e).1 = (scaled m 1 e).2 then some ⟨0, 0⟩ else none
  | .rcp, .inf n => some ⟨fp32.zero n, 0⟩
  | .rcp, .num n m _ => if m = 0 then some ⟨fp32.inf n, 0⟩ else none
  | .rsq, .inf n => if n then bad else some ⟨0, 0⟩
  | .rsq, .num n m _ => if m = 0 then some ⟨fp32.inf n, 0⟩ else if n then bad else none
  | .sqrt, .inf n => if n then bad else some ⟨fp32.inf false, 0⟩
  | .sqrt, .num n m _ => if m = 0 then some ⟨fp32.zero n, 0⟩ else if n then bad else none
  | .sinpi, .inf _ => bad
  | .sinpi, .num n m _ => if m = 0 then some ⟨fp32.zero n, 0⟩ else none
  | .cospi, .inf _ => bad
  | .cospi, .num _ m _ => if m = 0 then some ⟨one32, 0⟩ else none
  | .tanh, .inf n => some ⟨(if n then fp32.signBit else 0) + one32, 0⟩
  | .tanh, .num n m _ => if m = 0 then some ⟨fp32.zero n, 0⟩ else none
  | .sigm, .inf n => some ⟨if n then 0 else one32, 0⟩
  | .sigm, .num _ m _ => if m = 0 then some ⟨half32, 0⟩ else none
  | .gelu, .inf n => some ⟨if n then fp32.zero true else fp32.inf false, 0⟩
  | .gelu, .num n m _ => if m = 0 then some ⟨fp32.zero n, 0⟩ else none

/-! ### The fast grade (R110) -/

/-- rne32 of a signed quotient. -/
def rne32 (neg : Bool) (num den : Nat) (e : Int) : Nat := (rnd fp32 .rne neg num den e).bits

/-- Interpolation: lo and hi over a common denominator 2^4 as integers, the reduced argument u = (-1)^un * um * 2^ue; gives y. -/
def interpolate (fn : Sfu) (lo hi : Int) (un : Bool) (um : Nat) (ue : Int) : Nat :=
  -- knot i is (32 lo + i (hi - lo)) / 512
  let w := hi - lo
  let knot := fun (i : Nat) => 32 * lo + (i : Int) * w
  let c := if ue < -9 then ue else -9
  let u := alignTo un um ue c
  -- (u - lo) * 32 / (hi - lo): both over 2^c
  let num := (u - lo * 2 ^ (-4 - c).toNat) * 32
  let i := Nat.min (num / (w * 2 ^ (-4 - c).toNat)).toNat 31
  let x := fun (j : Nat) => rndInt' fp32 .rne false (knot j) (-9)
  let g := fun (j : Nat) =>
    let k := knot j
    if k = 0 then ((sfuSpecial fn (.num false 0 0)).getD ⟨0, 0⟩).bits
    else (sfuAccurate fn (decide (k < 0)) k.natAbs (-9)).bits
  let k := rne32 false 512 w.toNat 0
  let t := opMul fp32 .rne (fadd2 fp32 .rne (.num un um ue) (fval fp32 (x i).bits).negate).bits k
  let d := opSub fp32 .rne (g (i + 1)) (g i)
  let p := opMul fp32 .rne t.bits d.bits
  (opAdd fp32 .rne (g i) p.bits).bits

/-- y * 2^n with a sign: the formed result, subject to R73 and then R75; NX always. -/
def formed (neg : Bool) (y : Nat) (n : Int) : FRes :=
  match fval fp32 y with
  | .num yn m e =>
    let sg := yn != neg
    if m = 0 then ⟨fp32.zero sg, flagNX⟩
    else
      let r := rnd fp32 .rne sg m 1 (e + n)
      if r.bits / 2 ^ 23 % 256 = 0 then ⟨fp32.zero sg, flagUF ||| flagNX⟩
      else ⟨r.bits, flagNX ||| (r.flags &&& flagOF)⟩
  | .inf yn => ⟨fp32.inf (yn != neg), flagNX⟩
  | .nan _ => ⟨fp32.nan, flagNX⟩

/-- The fast grade outside R108, for a normal operand (R110). -/
def sfuFast (fn : Sfu) (neg : Bool) (m : Nat) (e : Int) : FRes :=
  let l := floorLog2 m 1
  let k := l + e
  match fn with
  | .ex2 =>
    if 10 ≤ k then
      (if neg then ⟨0, flagUF ||| flagNX⟩ else ⟨fp32.inf false, flagOF ||| flagNX⟩)
    else
      let fl := dyadicFloor m e
      let r := dyadicMod m e 0
      let n : Int := if neg then (if r.1 = 0 then -(fl : Int) else -(fl : Int) - 1) else fl
      let u := if neg ∧ r.1 ≠ 0 then 2 ^ (-r.2).toNat - r.1 else r.1
      formed false (interpolate .ex2 0 16 false u r.2) n
  | .lg2 =>
    let y := interpolate .lg2 16 32 false m (-l)
    formed false (opAdd fp32 .rne (ofInteger fp32 .rne k).bits y).bits 0
  | .rcp => formed neg (interpolate .rcp 16 32 false m (-l)) (-k)
  | .rsq => formed false (interpolate .rsq 16 64 false m (k % 2 - l)) (-(k / 2))
  | .sqrt => formed false (interpolate .sqrt 16 64 false m (k % 2 - l)) (k / 2)
  | .sinpi =>
    -- r = x - 2 floor(x / 2)
    let a := dyadicMod m e 1
    let b := 2 ^ (-a.2).toNat
    let r := if neg ∧ a.1 ≠ 0 then 2 * b - a.1 else a.1
    let low := decide (b ≤ r)
    let r1 := if low then r - b else r
    let u := if b < 2 * r1 then b - r1 else r1
    let y := interpolate .sinpi 0 8 false u a.2
    if (fval fp32 y).isZero then ⟨fp32.zero neg, flagNX⟩ else formed low y 0
  | .cospi =>
    let a := dyadicMod m e 1
    let b := 2 ^ (-a.2).toNat
    let r := if b < a.1 then 2 * b - a.1 else a.1
    let low := decide (b < 2 * r)
    let y := interpolate .cospi 0 8 false (if low then b - r else r) a.2
    if (fval fp32 y).isZero then ⟨0, flagNX⟩ else formed low y 0
  | .tanh => formed neg (if 3 ≤ k then one32 else interpolate .tanh 0 128 false m e) 0
  | .sigm =>
    let y := if 4 ≤ k then one32 else interpolate .sigm 0 256 false m e
    formed false (if neg then (opSub fp32 .rne one32 y).bits else y) 0
  | .gelu =>
    if 3 ≤ k then
      (if neg then ⟨fp32.zero true, flagNX⟩ else ⟨(rnd fp32 .rne false m 1 e).bits, flagNX⟩)
    else formed false (interpolate .gelu (-128) 128 neg m e) 0

/-- An SFU function of an FP32 operand; acc selects the accurate grade. The fast grade replaces a subnormal operand by a zero of
its sign first (R75). -/
def sfu (fn : Sfu) (acc : Bool) (a : Nat) : FRes :=
  let x : FVal := match fval fp32 a with
    | .num n m e => if !acc && decide (m < 2 ^ 23) then .num n 0 e else .num n m e
    | v => v
  match x with
  | .nan q => ⟨fp32.nan, flagIf q flagNV⟩
  | _ =>
    match sfuSpecial fn x with
    | some r => r
    | none =>
      match x with
      | .num n m e => if acc then sfuAccurate fn n m e else sfuFast fn n m e
      | _ => ⟨fp32.nan, 0⟩

end Sys2Proof.Machine
end

