-- ==== Sys2Proof/Machine/Float.lean ====
section
/-! DEFINITION. Floating-point, conversion, special-function and block instructions (R100 to R112). -/

namespace Sys2Proof.Machine

/-- The low n bits of a lane source. -/
def Iss.low (i : Iss) (s : State) (l n : Nat) (a : BitVec 7) : Nat := (i.val s l a).toNat % 2 ^ n

/-- A rounded result as a lane's output. -/
def FRes.out (r : FRes) : LaneOut := { bits := r.bits, flags := r.flags }

/-- Bits of a format. -/
def Fmt.width (f : Fmt) : Nat := 1 + f.eb + f.fb

/-- A two-operand function of a format. -/
def float2 (f : Fmt) (rm : Bool) (op : Fmt → Rm → Nat → Nat → FRes) (d : BitVec 6) (a b : BitVec 7) (s : State) : Out :=
  floatResult s d [a, b] rm true (fun i l => (op f i.rm (i.low s l f.width a) (i.low s l f.width b)).out)
/-- A one-operand function of a format. -/
def float1 (f : Fmt) (rm : Bool) (op : Fmt → Rm → Nat → FRes) (d : BitVec 6) (a : BitVec 7) (s : State) : Out :=
  floatResult s d [a] rm true (fun i l => (op f i.rm (i.low s l f.width a)).out)
/-- A fused multiply-add of a format. -/
def float3 (f : Fmt) (negP negC : Bool) (d : BitVec 6) (a b : BitVec 7) (c : BitVec 4) (s : State) : Out :=
  floatResult s d [a, b, queueSpec c] true true (fun i l =>
    (opFma f negP negC i.rm (i.low s l f.width a) (i.low s l f.width b) (i.low s l f.width (queueSpec c))).out)

/-! ### FP32 and FP64 (R101) -/

/-- FADD (R101). -/
def execFadd (d : BitVec 6) (a b : BitVec 7) (s : State) : Out := float2 fp32 true opAdd d a b s
/-- FSUB (R101). -/
def execFsub (d : BitVec 6) (a b : BitVec 7) (s : State) : Out := float2 fp32 true opSub d a b s
/-- FMUL (R101). -/
def execFmul (d : BitVec 6) (a b : BitVec 7) (s : State) : Out := float2 fp32 true opMul d a b s
/-- FMIN (R101). -/
def execFmin (d : BitVec 6) (a b : BitVec 7) (s : State) : Out := float2 fp32 false opMin d a b s
/-- FMAX (R101). -/
def execFmax (d : BitVec 6) (a b : BitVec 7) (s : State) : Out := float2 fp32 false opMax d a b s
/-- FABS (R101). -/
def execFabs (d : BitVec 6) (a : BitVec 7) (s : State) : Out := float1 fp32 false opAbs d a s
/-- FNEG (R101). -/
def execFneg (d : BitVec 6) (a : BitVec 7) (s : State) : Out := float1 fp32 false opNeg d a s
/-- FRINT (R101). -/
def execFrint (d : BitVec 6) (a : BitVec 7) (s : State) : Out := float1 fp32 true opRint d a s
/-- DADD (R101). -/
def execDadd (d : BitVec 6) (a b : BitVec 7) (s : State) : Out := float2 fp64 true opAdd d a b s
/-- DSUB (R101). -/
def execDsub (d : BitVec 6) (a b : BitVec 7) (s : State) : Out := float2 fp64 true opSub d a b s
/-- DMUL (R101). -/
def execDmul (d : BitVec 6) (a b : BitVec 7) (s : State) : Out := float2 fp64 true opMul d a b s
/-- DMIN (R101). -/
def execDmin (d : BitVec 6) (a b : BitVec 7) (s : State) : Out := float2 fp64 false opMin d a b s
/-- DMAX (R101). -/
def execDmax (d : BitVec 6) (a b : BitVec 7) (s : State) : Out := float2 fp64 false opMax d a b s

/-! ### Fused multiply-add (R102) -/

/-- FMA (R102). -/
def execFma (d : BitVec 6) (a b : BitVec 7) (c : BitVec 4) (s : State) : Out := float3 fp32 false false d a b c s
/-- FMS (R102). -/
def execFms (d : BitVec 6) (a b : BitVec 7) (c : BitVec 4) (s : State) : Out := float3 fp32 false true d a b c s
/-- FNMA (R102). -/
def execFnma (d : BitVec 6) (a b : BitVec 7) (c : BitVec 4) (s : State) : Out := float3 fp32 true false d a b c s
/-- DFMA (R102). -/
def execDfma (d : BitVec 6) (a b : BitVec 7) (c : BitVec 4) (s : State) : Out := float3 fp64 false false d a b c s

/-! ### BF16 pairs and DOT4 (R103, R104) -/

/-- Two BF16 results in one register image. -/
def pairOut (x y : FRes) : LaneOut := { bits := x.bits + y.bits * 65536, flags := x.flags ||| y.flags }

/-- A function of each element of BF16 pairs. -/
def pair2 (rm : Bool) (op : Fmt → Rm → Nat → Nat → FRes) (d : BitVec 6) (a b : BitVec 7) (s : State) : Out :=
  floatResult s d [a, b] rm true (fun i l =>
    let x := i.low s l 32 a
    let y := i.low s l 32 b
    pairOut (op bf16 i.rm (x % 65536) (y % 65536)) (op bf16 i.rm (x / 65536) (y / 65536)))

/-- HADD2 (R103). -/
def execHadd2 (d : BitVec 6) (a b : BitVec 7) (s : State) : Out := pair2 true opAdd d a b s
/-- HMUL2 (R103). -/
def execHmul2 (d : BitVec 6) (a b : BitVec 7) (s : State) : Out := pair2 true opMul d a b s
/-- HMIN2 (R103). -/
def execHmin2 (d : BitVec 6) (a b : BitVec 7) (s : State) : Out := pair2 false opMin d a b s
/-- HMAX2 (R103). -/
def execHmax2 (d : BitVec 6) (a b : BitVec 7) (s : State) : Out := pair2 false opMax d a b s
/-- HFMA2 (R103). -/
def execHfma2 (d : BitVec 6) (a b : BitVec 7) (c : BitVec 4) (s : State) : Out :=
  floatResult s d [a, b, queueSpec c] true true (fun i l =>
    let x := i.low s l 32 a
    let y := i.low s l 32 b
    let z := i.low s l 32 (queueSpec c)
    pairOut (opFma bf16 false false i.rm (x % 65536) (y % 65536) (z % 65536))
      (opFma bf16 false false i.rm (x / 65536) (y / 65536) (z / 65536)))

/-- The sum of DOT4: four products of signed bytes and a signed 32-bit addend, modulo 2^32, sign-extended. -/
def fnDot4 (a b c : Word) : Word :=
  let p := fun (i : Nat) => (a.extractLsb' (8 * i) 8).signExtend 32 * (b.extractLsb' (8 * i) 8).signExtend 32
  (p 0 + p 1 + p 2 + p 3 + c.setWidth 32).signExtend 64

/-- DOT4 (R104). -/
def execDot4 (d : BitVec 6) (a b : BitVec 7) (c : BitVec 4) (s : State) : Out := lane3 d a b c fnDot4 s

/-! ### Conversions (R105, R106) -/

/-- The register image of an integer: two's complement in 64 bits. -/
def intImage (v : Int) : Nat := (BitVec.ofInt 64 v).toNat

/-- To an integer in lo to hi. -/
def convertInt (src : Fmt) (lo hi : Int) (d : BitVec 6) (a : BitVec 7) (s : State) : Out :=
  floatResult s d [a] true true (fun i l =>
    let r := toInteger i.rm lo hi (fval src (i.low s l src.width a))
    { bits := intImage r.1, flags := r.2 })
/-- From one format to another; rm where it rounds; am where it updates AMAX. -/
def convertFmt (src dst : Fmt) (rm am : Bool) (d : BitVec 6) (a : BitVec 7) (s : State) : Out :=
  floatResult s d [a] rm true (fun i l =>
    let x := i.low s l src.width a
    { (convert src dst i.rm x).out with amax := if am then [x] else [] })

/-- CVT.f32.s32 (R105). -/
def execCvtF32S32 (d : BitVec 6) (a : BitVec 7) (s : State) : Out :=
  floatResult s d [a] true true (fun i l => (ofInteger fp32 i.rm ((i.val s l a).setWidth 32).toInt).out)
/-- CVT.s32.f32 (R105, R106). -/
def execCvtS32F32 (d : BitVec 6) (a : BitVec 7) (s : State) : Out := convertInt fp32 (-2147483648) 2147483647 d a s
/-- CVT.u32.f32 (R105, R106). -/
def execCvtU32F32 (d : BitVec 6) (a : BitVec 7) (s : State) : Out := convertInt fp32 0 4294967295 d a s
/-- CVT.f64.f32 (R105). -/
def execCvtF64F32 (d : BitVec 6) (a : BitVec 7) (s : State) : Out := convertFmt fp32 fp64 false false d a s
/-- CVT.f32.f64 (R105). -/
def execCvtF32F64 (d : BitVec 6) (a : BitVec 7) (s : State) : Out := convertFmt fp64 fp32 true false d a s
/-- CVT.f64.s64 (R105). -/
def execCvtF64S64 (d : BitVec 6) (a : BitVec 7) (s : State) : Out :=
  floatResult s d [a] true true (fun i l => (ofInteger fp64 i.rm (i.val s l a).toInt).out)
/-- CVT.s64.f64 (R105, R106). -/
def execCvtS64F64 (d : BitVec 6) (a : BitVec 7) (s : State) : Out :=
  convertInt fp64 (-9223372036854775808) 9223372036854775807 d a s
/-- CVT.bf16.f32 (R105): updates AMAX. -/
def execCvtBf16F32 (d : BitVec 6) (a : BitVec 7) (s : State) : Out := convertFmt fp32 bf16 true true d a s
/-- CVT.f32.bf16 (R105). -/
def execCvtF32Bf16 (d : BitVec 6) (a : BitVec 7) (s : State) : Out := convertFmt bf16 fp32 false false d a s
/-- CVT.f16.f32 (R105): updates AMAX. -/
def execCvtF16F32 (d : BitVec 6) (a : BitVec 7) (s : State) : Out := convertFmt fp32 fp16 true true d a s
/-- CVT.f32.f16 (R105). -/
def execCvtF32F16 (d : BitVec 6) (a : BitVec 7) (s : State) : Out := convertFmt fp16 fp32 false false d a s
/-- PACK2 (R105). -/
def execPack2 (d : BitVec 6) (a b : BitVec 7) (s : State) : Out :=
  floatResult s d [a, b] true true (fun i l =>
    pairOut (convert fp32 bf16 i.rm (i.low s l 32 a)) (convert fp32 bf16 i.rm (i.low s l 32 b)))

/-! ### Compares (R107) -/

/-- A condition on the order of two values; none is unordered. -/
abbrev Order := Option Ordering → Bool
def ordLt : Order := fun o => o == some .lt
def ordLe : Order := fun o => o == some .lt || o == some .eq
def ordEq : Order := fun o => o == some .eq
def ordNe : Order := fun o => o != some .eq
def ordUn : Order := fun o => o == none

/-- The condition on a lane's operands, and NV where one is signalling. -/
def floatOrder (f : Fmt) (c : Order) (s : State) (i : Iss) (l : Nat) (a b : BitVec 7) : Bool × FlagBits :=
  let x := fval f (i.low s l f.width a)
  let y := fval f (i.low s l f.width b)
  (c (x.cmp y), nanFlags [x, y])

/-- A register compare. -/
def floatCompare (c : Order) (d : BitVec 6) (a b : BitVec 7) (s : State) : Out :=
  floatResult s d [a, b] false true (fun i l =>
    let r := floatOrder fp32 c s i l a b
    { bits := if r.1 then 1 else 0, flags := r.2 })
/-- A guard compare. -/
def floatCompareGuard (f : Fmt) (c : Order) (g : BitVec 3) (a b : BitVec 7) (s : State) : Out :=
  floatGuard s g [a, b] (fun i l => floatOrder f c s i l a b)

/-- FCLT (R107). -/
def execFclt (d : BitVec 6) (a b : BitVec 7) (s : State) : Out := floatCompare ordLt d a b s
/-- FCLE (R107). -/
def execFcle (d : BitVec 6) (a b : BitVec 7) (s : State) : Out := floatCompare ordLe d a b s
/-- FCEQ (R107). -/
def execFceq (d : BitVec 6) (a b : BitVec 7) (s : State) : Out := floatCompare ordEq d a b s
/-- FGLT (R107). -/
def execFglt (g : BitVec 3) (a b : BitVec 7) (s : State) : Out := floatCompareGuard fp32 ordLt g a b s
/-- FGLE (R107). -/
def execFgle (g : BitVec 3) (a b : BitVec 7) (s : State) : Out := floatCompareGuard fp32 ordLe g a b s
/-- FGEQ (R107). -/
def execFgeq (g : BitVec 3) (a b : BitVec 7) (s : State) : Out := floatCompareGuard fp32 ordEq g a b s
/-- FGNE (R107): true when unordered. -/
def execFgne (g : BitVec 3) (a b : BitVec 7) (s : State) : Out := floatCompareGuard fp32 ordNe g a b s
/-- FGUN (R107). -/
def execFgun (g : BitVec 3) (a b : BitVec 7) (s : State) : Out := floatCompareGuard fp32 ordUn g a b s
/-- DGLT (R107). -/
def execDglt (g : BitVec 3) (a b : BitVec 7) (s : State) : Out := floatCompareGuard fp64 ordLt g a b s

/-! ### Special functions (R108 to R110) -/

/-- An SFU function of each lane's FP32 operand; r selects the accurate grade. -/
def special (fn : Sfu) (d : BitVec 6) (a : BitVec 7) (r : BitVec 1) (s : State) : Out :=
  floatResult s d [a] false true (fun i l => (sfu fn (r == 1) (i.low s l 32 a)).out)

/-- EX2 (R108 to R110). -/
def execEx2 (d : BitVec 6) (a : BitVec 7) (r : BitVec 1) (s : State) : Out := special .ex2 d a r s
/-- LG2 (R108 to R110). -/
def execLg2 (d : BitVec 6) (a : BitVec 7) (r : BitVec 1) (s : State) : Out := special .lg2 d a r s
/-- RCP (R108 to R110). -/
def execRcp (d : BitVec 6) (a : BitVec 7) (r : BitVec 1) (s : State) : Out := special .rcp d a r s
/-- RSQ (R108 to R110). -/
def execRsq (d : BitVec 6) (a : BitVec 7) (r : BitVec 1) (s : State) : Out := special .rsq d a r s
/-- SQRT (R108 to R110). -/
def execSqrt (d : BitVec 6) (a : BitVec 7) (r : BitVec 1) (s : State) : Out := special .sqrt d a r s
/-- SINPI (R108 to R110). -/
def execSinpi (d : BitVec 6) (a : BitVec 7) (r : BitVec 1) (s : State) : Out := special .sinpi d a r s
/-- COSPI (R108 to R110). -/
def execCospi (d : BitVec 6) (a : BitVec 7) (r : BitVec 1) (s : State) : Out := special .cospi d a r s
/-- TANH (R108 to R110). -/
def execTanh (d : BitVec 6) (a : BitVec 7) (r : BitVec 1) (s : State) : Out := special .tanh d a r s
/-- SIGM (R108 to R110). -/
def execSigm (d : BitVec 6) (a : BitVec 7) (r : BitVec 1) (s : State) : Out := special .sigm d a r s
/-- GELU (R108 to R110). -/
def execGelu (d : BitVec 6) (a : BitVec 7) (r : BitVec 1) (s : State) : Out := special .gelu d a r s

/-! ### Shared-exponent blocks (R111, R112) -/

/-- QSE of element width b: the warp's virtual lanes as one block, lanes outside the issue as +0 (R111). -/
def quantiseWarp (b : Nat) (d : BitVec 6) (a : BitVec 7) (s : State) : Out :=
  atIssue s (fun _ => { srcs := [a], dst := [d], nf := true }) (fun i =>
    let x := fun l => i.low s l 32 a
    let q := quantise b ((List.range 32).map (fun l => if i.lanes.elem l then x l else 0))
    i.next s ((i.w.modLanes i.lanes (fun l y =>
        i.w.result d (clean (BitVec.ofNat 64 (q.scale * 65536 + q.codes.getD l 0))) y)).raise
      (if i.noflag then 0 else q.flags) (i.lanes.map x)))

/-- QSE3 (R111). -/
def execQse3 (d : BitVec 6) (a : BitVec 7) (s : State) : Out := quantiseWarp 3 d a s
/-- QSE5 (R111). -/
def execQse5 (d : BitVec 6) (a : BitVec 7) (s : State) : Out := quantiseWarp 5 d a s
/-- QSE8 (R111). -/
def execQse8 (d : BitVec 6) (a : BitVec 7) (s : State) : Out := quantiseWarp 8 d a s

/-- DQSE of element width b: a lane's own element (R112). -/
def dequantise (b : Nat) (d : BitVec 6) (a : BitVec 7) (s : State) : Out :=
  laneResult s d (fun _ => { srcs := [a], dst := [d] }) (fun i l =>
    let c := i.low s l 32 a
    BitVec.ofNat 64 (seFp32 b (c / 65536) (c % 2 ^ b) l))

/-- DQSE3 (R112). -/
def execDqse3 (d : BitVec 6) (a : BitVec 7) (s : State) : Out := dequantise 3 d a s
/-- DQSE5 (R112). -/
def execDqse5 (d : BitVec 6) (a : BitVec 7) (s : State) : Out := dequantise 5 d a s
/-- DQSE8 (R112). -/
def execDqse8 (d : BitVec 6) (a : BitVec 7) (s : State) : Out := dequantise 8 d a s

end Sys2Proof.Machine
end

