-- ==== Sys2Proof/Machine/Branch.lean ====
section
/-! DEFINITION. Branches, indirect transfers, waiting, ending, partitions and hints (R45 to R51, R253 to R258, R261). -/

namespace Sys2Proof.Machine

/-! ### Checks of a transfer -/

/-- An address of the code a lane runs, as an original PC: residual code has a map (R297). -/
def Iss.original (i : Iss) (l : Nat) (a : Word) : Word := if (i.w.lane l).rpc.isSome then toOrig i.code.jig i.code.base a else a

/-- Lanes that a transfer would take out of the innermost active level's body (R277); the target is an address of the code the lane
runs. -/
def Iss.escaping (i : Iss) (ls : List Nat) (target : Nat → Word) : List Nat :=
  match i.w.depth with
  | 0 => []
  | k + 1 => ls.filter (fun l => i.w.inside k l && !i.w.inBody k (i.original l (target l)))

/-- The loop-escape fault (R276, R277). -/
def Iss.escapeFault (i : Iss) (bad : List Nat) (target : Nat → Word) : FaultInfo :=
  { cls := 0x0A, addr := i.original (bad.headD 0) (target (bad.headD 0)), lanes := bad, kind := 4, idx := i.w.depth - 1 }

/-- The checks of R255, and of R277 for JMPI and RET, on original targets: the class of the earliest failing check, its lanes, and the
lowest of their targets. -/
def transferCheck (s : State) (i : Iss) (target : Nat → Word) (land escape : Bool) : Option FaultInfo :=
  let bad := fun (p : Nat → Bool) (cls : Nat) =>
    match i.lanes.filter p with
    | [] => none
    | ls => some ({ cls := cls, lanes := ls, addr := (leastBy (fun (t : Word) => t.toNat) (ls.map target)).getD 0 } : FaultInfo)
  let fetch := fun l => s.fetchAt i.w (target l) i.w.handler
  (bad (fun l => decide ((target l).toNat % 4 ≠ 0)) 0x08)
    |>.orElse (fun _ => bad (fun l => match fetch l with | .error c => c == 0x04 | .ok _ => false) 0x04)
    |>.orElse (fun _ => bad (fun l => match fetch l with | .error _ => true | .ok _ => false) 0x05)
    |>.orElse (fun _ => if land then bad (fun l => match fetch l with | .error _ => true | .ok v => v != 0x8BFE1C03#32) 0x08 else none)
    |>.orElse (fun _ =>
      if escape then
        (match i.w.depth with
         | 0 => none
         | k + 1 =>
           match i.lanes.filter (fun l => i.w.inside k l && !i.w.inBody k (target l)) with
           | [] => none
           | ls => some { cls := 0x0A, addr := target (ls.headD 0), lanes := ls, kind := 4, idx := k })
      else none)

/-- The walk's effects of the fetches a transfer's checks made (R330). -/
def touchTargets (s : State) (i : Iss) (target : Nat → Word) : State :=
  i.lanes.foldl (fun s l => s.touchFetch i.w (target l)) s

/-! ### BR, BRN, CALL, BRU (R253, R254) -/

/-- The lanes of go leave for a PC-relative target, the others go on; link writes n15 (R253). -/
def branch (s : State) (u : Uses) (go : Iss → Nat → Bool) (disp : Int) (link : Bool) : Out :=
  atIssue s (fun _ => u) (fun i =>
    let t := i.run + BitVec.ofInt 64 (4 * disp)
    let taken := i.lanes.filter (go i)
    match (if link then [] else i.escaping taken (fun _ => t)) with
    | [] =>
      let w := if link then i.w.modLanes taken (fun _ x => x.setReg 15 (clean (x.pc + 4))) else i.w
      .done (i.leave s w (fun l => if go i l then .run t else .fall))
    | bad => .bad (i.escapeFault bad (fun _ => t)))

/-- BR (R253). -/
def execBr (g : BitVec 3) (d : BitVec 21) (s : State) : Out := branch s {} (fun i l => (i.w.lane l).guard g) d.toInt false
/-- BRN (R253). -/
def execBrn (g : BitVec 3) (d : BitVec 21) (s : State) : Out := branch s {} (fun i l => !(i.w.lane l).guard g) d.toInt false
/-- CALL (R253): n15 takes the return address, which is not pushed; never checked for escape (R277). -/
def execCall (g : BitVec 3) (d : BitVec 21) (s : State) : Out := branch s {} (fun i l => (i.w.lane l).guard g) d.toInt true
/-- BRUZ (R254). -/
def execBruz (_s : BitVec 1) (c : BitVec 7) (d : BitVec 17) (s : State) : Out :=
  branch s { uni := [c] } (fun i _ => i.uval s c == 0) d.toInt false
/-- BRUNZ (R254). -/
def execBrunz (_s : BitVec 1) (c : BitVec 7) (d : BitVec 17) (s : State) : Out :=
  branch s { uni := [c] } (fun i _ => i.uval s c != 0) d.toInt false

/-! ### JMPI, CALLI, RET, LAND (R255) -/

/-- An indirect transfer to original targets. -/
def indirect (s : State) (src : BitVec 7) (land escape link : Bool) : Out :=
  atIssue s (fun _ => { srcs := [src] }) (fun i =>
    let t := fun l => i.val s l src
    match transferCheck s i t land escape with
    | some f => .bad f
    | none =>
      let w := if link then i.w.modLanes i.lanes (fun _ x => x.setReg 15 (clean (x.pc + 4))) else i.w
      .done (i.leave (touchTargets s i t) w (fun l => .orig (t l))))

/-- JMPI (R255). -/
def execJmpi (a : BitVec 7) (s : State) : Out := indirect s a true true false
/-- CALLI (R255). -/
def execCalli (a : BitVec 7) (s : State) : Out := indirect s a true false true
/-- RET (R255). -/
def execRet (s : State) : Out := indirect s 0x0F false true false
/-- LAND (R254, R255): does nothing. -/
def execLand (s : State) : Out := atIssue s (fun _ => {}) (fun i => i.next s i.w)

/-! ### PARK, YIELD, EXIT (R256 to R258) -/

/-- A parked lane goes on (R256). -/
def State.unpark (s : State) (k l : Nat) : State :=
  match s.warp k with
  | none => s
  | some w => (s.setWarp k (w.moveLanes (s.code w) [l] (fun _ => .fall))).settle k

/-- PARK_WAKE (R256): a lane whose wake event has occurred goes on; nothing otherwise. -/
def execParkWake (warp lane : Nat) (s : State) : Out :=
  match s.warp warp with
  | none => .next s
  | some w =>
    match (w.lane lane).park with
    | .watch _ _ true => .next (s.unpark warp lane)
    | _ => .next s

/-- PARK_TIMEOUT (R256): a lane parked 4,096 cycles ago goes on; nothing otherwise. -/
def execParkTimeout (warp lane : Nat) (s : State) : Out :=
  match s.warp warp with
  | none => .next s
  | some w =>
    match (w.lane lane).park with
    | .watch _ since _ => if since + 4096 ≤ s.cycle then .next (s.unpark warp lane) else .next s
    | _ => .next s

/-- YIELD (R257). -/
def execYield (s : State) : Out :=
  atIssue s (fun _ => {}) (fun i =>
    match i.next s (i.w.modLanes i.lanes (fun _ x => { x with yield := 32 })) with
    | .done t => .done (t.modWarp i.k (fun w => { w with away := 1 }))
    | r => r)

/-- EXIT (R258): the lanes are no longer live; a lane in handler mode leaves the frame (R370); without live lanes the warp ends. -/
def execExit (s : State) : Out :=
  atIssue s (fun _ => {}) (fun i =>
    let w := i.w.modLanes i.lanes (fun _ x => { x with live := false, hint := none, park := .no, age := 0, blocked := 0 })
    let w1 := { w with frame := w.frame.map (fun (f : Frame) => { f with lanes := f.lanes.filter (fun e => !(i.lanes.elem e.1)) }) }
    let w2 := i.posted (w1.settleLoops i.code 8)
    let s1 := s.setWarp i.k w2
    .done (if w2.live = [] then s1.endWarp i.k else s1))

/-! ### Partitions (R261) -/

/-- PART (R261): sub-groups of 4, 8, 16 or 32 lanes; anything else is an illegal operand. -/
def execPart (k : BitVec 2) (a : BitVec 7) (s : State) : Out :=
  atIssue s (fun _ => { uni := [a] }) (fun i =>
    let g := (i.uval s a).toNat
    if g = 4 ∨ g = 8 ∨ g = 16 ∨ g = 32 then
      i.next s (if k = 1 then { i.w with k1 := g } else
        if k = 2 then { i.w with k2 := g } else { i.w with k3 := g })
    else .bad (i.operand s))

/-- GMASK (R261): the live lanes of the lane's sub-group. -/
def execGmask (d : BitVec 6) (k : BitVec 2) (s : State) : Out :=
  laneResult s d (fun _ => { dst := [d] }) (fun i l =>
    let g := i.w.groupSize k.toNat
    (maskOf (i.w.live.filter (fun m => m / g == l / g))).setWidth 64)

/-! ### Hints (R45 to R51) -/

/-- No word of the kernel's code follows the one at issue, in the code that the lanes run (R47). -/
def Iss.lastWord (i : Iss) : Bool :=
  match i.lead.rpc, i.code.jig with
  | some r, some e => decide (e.base + 4 * e.words.length ≤ r.toNat + 4)
  | _, _ => decide (i.code.base + i.code.size ≤ i.pc.toNat + 4)

/-- The HIMM word at issue is the Jig's, in front of a LOOP whose CNT names no HIMM in the original code (R291). -/
def Iss.inserted (i : Iss) : Bool :=
  match i.lead.rpc, i.code.jig with
  | some r, some e => (match e.mapAt r.toNat with
    | some m => m.getLsbD 39 && (match (i.code.words.drop (origOf m / 4)).find? (fun v => majorOf v != 0x3F) with
      | some v => wordField v 17 7 != 0x7C
      | none => false)
    | none => false)
  | _, _ => false

/-- A hint word (R45 to R48): the pending state grows, or its count is exceeded and the word is illegal. At END the back edge clears
the state, which must then hold no HIMM and no HMOD; a hint whose next word lies outside the code is illegal. DESIGN CHOICE (safe): in
handler mode that last check is not made, since a handler need not lie in the kernel's code (R366), and R47 names no other bound; the fetch of
the next word is then the check. -/
def hintWord (s : State) (grow : Iss → Hint → Option Hint) : Out :=
  match s.issue with
  | none => .fault .noWarp
  | some i =>
    let h0 := i.hint.getD { first := i.pc, firstR := i.lead.rpc }
    match grow i h0 with
    | none => .next (i.fault s (i.illegal s))
    | some h =>
      let atEnd := match i.w.depth with
        | 0 => false
        | k + 1 => i.lanes.any (fun l => i.w.participates k l) && i.w.atEnd i.code k i.lead
      if (atEnd && (h.himm != [] || h.hmod.isSome))
          || (!i.w.handler && i.lastWord)
      then .next (s.takeFault i.k (i.illegal s) h.first (h.firstR.getD h.first))
      else if atEnd then .next ((i.leave s i.w (fun _ => .fall)).settle i.k)
      else
        .next (s.setWarp i.k (i.w.modLanes i.lanes (fun l x =>
          { i.w.runTo i.code.jig i.code.base l (x.runPc + 4) x with hint := some h, age := 0, blocked := 0 })))

/-- HIMM (R49): at most two in a group. -/
def execHimm (h : BitVec 24) (s : State) : Out :=
  hintWord s (fun i x => if x.himm.length < 2 then some { x with himm := x.himm ++ [h], ins := i.inserted } else none)
/-- HSCHED (R50): at most one. -/
def execHsched (p : BitVec 2) (c b a y : BitVec 1) (s : State) : Out :=
  hintWord s (fun _ x => if x.hsched.isNone then some { x with hsched := some (p ++ c ++ b ++ a ++ y) } else none)
/-- An HMOD word with a payload (R51): at most one in a group; its payload is judged at the group's instruction. -/
def modWord (p : BitVec 9) (s : State) : Out :=
  hintWord s (fun _ x => if x.hmod.isNone then some { x with hmod := some p } else none)
/-- HMOD (R51). -/
def execHmod (n c : BitVec 1) (p : BitVec 3) (e : BitVec 1) (m : BitVec 3) (s : State) : Out := modWord (n ++ c ++ p ++ e ++ m) s

end Sys2Proof.Machine
end

