-- ==== Sys2Proof/Machine/Loops.lean ====
section
/-! DEFINITION. The loop unit's instructions and its back edge (R268 to R280). -/

namespace Sys2Proof.Machine

/-- The loop-nesting fault, naming a level (R364). -/
def nestingFault (i : Iss) (lv : Nat) : FaultInfo := { cls := 0x09, lanes := i.lanes, kind := 4, idx := lv }

/-- Stage st of level k is active (R274). -/
def Warp.stageActive (w : Warp) (k st : Nat) : Bool :=
  let v := w.level k
  v.active && decide (st ≤ v.st.toNat) && v.sm.getLsbD st

/-- The level a LOOP word opens, with its START and END: original PCs, and addresses of the code it issues in (R271, R291, R297). END of
the original code is that of the original word. -/
def Iss.newLevel (i : Iss) (n : Word) (e : BitVec 12) (t : BitVec 3) (r u : BitVec 1) : Level :=
  let eo := match i.lead.rpc with
    | none => e.toNat
    | some _ => wordField (i.code.wordAt i.pc) 5 12
  let wrap := match i.code.jig, i.lead.rpc with
    | some j, some p => (match j.mapAt p.toNat with | none => false | some m => m.getLsbD 38)
    | _, _ => false
  { count := n.setWidth 32, index := 0,
    ostart := (i.pc + 4).setWidth 56, olast := (i.pc + BitVec.ofNat 64 (4 * eo)).setWidth 56,
    start := (i.run + 4).setWidth 56, last := (i.run + BitVec.ofNat 64 (4 * e.toNat)).setWidth 56, res := i.lead.rpc.isSome,
    active := true, un := u == 1, rt := r == 1, st := t, sm := 1, rrb := 0, back := 0, exit := ~~~(maskOf i.lanes),
    copies := if wrap then n.toNat else 0 }

/-- LOOP (R270, R271, R273). A wrapper's lanes all begin its copy 0, also those that reached the LOOP in original code (log entry 38). -/
def execLoop (l : BitVec 2) (c : BitVec 7) (e : BitVec 12) (t : BitVec 3) (r u : BitVec 1) (s : State) : Out :=
  atRendezvous s 4 (fun i => { uni := [c], opOk := r == 0 || decide (48 ≤ i.named s) }) (fun s i =>
    let n := i.uval s c
    let v := i.newLevel n e t r u
    let d := i.w.depth
    let nested := match d with
      | 0 => true
      | k + 1 => decide (v.olast.toNat ≤ (i.w.level k).olast.toNat)
    if l.toNat ≠ d ∨ 4 ≤ d ∨ (r = 1 ∧ i.w.levels.any (fun v => v.active && v.rt)) ∨ !nested then .bad (nestingFault i l.toNat)
    else if 2 ^ 32 ≤ n.toNat then .bad (i.operand s)
    else if n = 0 then
      let shared := match d with
        | 0 => false
        | k + 1 => v.olast == (i.w.level k).olast
      if shared then
        let w := i.w.modLanes i.lanes (fun _ x => { x with hint := none, age := 0 })
        .done (s.setWarp i.k (i.posted ((i.lanes.foldl (fun w m => w.reachEnd i.code (d - 1) m) w).settleLoops i.code 8)))
      else .done (i.leave s i.w (fun _ => .place v.res (v.last.setWidth 64 + 4) (v.olast.setWidth 64 + 4)))
    else
      let w := { i.w with levels := setAt i.w.levels d (fun _ => v) }
      let w1 := if v.copies = 0 then w else w.modLanes i.lanes (fun _ x => { x with rpc := i.lead.rpc })
      .done (i.leave s w1 (fun _ => .place v.res (v.start.setWidth 64) (v.ostart.setWidth 64))))

/-- LBRK (R276): the lanes whose guard is true leave levels lv and above, and wait until level lv pops. -/
def execLbrk (g : BitVec 3) (l : BitVec 2) (s : State) : Out :=
  atIssue s (fun _ => {}) (fun i =>
    let d := i.w.depth
    if d ≤ l.toNat then .bad (nestingFault i l.toNat)
    else
      let out := i.lanes.filter (fun m => (i.w.lane m).guard g)
      let v := i.w.level l.toNat
      match out.filter (fun m => !i.w.inside (d - 1) m) with
      | [] =>
        let w1 := { i.w with levels := (List.range 4).map (fun k =>
          let v := i.w.level k
          if l.toNat ≤ k ∧ v.active then { v with exit := v.exit ||| maskOf out, gone := v.gone ||| maskOf out } else v) }
        let w2 := w1.modLanes out (fun m x =>
          { w1.goTo i.code m v.res (v.last.setWidth 64 + 4) (v.olast.setWidth 64 + 4) x with
            park := .left l.toNat, hint := none, age := 0, blocked := 0 })
        let stay := { i with lanes := i.lanes.filter (fun m => !(out.elem m)) }
        .done (stay.leave s w2 (fun _ => .fall))
      | bad => .bad { i.escapeFault bad (fun _ => 0) with addr := v.olast.setWidth 64 + 4 })

/-- LRD (R279). DESIGN CHOICE (log entry 66): of an inactive level and an operand out of range it reports the level. -/
def execLrd (g : BitVec 3) (l : BitVec 2) (a : BitVec 7) (h : BitVec 3) (s : State) : Out :=
  atIssue s (fun _ => { uni := [a] }) (fun i =>
    if i.w.depth ≤ l.toNat then .bad (nestingFault i l.toNat)
    else
      let st := i.uval s a
      if 7 < st.toNat then .bad (i.operand s)
      else i.next s (i.w.modLanes (i.lanes.filter (fun m => (i.w.lane m).guard g))
        (fun _ x => x.setGuard h (i.w.stageActive l.toNat st.toNat))))

/-- LWR (R280): the new count acts at the level's next back edge. DESIGN CHOICE (log entry 66): of an inactive level and an operand out of
range it reports the level. -/
def execLwr (l : BitVec 2) (a : BitVec 7) (s : State) : Out :=
  atIssue s (fun _ => { uni := [a] }) (fun i =>
    if i.w.depth ≤ l.toNat then .bad (nestingFault i l.toNat)
    else
      let n := i.uval s a
      if 2 ^ 32 ≤ n.toNat then .bad (i.operand s)
      else i.next s { i.w with levels := setAt i.w.levels l.toNat (fun v => { v with count := n.setWidth 32 }) })

/-- BACK_EDGE (R272, R273, R278): fires the back edge of the innermost level when every participant has completed END, and pops a
level that no lane takes part in. -/
def execBackEdge (warp : Nat) (s : State) : Out :=
  match s.warp warp with
  | none => .next s
  | some w => .next ((s.setWarp warp (w.settleLoops (s.code w) 8)).settle warp)

end Sys2Proof.Machine
end

