-- ==== Sys2Proof/Machine/Access.lean ====
section
/-! DEFINITION. What every memory instruction shares: lane addresses (R182), the checks of R183, operations in flight, release and
acquire (R213), and the filling of registers and queue entries (R21). -/

namespace Sys2Proof.Machine

/-! ### Addresses (R27, R182) -/

/-- A field of a descriptor. -/
def dscField (d : BitVec 256) (lo n : Nat) : Nat := (d.extractLsb' lo n).toNat
/-- A signed 32-bit field of a descriptor. -/
def dscSigned (d : BitVec 256) (lo : Nat) : Int := (d.extractLsb' lo 32).toInt
/-- Descriptor dk of a warp. -/
def Warp.dsc (w : Warp) (k : Nat) : BitVec 256 := mgetD w.d k 0

/-- The induction part of an offset under a descriptor. -/
def Iss.dscInduction (i : Iss) (d : BitVec 256) : Int :=
  dscSigned d 96 * i.ik 0 + dscSigned d 128 * i.ik 1 + dscSigned d 160 * i.ik 2 + dscSigned d 192 * i.ik 3

/-- The stage a descriptor is bound to is inactive (R182). -/
def Warp.stageOff (w : Warp) (d : BitVec 256) : Bool := d.getLsbD 63 && !w.stageActive (dscField d 61 2) (dscField d 58 3)

/-- The address of lane l, and whether the access of size bytes is dismissed (R182): from specifier a, or descriptor a[3:0]. -/
def Iss.laneAddress (i : Iss) (s : State) (dsc : Bool) (a : BitVec 7) (size l : Nat) : Word × Bool :=
  if dsc then
    let d := i.w.dsc (a.toNat % 16)
    let off := i.dscInduction d + dscSigned d 224 * ((if d.getLsbD 57 then (i.w.lane l).tid else l : Nat) : Int)
    (BitVec.ofInt 64 (dscField d 0 56 + off),
     decide (off < 0) || decide ((dscField d 64 32 : Int) < off + size) || i.w.stageOff d)
  else (i.val s l a, false)

/-! ### The checks of R183 -/

/-- Whose access a lane's is, with the scope its instruction names. -/
def Iss.who (i : Iss) (s : State) (scope : Nat) : Who := s.who i.w scope

/-- What a lane's access of n bytes reaches (R183, R342). -/
def Iss.reach (i : Iss) (s : State) (scope l : Nat) (a : Word) (n : Nat) (k : AccKind) : Except Denied Reach :=
  reachLane s (i.who s scope) (s.wg i.w.wg).privBase (s.nodeOf i.w).kernel.priv i.w.privlim.toNat (i.w.lane l).tid a n k

/-- The errors of a list of checks: rank, class, lane, address. -/
def deniedOf (rs : List (Nat × Word × Except Denied Reach)) : List (Denied × Nat × Word) :=
  rs.filterMap (fun r => match r.2.2 with
    | .error d => some (d, r.1, r.2.1)
    | .ok _ => none)

/-- The checked accesses of some lanes: the fault of the earliest failing check with the lanes that fail it (R183), or what each lane
reaches. obj is OBJKIND and OBJIDX. -/
def Iss.checkAll (i : Iss) (s : State) (scope n : Nat) (k : AccKind) (obj : Nat × Nat) (as : List (Nat × Word)) :
    Except FaultInfo (List (Nat × Reach)) :=
  let rs := as.map (fun p => (p.1, p.2, i.reach s scope p.1 p.2 n k))
  match leastBy (fun e => e.1.rank) (deniedOf rs) with
  | none => .ok (rs.filterMap (fun r => match r.2.2 with
      | .ok v => some (r.1, v)
      | .error _ => none))
  | some e =>
    let bad := (deniedOf rs).filter (fun x => x.1.rank == e.1.rank)
    let o := if e.1.cls = 0x06 ∨ e.1.cls = 0x07 then (0, 0) else obj
    .error { cls := e.1.cls, addr := e.2.2, lanes := bad.map (fun x => x.2.1), kind := o.1, idx := o.2 }

/-! ### Waiting before an access -/

/-- The lines of some flat addresses. -/
def linesOf (as : List Nat) : List Nat := (as.map (fun a => a / 128)).eraseDups

/-- The lines an operation touches. -/
def MemOp.lines (o : MemOp) : List Nat := linesOf (o.parts.flatMap (fun p => p.addrs))

/-- An earlier operation of the warp that has not taken effect touches one of the lines. -/
def State.conflict (s : State) (k : Nat) (lines : List Nat) : Bool :=
  s.ops.any (fun o => o.warp == k && !o.done && o.lines.any (fun l => lines.elem l))

/-- An acquire of the set's lanes is under way: their later accesses wait (R213). -/
def Iss.acquiring (i : Iss) (s : State) : Bool :=
  s.ops.any (fun o => o.warp == i.k && o.order % 2 == 1 && o.kind != .fence && o.lanes &&& maskOf i.lanes != 0)

/-- A write of the warp is held for a migrating page: a release waits for it (R218). -/
def State.heldWrite (s : State) (k : Nat) : Bool := s.heldMig.any (fun h => !h.engine && h.key == k && h.write)

/-- An instruction with a release, or one that follows an acquire, waits. -/
def Iss.orderWaits (i : Iss) (s : State) : Bool := i.acquiring s || s.heldWrite i.k

/-- The access cannot be made yet: an acquire under way, an absent scratch page. -/
def Iss.mustWait (i : Iss) (s : State) (rs : List (Nat × Reach)) : Bool :=
  i.acquiring s || rs.any (fun r => r.2.flats.any (s.pageAbsent i.w.wg))

/-! ### Migrating pages (R218) -/

/-- The entry of the issue in the held queue, once its page has its new entry. -/
def Iss.granted (i : Iss) (s : State) : Option Held :=
  s.heldMig.find? (fun h => h.go && !h.engine && h.key == i.k && h.lanes &&& ~~~(maskOf i.lanes) == 0)

/-- The page an access is held for: one that migrates, or one for which the warp's earlier access is held still. -/
def Iss.migrating (i : Iss) (s : State) (rs : List (Nat × Reach)) : Option Via :=
  let vs := rs.flatMap (fun r => r.2.vias)
  (vs.find? (fun v => s.pageHeld (s.nodeOf i.w).region.pasid v.va v.leaf)).orElse (fun _ =>
    if (i.granted s).isSome then none
    else vs.find? (fun v => s.heldMig.any (fun h => !h.engine && h.key == i.k && h.va / 2 ^ v.leaf.size == v.va / 2 ^ v.leaf.size)))

/-- An access joins the held queue of its cluster, and the device notes the page's old frame. -/
def State.joinHeld (s : State) (h : Held) (v : Via) : State :=
  ({ s with
    serial := s.serial + 1,
    heldMig := s.heldMig.filter (fun x => !(x.go && x.engine == h.engine && x.key == h.key && x.lanes &&& ~~~h.lanes == 0))
      ++ [{ h with id := s.serial, va := v.va }] } : State).noteMig h.pasid v.va v.leaf

/-- The held queue of a cluster has room. -/
def State.heldRoom (s : State) (cluster : Nat) : Bool := decide ((s.heldMig.filter (fun h => h.cluster == cluster)).length < 256)

/-- The lane set stalls at its access to a migrating page: its access joins the held queue, or waits in the coalescer for room. -/
def Iss.holdMigrating (i : Iss) (s : State) (write : Bool) (v : Via) : Res :=
  if !s.heldRoom (i.w.core / 16) then .hold 2
  else
    .done ((s.joinHeld { id := 0, cluster := i.w.core / 16, key := i.k, lanes := maskOf i.lanes, pasid := (s.nodeOf i.w).region.pasid,
                         va := 0, write := write } v).setWarp i.k
      (i.w.modLanes i.lanes (fun _ x => { x with park := .migrating s.serial, age := 0, blocked := 0 })))

/-- The issue's access is made: its entry leaves the held queue. -/
def Iss.replayed (i : Iss) (s : State) : State :=
  match i.granted s with
  | none => s
  | some h => { s with heldMig := s.heldMig.erase h }

/-- An access of an engine operation waits for a migrating page (R218): none where it may be made; else the state in which it waits, in
the held queue, or in the coalescer for room there. -/
def State.engineWaits (s : State) (key core pasid : Nat) (write : Bool) (vs : List Via) : Option State :=
  if s.heldMig.any (fun h => h.engine && h.key == key && !h.go) then some s
  else
    match vs.find? (fun v => s.pageHeld pasid v.va v.leaf) with
    | none => none
    | some v => some (if s.heldRoom (core / 16) then
        s.joinHeld { id := 0, cluster := core / 16, engine := true, key := key, pasid := pasid, va := 0, write := write } v
        else s.noteMig pasid v.va v.leaf)

/-- The access of an engine operation is made: its entry leaves the held queue. -/
def State.engineMade (s : State) (key : Nat) : State :=
  if s.heldMig.any (fun h => h.engine && h.key == key) then { s with heldMig := s.heldMig.filter (fun h => !(h.engine && h.key == key)) }
  else s

/-- The walks' effects of checked accesses that are made (R218, R330). -/
def Iss.touched (i : Iss) (s : State) (scope : Nat) (wr : Bool) (rs : List (Nat × Reach)) : State :=
  i.replayed (rs.foldl (fun s r => s.touchAll (i.who s scope) wr r.2.vias) s)

/-- Loads of metered pages count their bytes with each page's slot (R342). -/
def countReads (s : State) (rs : List (Nat × Reach)) : State :=
  (rs.flatMap (fun r => r.2.slots)).foldl (fun s e => s.countBytes e.1 e.2) s

/-- A metered page of some accesses belongs to a slot whose forced report is undelivered (R349). -/
def State.forcedIn (s : State) (rs : List (Nat × Reach)) : Bool := rs.any (fun r => r.2.slots.any (fun e => s.forcedPending e.1))

/-! ### Scopes (R185) -/

/-- The coherence point of a scope for a warp: 0 its L1, 1 the cluster cache, 2 home. -/
def State.pointOf (s : State) (w : Warp) (scope : Nat) : Nat :=
  if scope ≤ 1 then 0
  else if scope = 2 then (if (s.wg w.wg).cores.length ≤ 1 then 0 else 1)
  else if scope = 3 then 1 else 2

/-! ### Operations in flight -/

/-- Adds an operation; it takes the next serial number. -/
def State.addOp (s : State) (o : MemOp) : State :=
  { s with ops := s.ops ++ [{ o with id := s.serial }], serial := s.serial + 1 }

/-- The fences of the warp that later scoped writes follow (R186). -/
def State.fencesOf (s : State) (k : Nat) : List Nat :=
  (s.ops.filter (fun o => o.warp == k && o.kind == .fence)).map (fun o => o.id)

/-- The lines a release of a core for a region pushes to a point at a scope (R213): those of the region that are dirty in the core's L1, and
in the cluster cache where the point lies beyond it; and lines whose invalidations are still on their way, for which it only waits. Die and
device releases leave lines that are homed elsewhere. -/
def State.releaseLines (s : State) (core region point scope : Nat) : List Nat :=
  let dirty := fun (ls : List Line) => (ls.filter (fun l => l.dirty != 0 && l.isOf region)).map (fun l => l.idx)
  let all :=
    if point = 0 then []
    else if point = 1 then dirty (s.cache true core)
    else dirty (s.cache true core) ++ dirty (s.cache false (core / 16)) ++ s.invs.map Prod.snd
  (all.filter (fun l => point != 2 || scope == 6 || homedHere (l * 128))).eraseDups

/-- Adds the push operations of a list of lines to a point, from a core on behalf of a warp; named says that an instruction names the lines. -/
def State.addPushes (s : State) (k core region point : Nat) (named : Bool) (lines : List Nat) : State :=
  lines.foldl (fun s l => s.addOp
    { id := 0, warp := k, core := core, region := region, kind := .push (point == 2) named, point := point,
      parts := [{ lane := 0, addrs := [l * 128] }] }) s

/-- What waited for an operation waits for others instead. -/
def State.insteadOf (s : State) (id : Nat) (ids : List Nat) : State :=
  let swap := fun (l : List Nat) => if l.elem id then l.filter (fun j => j != id) ++ ids else l
  { s with
    ops := (s.ops.filter (fun o => o.id != id)).map (fun (o : MemOp) => { o with after := swap o.after }),
    copies := s.copies.map (fun (o : CopyOp) => { o with after := swap o.after }),
    chains := s.chains.map (fun (o : ChainOp) => { o with after := swap o.after }),
    arrays := s.arrays.map (fun (o : ArrayOp) => { o with after := swap o.after }),
    drains := s.drains.map (fun (o : DrainOp) => { o with behind := swap o.behind }) }

/-- The operations of a warp in flight. -/
def State.opsOf (s : State) (k : Nat) : List Nat := (s.ops.filter (fun o => o.warp == k)).map (fun o => o.id)

/-- A release of a warp at a scope (R213): its pushes, and the operations that have to be over before its write. The lines are those that
are dirty once the warp's earlier accesses are over: while some are in flight, a sweep waits for them. -/
def State.releaseAction (s : State) (k : Nat) (w : Warp) (scope : Nat) : State × List Nat :=
  let rcb := (s.nodeOf w).region.rcb
  let p := s.pointOf w scope
  let s1 := match s.opsOf k with
    | [] => s.addPushes k w.core rcb p false (s.releaseLines w.core rcb p scope)
    | ids => if p = 0 then s else s.addOp { id := 0, warp := k, core := w.core, region := rcb, kind := .sweep, scope := scope, point := p,
                                            after := ids }
  (s1, s1.opsOf k)

/-- A sweep's earlier accesses are over: what follows it waits for the pushes. -/
def State.sweepStep (s : State) (o : MemOp) : State :=
  let s1 := s.addPushes o.warp o.core o.region o.point false (s.releaseLines o.core o.region o.point o.scope)
  s1.insteadOf o.id ((List.range (s1.serial - s.serial)).map (fun j => s.serial + j))

/-- The acquire action of a core for a region at a scope (R213): clean lines of the region in its L1 are discarded, at die and device scope
those homed here (R360), at system scope also clean copies of remote lines in the cluster cache. Invalidations forwarded to the core have been
applied already. -/
def State.acquireAction (s : State) (core region point scope : Nat) : State :=
  if point = 0 then s
  else
    let s1 := s.discardLines true core (fun l => l.isOf region && (scope != 4 && scope != 5 || homedHere (l.idx * 128)))
    if scope = 6 then s1.discardLines false (core / 16) (fun l => l.isOf region && !homedHere (l.idx * 128)) else s1

/-! ### Lines in use (R11, R213, R214) -/

/-- An access for a user has gone through a core's L1 and cluster cache: the lines it touched are held for that user, the directories know
of them (R213, R214), and no cache exceeds its size. -/
def State.used (s : State) (core : Nat) (us : List LineUser) (lines : List Nat) : State :=
  let s1 := (s.useLines true core us lines).useLines false (core / 16) us lines
  let s2 := { s1 with dir := (lines.filter (fun l => homedHere (l * 128) && s1.clusterHolds (core / 16) l)).foldl (fun m l =>
    mput 0 m (regionOfLine l) (mgetD m (regionOfLine l) 0 ||| (1#32 <<< (core / 16)))) s1.dir }
  (s2.trimL1 core lines 64).trimCc (core / 16) lines

/-- For whom an operation accesses its lines. -/
def MemOp.users (o : MemOp) : List LineUser := o.pages.map (fun p => { region := o.region, pasid := o.pasid, size := p.1, page := p.2 })

/-! ### Filling registers (R21) -/

/-- An entry that waits for operation op takes its half of the values. -/
def RVal.filled (op : Nat) (vs : List RVal) (v : RVal) : RVal :=
  match v.pend with
  | none => v
  | some p => if p / 2 = op then vs.getD (p % 2) {} else v

/-- Fills the values of a sparse map; entries that become the default are not listed. -/
def fillMap (op : Nat) (vs : List RVal) (m : SMap RVal) : SMap RVal :=
  m.filterMap (fun e => let v := e.2.filled op vs; if v = {} then none else some (e.1, v))

/-- The data of an operation reaches a lane's registers and queue. -/
def Lane.filled (op : Nat) (vs : List RVal) (l : Lane) : Lane :=
  { l with regs := fillMap op vs l.regs, queue := l.queue.map (RVal.filled op vs) }

/-- The data of an operation reaches a warp: by lane, and the trap frame's copies of the entries. -/
def Warp.filled (w : Warp) (op : Nat) (vs : Nat → List RVal) : Warp :=
  { w with
    lanes := ((List.range 32).zip w.lanes).map (fun e => e.2.filled op (vs e.1)),
    s := fillMap op (vs 32) w.s,
    frame := w.frame.map (fun (f : Frame) =>
      { f with lanes := f.lanes.map (fun e => (e.1, { e.2 with queue := e.2.queue.map (RVal.filled op (vs e.1)) })),
               s := fillMap op (vs 32) f.s }) }

/-! ### Loads (R187, R189) -/

/-- Bytes of an access code SZ (R40). -/
def szBytes (z : Nat) : Nat := if z < 2 then 1 else if z < 4 then 2 else if z < 6 then 4 else if z = 6 then 8 else 16
/-- The code sign-extends. -/
def szSigned (z : Nat) : Bool := z == 1 || z == 3 || z == 5

/-- The register image of loaded bytes. -/
def szValue (z : Nat) (bs : List Byte) : Word :=
  let v := natLE bs
  let n := 8 * bs.length
  if szSigned z && decide (2 ^ (n - 1) ≤ v) then BitVec.ofInt 64 ((v : Int) - ((2 ^ n : Nat) : Int)) else BitVec.ofNat 64 v

/-- A copy on a core's way to a point holds the byte. -/
def State.copied (s : State) (core point a : Nat) : Bool :=
  isCached a && ((point = 0 && (s.cachedByte true core a).isSome) || (point ≤ 1 && (s.cachedByte false (core / 16) a).isSome))

/-- The byte a core sees at a point carries poison: no copy on the way holds it, and its memory is poisoned, or its peer is lost. -/
def State.poisonAt (s : State) (core point a : Nat) : Bool := !s.copied core point a && (s.isPoison a || s.lostAt a)

/-- The operand of an atomic at a point is poisoned (R184), once the dirty bytes inside the point have gone to it; at a lost peer there is
none (R362). -/
def State.operandBad (s : State) (core point : Nat) (as : List Nat) : Bool :=
  as.any (fun a => !s.lostAt a && s.isPoison a && (let t := s.pushTo core point (a / 128)
    !t.copied core point a && t.isPoison a))

/-- Dirty bytes of a line that lie inside a point have to be pushed to it before a scoped access (R212). -/
def State.mustPush (s : State) (core point line : Nat) : Bool :=
  isCached (line * 128) && ((point != 0 && s.dirtyBytes true core line != [])
    || (point == 2 && s.dirtyBytes false (core / 16) line != []))

/-- The levels of a core inside a point, and the fills of a load's line under its policy (R178, R187, R212): a scoped load leaves no copy
there that could be older than what it reads. -/
def State.serve (s : State) (core point policy line : Nat) (plain : Bool) : State :=
  if !isCached (line * 128) then s
  else if !plain then
    let s2 := if point = 0 then s else s.discardClean true core (fun l => l == line)
    if point = 2 then s2.discardClean false (core / 16) (fun l => l == line) else s2
  else if policy = 3 then s.discardClean false (core / 16) (fun l => l == line)
  else (s.fillAs policy false (core / 16) line).fillAs policy true core line

/-- An earlier operation of the same warp on a line of o has not taken effect. -/
def State.behind (s : State) (o : MemOp) : Bool :=
  s.ops.any (fun p => p.warp == o.warp && decide (p.id < o.id) && !p.done && p.lines.any (fun l => o.lines.elem l))

/-! ### Read-modify-writes (R191) -/

/-- The new value: AOP of ATOM, with RED's functions under the codes ADD 0, MAX 2, FADD 8, FADD2 9; none where a CAS fails. -/
def rmwNew (aop : Nat) (wide : Bool) (old v e : Word) : Option Word :=
  let at' := fun (f : {n : Nat} → BitVec n → BitVec n → BitVec n) =>
    if wide then f old v else (f (old.setWidth 32) (v.setWidth 32)).setWidth 64
  if aop = 0 then some (at' fnAdd)
  else if aop = 1 then some (at' fnMin)
  else if aop = 2 then some (at' fnMax)
  else if aop = 3 then some (at' fnAnd)
  else if aop = 4 then some (at' fnOr)
  else if aop = 5 then some (at' fnXor)
  else if aop = 6 then some v
  else if aop = 7 then (if old = e then some v else none)
  else if aop = 8 then
    some (BitVec.ofNat 64 (if wide then (opAdd fp64 .rne old.toNat v.toNat).bits
      else (opAdd fp32 .rne (old.toNat % 2 ^ 32) (v.toNat % 2 ^ 32)).bits))
  else
    some (BitVec.ofNat 64 ((opAdd bf16 .rne (old.toNat % 65536) (v.toNat % 65536)).bits
      + 65536 * (opAdd bf16 .rne (old.toNat / 65536 % 65536) (v.toNat / 65536 % 65536)).bits))

/-- The value an atomic pushes: sign-extended, zero-extended for FADD of 32 bits. -/
def rmwResult (aop : Nat) (wide : Bool) (old : Word) : Word :=
  if wide ∨ aop = 8 then old else (old.setWidth 32).signExtend 64

end Sys2Proof.Machine
end

