-- ==== Sys2Proof/Machine/Loads.lean ====
section
/-! DEFINITION. LD, ST, ATOM, RED, FENCE, cache control, ULOAD and ADSET (R182 to R199). -/

namespace Sys2Proof.Machine

/-! ### Shared parts -/

/-- The load policy of the instruction: its own, an HMOD's, or none, which leaves it to the page (R51, R178, R329). -/
def Iss.policy (i : Iss) (own : Nat) : Option Nat :=
  let p := if i.hmod.getLsbD 7 then bitsOf i.hmod.toNat 4 3 else own
  if p = 0 then none else some p

/-- Checked accesses by the policy in force for each: the instruction's, else its page's (R178, R329). -/
def byPolicy (own : Option Nat) (rs : List (Nat × Reach)) : List (Nat × List (Nat × Reach)) :=
  ((rs.map (fun r => policyOf own r.2.vias)).eraseDups).map (fun q => (q, rs.filter (fun r => policyOf own r.2.vias == q)))

/-- The lines of some accesses that go by another policy than the access itself. -/
def apartOf (own : Option Nat) (rs : List (Nat × Reach)) : SMap Nat :=
  (rs.flatMap (fun r => r.2.apart own)).foldl (fun m e => mset m e.1 e.2) []

/-- The pages of some accesses: size as a power of two, and number. -/
def pagesOf (rs : List (Nat × Reach)) : List (Nat × Nat) :=
  (rs.flatMap (fun r => r.2.vias.map (fun v => (v.leaf.size, v.va / 2 ^ v.leaf.size)))).eraseDups

/-- A memory operation of the issue, without parts: policy 4 takes it home (R329). -/
def Iss.memOp (i : Iss) (s : State) (kind : OpKind) (scope order policy : Nat) : MemOp :=
  { id := 0, warp := i.k, core := i.w.core, region := (s.nodeOf i.w).region.rcb, lanes := maskOf i.lanes, pasid := (s.nodeOf i.w).region.pasid,
    kind := kind, scope := scope, order := order, policy := policy, point := if policy = 4 then 2 else s.pointOf i.w scope }

/-- The descriptor a memory word names, for a fault record (R364). -/
def dscObj (dsc : Bool) (a : BitVec 7) : Nat × Nat := if dsc then (1, a.toNat % 16) else (0, 0)

/-- Some named registers of some lanes as operands: specifiers legal, data there, not poisoned. -/
def Iss.readyIn (i : Iss) (s : State) (ls : List Nat) (srcs : List (BitVec 7)) : Option Res :=
  if ls.any (fun l => srcs.any (fun a => (i.readSpec s none l a).pend.isSome)) then some (.hold 2)
  else
    match ls.filter (fun l => srcs.any (fun a => (i.readSpec s none l a).poison)) with
    | [] => none
    | bad => some (.bad { cls := 0x11, lanes := bad })

/-- An instruction whose data take effect elsewhere: the lanes go on, in the warp as it stands after the effects so far. -/
def Iss.goOn (i : Iss) (s : State) (f : Warp → Warp) : Res :=
  match s.warp i.k with
  | none => .done s
  | some w => i.next s (f w)

/-- In-flight loads and atomics of a warp: an acquire follows them. -/
def State.readsOf (s : State) (k : Nat) : List Nat :=
  (s.ops.filter (fun o => o.warp == k && (match o.kind with
    | .load _ => true | .uload _ => true | .atom _ _ => true
    | _ => false))).map (fun o => o.id)

/-! ### LD (R189) -/

/-- LD (R189): checks in every lane that is not dismissed, a queue position at once, the data with the reply. -/
def execLd (x : BitVec 6) (a : BitVec 7) (m : BitVec 1) (z c : BitVec 3) (o : BitVec 2) (p : BitVec 3) (s : State) : Out :=
  let dsc := m == 1
  let quad := z == 7
  atIssue s (fun _ => { srcs := if dsc then [] else [a], dst := if quad && x != 63 then [x, x + 1] else [x], cp := true,
                        opOk := !quad || x == 63 || (x.toNat % 2 == 0 && x != 62) }) (fun i =>
    let n := szBytes z.toNat
    let as := i.lanes.map (fun l => (l, i.laneAddress s dsc a n l))
    match i.checkAll s c.toNat n .load (dscObj dsc a) ((as.filter (fun e => !e.2.2)).map (fun e => (e.1, e.2.1))) with
    | .error f => .bad f
    | .ok rs =>
      if i.mustWait s rs || s.forcedIn rs then .await (rs.flatMap (fun r => r.2.flats))
      else
        match i.migrating s rs with
        | some v => i.holdMigrating s false v
        | none =>
          let id := s.serial
          let s1 := countReads (i.touched s c.toNat false rs) rs
          let gs := if rs = [] ∧ o = 1 then [(0, [])] else byPolicy (i.policy p.toNat) rs
          let s2 := gs.foldl (fun t g => t.addOp { i.memOp s (.load z.toNat) c.toNat o.toNat g.1 with
            pages := pagesOf g.2, apart := apartOf (i.policy p.toNat) g.2, parts := g.2.map (fun r => { lane := r.1, addrs := r.2.flats, unit := r.2.unit }),
            after := if o = 1 then s.readsOf i.k else [] }) s1
          -- the operation that holds a lane's part
          let opOf := fun (l : Nat) => (gs.findIdx? (fun g => g.2.any (fun r => r.1 == l))).map (fun k => id + k)
          let entry := fun (l half : Nat) => match opOf l with
            | none => ({} : RVal)
            | some k => { pend := some (2 * k + half) }
          i.goOn s2 (fun w => w.modLanes i.lanes (fun l y =>
            if quad then i.w.result (if x = 63 then 63 else x + 1) (entry l 1) (i.w.result x (entry l 0) y)
            else i.w.result x (entry l 0) y)))

/-! ### ST (R190) -/

/-- The bytes of a lane's stored value. -/
def storeBytes (z : Nat) (lo hi : Word) : List Byte := if z = 7 then bytesLE 8 lo.toNat ++ bytesLE 8 hi.toNat else bytesLE (szBytes z) lo.toNat

/-- The parts of an access by line: for each line, the pieces of each lane in it. -/
def splitLines (ps : List Part) : List (Nat × List Part) :=
  (linesOf (ps.flatMap (fun p => p.addrs))).map (fun ln => (ln, ps.filterMap (fun p =>
    let keep := (p.addrs.zip p.data).filter (fun e => e.1 / 128 == ln)
    if keep = [] then none else some { p with addrs := keep.map Prod.fst, data := keep.map Prod.snd })))

/-- The single-copy atomic accesses of some parts in order: the first of each, then the second, and so on (R175, R188). -/
def pieces (ps : List Part) : List (List Part) :=
  (List.range 4).filterMap (fun k =>
    match ps.filterMap (fun p =>
      match (p.addrs.drop (k * p.unit)).take p.unit with
      | [] => none
      | as => some { p with addrs := as, data := (p.data.drop (k * p.unit)).take p.unit }) with
    | [] => none
    | q => some q)

/-- The bytes of a part that no higher lane of the instruction stores too (R180). -/
def Part.below (ps : List Part) (q : Part) : Part :=
  let keep := (q.addrs.zip q.data).filter (fun e => !ps.any (fun p => decide (q.lane < p.lane) && p.addrs.elem e.1))
  { q with addrs := keep.map Prod.fst, data := keep.map Prod.snd }

/-- Adds one operation for each line of a write, which carries every lane's bytes in it (R179, R194), with the release's pushes before it,
and a fence for the lanes of a release that write nothing (R186). gs gives the policies with their parts; idle says that there are such
lanes. -/
def Iss.addWrites (i : Iss) (s : State) (kind : OpKind) (scope order : Nat) (pages : List (Nat × Nat)) (gs : List (Nat × List Part))
    (expect : SMap Word) (idle : Bool) : State :=
  let rel := order = 2 ∨ order = 3
  let r := if rel then s.releaseAction i.k i.w scope else (s, s.fencesOf i.k)
  let after := r.2 ++ (if order % 2 = 1 then s.readsOf i.k else [])
  let base := fun (q : Nat) => { i.memOp s kind scope order q with pages := pages, expect := expect, after := after }
  let s1 := (gs.flatMap (fun g => (splitLines g.2).map (fun e => (g.1, e.2)))).foldl
    (fun s e => s.addOp { base e.1 with parts := e.2 }) r.1
  if rel ∧ (idle ∨ gs.all (fun g => g.2 == [])) then s1.addOp { base 0 with kind := .fence, order := 2, parts := [] } else s1

/-- ST (R190): a plain store writes the L1 at once; a scoped one is posted (R187). -/
def execSt (x a : BitVec 7) (m : BitVec 1) (z c : BitVec 3) (o : BitVec 2) (g : BitVec 3) (s : State) : Out :=
  let dsc := m == 1
  let quad := z == 7
  let xs := if quad then [x, x + 1] else [x]
  atIssue s (fun _ => { srcs := if dsc then [] else [a], also := [x], pair := xs.drop 1, guard := g, cp := true,
                        opOk := !quad || (decide (x.toNat < 62) && x.toNat % 2 == 0) }) (fun i =>
    let n := szBytes z.toNat
    let ls := i.lanes.filter (fun l => (i.w.lane l).guard g)
    let as := (ls.map (fun l => (l, i.laneAddress s dsc a n l))).filter (fun e => !e.2.2)
    match i.readyIn s (as.map Prod.fst) xs with
    | some r => r
    | none =>
      match i.checkAll s c.toNat n .store (dscObj dsc a) (as.map (fun e => (e.1, e.2.1))) with
      | .error f => .bad f
      | .ok rs =>
        if i.mustWait s rs || (2 ≤ o.toNat && s.heldWrite i.k) then .await (rs.flatMap (fun r => r.2.flats))
        else
          match i.migrating s rs with
          | some v => i.holdMigrating s true v
          | none =>
            let own := i.policy 0
            let part := fun (r : Nat × Reach) =>
              ({ lane := r.1, addrs := r.2.flats, unit := r.2.unit,
                 data := storeBytes z.toNat (i.val s r.1 x) (if quad then i.val s r.1 (x + 1) else 0) } : Part)
            -- the words of a private access whose pages have different policies go their own ways
            let parts := rs.flatMap (fun r => if r.2.apart own = [] then [(policyOf own r.2.vias, part r)] else
              ((List.range r.2.words.length).zip r.2.words).map (fun e => (policyOf own e.2.vias,
                { part r with addrs := e.2.flats, data := ((part r).data.drop (4 * e.1)).take 4 })))
            let gs := ((parts.map Prod.fst).eraseDups).map (fun q => (q, (parts.filter (fun p => p.1 == q)).map Prod.snd))
            let s1 := i.touched s c.toNat true rs
            if c = 0 ∧ o = 0 then
              let plain := (gs.filter (fun g => g.1 != 4)).flatMap Prod.snd
              let steps := (pieces plain).map (fun ps => ps.map (Part.below plain))
              let now := steps.headD []
              if s.conflict i.k (linesOf (plain.flatMap (fun p => p.addrs))) then .hold 2
              else
                let lines := linesOf (now.flatMap (fun p => p.addrs))
                let s2 := ((s1.claimed i.w.core (s.nodeOf i.w).region.rcb lines).writeBytes i.w.core 0
                  (now.flatMap (fun p => p.addrs.zip p.data))).used i.w.core
                    (({ i.memOp s .store 0 0 0 with pages := pagesOf rs } : MemOp).users) lines
                i.goOn (i.addWrites s2 .store 0 0 (pagesOf rs) ([(0, (steps.drop 1).flatten)] ++ gs.filter (fun g => g.1 == 4)) [] false) (fun w => w)
            else i.goOn (i.addWrites s1 .store c.toNat o.toNat (pagesOf rs) gs [] (rs.length != i.lanes.length)) (fun w => w))

/-! ### ATOM and RED (R191 to R193) -/

/-- An atomic or a reduction: aop under the codes of `rmwNew`; push says that it pushes the old value. -/
def atomic (push : Bool) (aop : Nat) (x : BitVec 6) (a : BitVec 7) (wide : Bool) (c : BitVec 3) (o : BitVec 2) (g : BitVec 3)
    (s : State) : Out :=
  let n := if wide then 8 else 4
  let v : BitVec 7 := x.setWidth 7
  let cas := push && aop == 7
  atIssue s (fun i => { srcs := if cas then [a, v, v + 1] else [a, v], guard := g, legal := i.himm == [],
                        opOk := !cas || (x.toNat % 2 == 0 && decide (x.toNat < 62)) }) (fun i =>
    let ls := i.lanes.filter (fun l => (i.w.lane l).guard g)
    match i.checkAll s c.toNat n (.rmw (push && c == 6 && (aop == 0 || aop == 6 || aop == 7))) (0, 0)
        (ls.map (fun l => (l, i.val s l a))) with
    | .error f => .bad f
    | .ok rs =>
      if i.mustWait s rs || (2 ≤ o.toNat && s.heldWrite i.k) then .await (rs.flatMap (fun r => r.2.flats))
      else
        match i.migrating s rs with
        | some v => i.holdMigrating s true v
        | none =>
          -- a page of CPOL 4 serves every access at home (R329)
          let home := fun (r : Nat × Reach) => policyOf none r.2.vias == 4
          match rs.filter (fun r => s.operandBad i.w.core (if home r then 2 else s.pointOf i.w c.toNat) r.2.flats) with
          | b :: bad =>
            -- an earlier operation of the warp may still clean it
            if s.conflict i.k (linesOf ((b :: bad).flatMap (fun r => r.2.flats))) then .hold 2
            else .bad { cls := 0x11, lanes := (b :: bad).map Prod.fst, addr := i.val s b.1 a }
          | [] =>
            let s1 := countReads (i.touched s c.toNat true rs) (if push then rs else [])
            let parts := fun (rs : List (Nat × Reach)) => rs.map (fun r =>
              ({ lane := r.1, va := i.val s r.1 a, addrs := r.2.flats, data := bytesLE n (i.val s r.1 v).toNat } : Part))
            let ex : SMap Word := if cas then ls.map (fun l => (l, BitVec.ofNat 64 (i.low s l (8 * n) (v + 1)))) else []
            let s2 := i.addWrites s1 (if push then .atom aop wide else .red aop wide) c.toNat o.toNat (pagesOf rs)
              [(0, parts (rs.filter (fun r => !home r))), (4, parts (rs.filter home))] ex (rs.length != i.lanes.length)
            -- an acquire whose guard is false in every lane still acts (R186)
            let s3 := if o.toNat % 2 = 1 ∧ rs = [] then
                s2.addOp { i.memOp s (.load 0) c.toNat 1 0 with after := s.readsOf i.k }
              else s2
            -- each lane's entry waits for the operation that holds its part
            let opOf := fun (l : Nat) => ((s3.ops.drop s.ops.length).find? (fun p => p.kind == .atom aop wide
              && p.parts.any (fun q => q.lane == l))).map (fun p => p.id)
            i.goOn s3 (fun w => if push then w.modLanes ls (fun l y => y.pushQ { pend := (opOf l).map (fun k => 2 * k) }) else w))

/-- ATOM.ADD (R191). -/
def execAtomAdd (x : BitVec 6) (a : BitVec 7) (w : BitVec 1) (c : BitVec 3) (o : BitVec 2) (g : BitVec 3) (s : State) : Out :=
  atomic true 0 x a (w == 1) c o g s
/-- ATOM.MIN (R191). -/
def execAtomMin (x : BitVec 6) (a : BitVec 7) (w : BitVec 1) (c : BitVec 3) (o : BitVec 2) (g : BitVec 3) (s : State) : Out :=
  atomic true 1 x a (w == 1) c o g s
/-- ATOM.MAX (R191). -/
def execAtomMax (x : BitVec 6) (a : BitVec 7) (w : BitVec 1) (c : BitVec 3) (o : BitVec 2) (g : BitVec 3) (s : State) : Out :=
  atomic true 2 x a (w == 1) c o g s
/-- ATOM.AND (R191). -/
def execAtomAnd (x : BitVec 6) (a : BitVec 7) (w : BitVec 1) (c : BitVec 3) (o : BitVec 2) (g : BitVec 3) (s : State) : Out :=
  atomic true 3 x a (w == 1) c o g s
/-- ATOM.OR (R191). -/
def execAtomOr (x : BitVec 6) (a : BitVec 7) (w : BitVec 1) (c : BitVec 3) (o : BitVec 2) (g : BitVec 3) (s : State) : Out :=
  atomic true 4 x a (w == 1) c o g s
/-- ATOM.XOR (R191). -/
def execAtomXor (x : BitVec 6) (a : BitVec 7) (w : BitVec 1) (c : BitVec 3) (o : BitVec 2) (g : BitVec 3) (s : State) : Out :=
  atomic true 5 x a (w == 1) c o g s
/-- ATOM.EXCH (R191). -/
def execAtomExch (x : BitVec 6) (a : BitVec 7) (w : BitVec 1) (c : BitVec 3) (o : BitVec 2) (g : BitVec 3) (s : State) : Out :=
  atomic true 6 x a (w == 1) c o g s
/-- ATOM.CAS (R191): X and X + 1 hold the new and the expected value. -/
def execAtomCas (x : BitVec 6) (a : BitVec 7) (w : BitVec 1) (c : BitVec 3) (o : BitVec 2) (g : BitVec 3) (s : State) : Out :=
  atomic true 7 x a (w == 1) c o g s
/-- ATOM.FADD (R191). -/
def execAtomFadd (x : BitVec 6) (a : BitVec 7) (w : BitVec 1) (c : BitVec 3) (o : BitVec 2) (g : BitVec 3) (s : State) : Out :=
  atomic true 8 x a (w == 1) c o g s
/-- RED.ADD (R191). -/
def execRedAdd (x : BitVec 6) (a : BitVec 7) (w : BitVec 1) (c : BitVec 3) (o : BitVec 2) (g : BitVec 3) (s : State) : Out :=
  atomic false 0 x a (w == 1) c o g s
/-- RED.MAX (R191). -/
def execRedMax (x : BitVec 6) (a : BitVec 7) (w : BitVec 1) (c : BitVec 3) (o : BitVec 2) (g : BitVec 3) (s : State) : Out :=
  atomic false 2 x a (w == 1) c o g s
/-- RED.FADD (R191). -/
def execRedFadd (x : BitVec 6) (a : BitVec 7) (w : BitVec 1) (c : BitVec 3) (o : BitVec 2) (g : BitVec 3) (s : State) : Out :=
  atomic false 8 x a (w == 1) c o g s
/-- RED.FADD2 (R191). -/
def execRedFadd2 (x : BitVec 6) (a : BitVec 7) (c : BitVec 3) (o : BitVec 2) (g : BitVec 3) (s : State) : Out :=
  atomic false 9 x a false c o g s

/-! ### FENCE and cache control (R195 to R197) -/

/-- The lanes wait for a fence operation: its release part is under way; before, an operation it follows besides (R195). -/
def Iss.startFence (i : Iss) (s : State) (scope order : Nat) (before : List Nat) : Res :=
  let r := if 2 ≤ order then s.releaseAction i.k i.w scope else (s, [])
  let id := r.1.serial
  let s1 := r.1.addOp { id := 0, warp := i.k, core := i.w.core, region := (s.nodeOf i.w).region.rcb, kind := .fence,
                        scope := scope, order := order, point := s.pointOf i.w scope,
                        after := r.2 ++ before ++ (if order % 2 = 1 then s.readsOf i.k else []) }
  if 2 ≤ order ∧ s.heldWrite i.k then .hold 2 else .done (s1.modWarp i.k (fun w => i.parkLanes w (fun _ => .fence id)))

/-- FENCE (R195). -/
def execFence (c : BitVec 3) (o : BitVec 2) (s : State) : Out :=
  atIssue s (fun _ => {}) (fun i => i.startFence s c.toNat o.toNat [])

/-- FENCE.R (R196): the victim core drains first. -/
def execFenceR (a : BitVec 7) (c : BitVec 3) (o : BitVec 2) (s : State) : Out :=
  atIssue s (fun _ => { uni := [a] }) (fun i =>
    let v := (i.uval s a).toNat
    if 512 ≤ v then .bad (i.operand s)
    else
      let s1 := s.addOp (i.memOp s (.drain v) c.toNat 0 0)
      i.startFence s1 c.toNat o.toNat [s.serial])

/-- The virtual address of the page entry behind a lane's address: its own, or the interleaved one of the private aperture; none for a
window. -/
def Iss.pagedVa (i : Iss) (s : State) (l : Nat) (a : Word) : Option Nat :=
  match apertureOf a.toNat with
  | .global => some a.toNat
  | .privateMem => some (privateVa (s.wg i.w.wg).privBase (s.nodeOf i.w).kernel.priv (i.w.lane l).tid (a.toNat % 2 ^ 40))
  | _ => none

/-- The flat address a lane's address names, by checks 1 to 4 of R183 alone; none for a window that a later check keeps from the warp. -/
def Iss.spotAddress (i : Iss) (s : State) (l : Nat) (a : Word) : Except Denied (Option Nat) :=
  match i.reach s 0 l a 1 .load with
  | .ok r => .ok r.flats.head?
  | .error d =>
    if d.rank < 50 then .error d
    else .ok ((i.pagedVa s l a).bind (fun va => match translate s i.w.core (s.nodeOf i.w).region.pasid va false with
      | .ok leaf => some (leafFlat leaf va)
      | .error _ => none))

/-- The cached byte a lane's address names for cache control; none where it is not cached. -/
def Iss.lineAddress (i : Iss) (s : State) (l : Nat) (a : Word) : Except Denied (Option Nat) :=
  (i.spotAddress s l a).map (fun f => f.filter isCached)

/-! ### PARK (R256) -/

/-- The line an address names for PARK; none where it names nothing. -/
def Iss.watchLine (i : Iss) (s : State) (l : Nat) (spec : BitVec 7) (a : Word) : Option Nat :=
  if spec = 0x70 then none
  else
    match i.spotAddress s l a with
    | .error _ => none
    | .ok f => f.map (fun f => f / 128)

/-- PARK: each lane parks watching its line, which comes into the L1, so that invalidations reach the core. -/
def execPark (a : BitVec 7) (s : State) : Out :=
  atIssue s (fun _ => { srcs := [a] }) (fun i =>
    let line := fun l => i.watchLine s l a (i.val s l a)
    let lines := ((i.lanes.filterMap line).eraseDups).filter (fun n => isCached (n * 128))
    let pages := (i.lanes.filterMap (fun l => i.pagedVa s l (i.val s l a))).filterMap (fun va =>
      match translate s i.w.core (s.nodeOf i.w).region.pasid va false with
      | .ok leaf => some (leaf.size, va / 2 ^ leaf.size)
      | .error _ => none)
    if lines.any s.locked then .hold 2
    else
      let s1 := (lines.foldl (fun s n => s.fill true i.w.core n) (s.claimed i.w.core (s.nodeOf i.w).region.rcb lines)).used i.w.core
        (({ i.memOp s .store 0 0 0 with pages := pages.eraseDups } : MemOp).users) lines
      .done (s1.modWarp i.k (fun w => i.parkLanes w (fun l => .watch (line l) s.cycle false))))

/-- CWB and CINV: checks 1 to 4, then an action on the named lines. -/
def cacheControl (a : BitVec 7) (act : Iss → State → List Nat → Res) (s : State) : Out :=
  atIssue s (fun _ => { srcs := [a] }) (fun i =>
    let rs := i.lanes.map (fun l => (l, i.val s l a, i.lineAddress s l (i.val s l a)))
    let bad := rs.filterMap (fun r => match r.2.2 with
      | .error d => some (d, r.1, r.2.1)
      | .ok _ => none)
    match leastBy (fun e => e.1.rank) bad with
    | some e => .bad { cls := e.1.cls, addr := e.2.2,
                       lanes := (bad.filter (fun x => x.1.rank == e.1.rank)).map (fun x => x.2.1) }
    | none =>
      let lines := linesOf (rs.filterMap (fun r => match r.2.2 with
        | .ok f => f
        | .error _ => none))
      if i.acquiring s || s.conflict i.k lines then .hold 2 else act i s lines)

/-- CWB (R197): posted pushes of the named lines. -/
def execCwb (a : BitVec 7) (c : BitVec 3) (s : State) : Out :=
  cacheControl a (fun i s lines =>
    let p := s.pointOf i.w c.toNat
    i.goOn (if p = 0 then s
      else s.addPushes i.k i.w.core (s.nodeOf i.w).region.rcb p true (lines.filter (fun l => p != 2 || c == 6 || homedHere (l * 128)))) (fun w => w)) s

/-- CINV (R197): dirty bytes go outward, as CWB sends them; then the named lines leave the L1, and the cluster cache from cluster scope on,
whose dirty bytes go home. -/
def execCinv (a : BitVec 7) (c : BitVec 3) (s : State) : Out :=
  cacheControl a (fun i s lines =>
    let cl := decide (3 ≤ c.toNat)
    if cl && lines.any s.locked then .hold 2
    else
      let s1 := lines.foldl (fun s l =>
        let t := s.pushOut i.w.core l
        let t1 := (if cl then t.sendHome (i.w.core / 16) l else t).discardClean true i.w.core (fun x => x == l)
        if cl then t1.discardClean false (i.w.core / 16) (fun x => x == l) else t1) s
      -- the pushes home await their acknowledgement
      let s2 := if cl then lines.foldl (fun s l => s.addOp { i.memOp s (.push true true) 6 0 0 with
          done := true, acks := [none], parts := [{ lane := 0, addrs := [l * 128] }] }) s1 else s1
      i.goOn s2 (fun w => w)) s

/-- PREF (R197): brings the lines in; a lane that would fault is dropped. -/
def execPref (a : BitVec 7) (c : BitVec 3) (s : State) : Out :=
  atIssue s (fun _ => { srcs := [a], cp := true }) (fun i =>
    let rs := i.lanes.filterMap (fun l => match i.reach s 0 l (i.val s l a) 1 .load with
      | .ok r => if r.mig then none else some (l, r)
      | .error _ => none)
    let kept := ((byPolicy (i.policy 0) rs).filter (fun g => g.1 != 3 && g.1 != 4)).flatMap (fun g => g.2.map (fun r => (g.1, r)))
    let found := (kept.flatMap (fun r => (linesOf r.2.2.flats).map (fun l => (l, r.1)))).filter
      (fun e => isCached (e.1 * 128) && !s.lostAt (e.1 * 128))
    let lines := (found.map Prod.fst).eraseDups
    if lines.any s.locked then .hold 2
    else
      let s1 := found.foldl (fun s e =>
        let t := s.fillAs e.2 false (i.w.core / 16) e.1
        if c = 0 then t.fillAs e.2 true i.w.core e.1 else t) ((i.touched s 0 false rs).claimed i.w.core (s.nodeOf i.w).region.rcb lines)
      i.goOn (s1.used i.w.core (({ i.memOp s .store 0 0 0 with pages := pagesOf (kept.map Prod.snd) } : MemOp).users) lines) (fun w => w))

/-! ### ULOAD (R198) -/

/-- The effective offset of a ULOAD: a + 8 OFF, or a + 8 v under HIMM, exact. -/
def Iss.uloadOffset (i : Iss) (s : State) (a : BitVec 7) (o : BitVec 10) : Int :=
  ((i.readSpec s (some o) (i.lanes.headD 0) a).bits.toNat : Int) +
    8 * (match i.himm with
      | [] => (o.toNat : Int)
      | h => (himmValue h (some o)).toInt)

/-- ULDA and ULDK: a doubleword of a write-protected block; bytes at or past size read 0. -/
def uloadBlock (d : BitVec 5) (a : BitVec 7) (o : BitVec 10) (base : State → Iss → Nat) (size : State → Iss → Nat) (bound : Nat → Nat)
    (s : State) : Out :=
  atIssue s (fun _ => { uni := [a], imm := some o }) (fun i =>
    let off := i.uloadOffset s a o
    let va := base s i + off.toNat
    if off % 8 ≠ 0 then .bad { cls := 0x03, addr := BitVec.ofInt 64 (base s i + off), lanes := i.lanes }
    else if off < 0 ∨ (bound (size s i) : Int) < off + 8 then
      .bad { cls := 0x05, addr := BitVec.ofInt 64 (base s i + off), lanes := i.lanes }
    else
      match reachGlobal s (i.who s 0) va 8 .load with
      | .error e => .bad { cls := e.cls, addr := BitVec.ofNat 64 va, lanes := i.lanes }
      | .ok r =>
        match i.migrating s [(0, r)] with
        | some v => i.holdMigrating s false v
        | none =>
          let n := size s i - off.toNat
          let t := i.touched s 0 false [(0, r)]
          i.next t (i.w.setS d.toNat { bits := BitVec.ofNat 64 (natLE ((r.flats.take n).map (t.view i.w.core 2))),
                                       poison := (r.flats.take n).any (t.poisonAt i.w.core 2) }))

/-- ULDA (R198): the argument block. -/
def execUlda (_s : BitVec 1) (d : BitVec 5) (a : BitVec 7) (o : BitVec 10) (s : State) : Out :=
  uloadBlock d a o (fun s i => (s.nodeOf i.w).argCopy) (fun s i => (s.nodeOf i.w).kernel.args) id s
/-- ULDK (R198): the constant segment. -/
def execUldk (_s : BitVec 1) (d : BitVec 5) (a : BitVec 7) (o : BitVec 10) (s : State) : Out :=
  uloadBlock d a o (fun s i => (s.nodeOf i.w).kernel.constVa) (fun s i => (s.nodeOf i.w).kernel.constSize) (fun n => cdiv n 8 * 8) s

/-- ULD (R198): a plain 8-byte load on behalf of the lowest lane. -/
def execUld (d : BitVec 5) (a : BitVec 7) (o : BitVec 10) (s : State) : Out :=
  atIssue s (fun _ => { uni := [a], imm := some o, cp := true }) (fun i =>
    let off := i.uloadOffset s a o
    let addr := BitVec.ofInt 64 off
    let lead := i.lanes.headD 0
    match (if off < 0 ∨ 2 ^ 56 ≤ off then .error { rank := 10, cls := 0x04 } else i.reach s 0 lead addr 8 .load) with
    | .error e => .bad { cls := e.cls, addr := addr, lanes := i.lanes }
    | .ok r =>
      if i.mustWait s [(lead, r)] || s.forcedIn [(lead, r)] then .await r.flats
      else
        match i.migrating s [(lead, r)] with
        | some v => i.holdMigrating s false v
        | none =>
          let id := s.serial
          let s1 := countReads (i.touched s 0 false [(lead, r)]) [(lead, r)]
          let s2 := s1.addOp { i.memOp s (.uload d.toNat) 0 0 (policyOf (i.policy 0) r.vias) with
            pages := pagesOf [(lead, r)], apart := apartOf (i.policy 0) [(lead, r)], parts := [{ lane := 32, addrs := r.flats, unit := r.unit }] }
          i.goOn s2 (fun w => w.setS d.toNat { pend := some (2 * id) }))

/-! ### ADSET (R199) -/

/-- Replaces n bits of a wide register at a position. -/
def putBits {w : Nat} (v : BitVec w) (lo n x : Nat) : BitVec w :=
  (v &&& ~~~(BitVec.ofNat w (2 ^ n - 1) <<< lo)) ||| (BitVec.ofNat w (x % 2 ^ n) <<< lo)

/-- An ADSET function: the descriptor's new value from the uniform operands. -/
def adset (k : BitVec 4) (srcs : List (BitVec 7)) (f : Iss → BitVec 256 → BitVec 256) (s : State) : Out :=
  atIssue s (fun _ => { uni := srcs }) (fun i =>
    i.next s { i.w with d := mput 0 i.w.d k.toNat (f i (i.w.dsc k.toNat)) })

/-- ADBASE (R199). -/
def execAdbase (k : BitVec 4) (a b : BitVec 7) (s : State) : Out :=
  adset k [a, b] (fun i d => putBits (putBits (putBits d 0 56 (i.uval s a).toNat) 224 32 (i.uval s b).toNat) 57 1
    (bitsOf (i.uval s b).toNat 32 1)) s
/-- ADCOEF (R199). -/
def execAdcoef (k : BitVec 4) (a b : BitVec 7) (s : State) : Out :=
  adset k [a, b] (fun i d => putBits (putBits d 96 64 (i.uval s a).toNat) 160 64 (i.uval s b).toNat) s
/-- ADLIM (R199). -/
def execAdlim (k : BitVec 4) (a : BitVec 7) (s : State) : Out :=
  adset k [a] (fun i d => putBits d 64 32 (i.uval s a).toNat) s
/-- ADSTG (R199): SLV, SNUM, SEN. -/
def execAdstg (k : BitVec 4) (a : BitVec 7) (s : State) : Out :=
  adset k [a] (fun i d =>
    let v := (i.uval s a).toNat
    putBits (putBits (putBits d 61 2 (bitsOf v 0 2)) 58 3 (bitsOf v 2 3)) 63 1 (bitsOf v 5 1)) s

end Sys2Proof.Machine
end

