-- ==== Sys2Proof/Machine/Flow.lean ====
section
/-! DEFINITION. What becomes of memory operations in flight: writes at their points, replies, acknowledgements, invalidations,
evictions, walks, refills and replays (R21, R173, R187 to R197, R212 to R218, R330, R331). An event that is not due changes
nothing. -/

namespace Sys2Proof.Machine

/-! ### Operations -/

/-- An operation in flight. -/
def State.opOf (s : State) (id : Nat) : Option MemOp := s.ops.find? (fun o => o.id == id)

/-- Changes an operation. -/
def State.modOp (s : State) (id : Nat) (f : MemOp → MemOp) : State :=
  { s with ops := s.ops.map (fun o => if o.id == id then f o else o) }

/-- An operation is over: what waited for it goes on. -/
def State.retire (s : State) (id : Nat) : State :=
  { s with ops := (s.ops.filter (fun o => o.id != id)).map (fun o => { o with after := o.after.filter (fun i => i != id) }) }

/-- An operation is over: where it was the last one of a workgroup that has ended, that gives back what it holds (R372). -/
def State.over (s : State) (o : MemOp) : State :=
  match s.warp o.warp with
  | none => s.retire o.id
  | some w => (s.retire o.id).release w.wg

/-- What it follows is over, no earlier operation of its warp on its lines is still to take effect, and it has not taken effect. -/
def State.opReady (s : State) (o : MemOp) : Bool := o.after == [] && !o.done && !s.behind o

/-- It takes effect at a line's home. -/
def MemOp.atHome (o : MemOp) : Bool :=
  match o.kind with
  | .push h _ => h
  | _ => o.point == 2 && o.lines.any (fun l => isCached (l * 128))

/-- The kinds that take effect by a write. -/
def MemOp.isWrite (o : MemOp) : Bool :=
  match o.kind with
  | .store => true
  | .atom _ _ => true
  | .red _ _ => true
  | .push _ _ => true
  | .jarv _ _ _ => true
  | _ => false

/-! ### Taking effect -/

/-- The lane of a warp that owns a result has an entry waiting for it: a warp that has ended has none. -/
def State.fillWarp (s : State) (o : MemOp) (vs : Nat → List RVal) : State :=
  s.modWarp o.warp (fun w => w.filled o.id vs)

/-- The tag that an acknowledgement returns for a write at home (R194, R360): the line's last tag, here or in its peer package; none for a
line of the host. -/
def State.ackTag (s : State) (line : Nat) : Option (BitVec 16) :=
  if homedHere (line * 128) || isPeer (line * 128) then some (s.tagOf line) else none

/-- What a write of an operation has its acknowledgement return: a tag from die scope on, where the line has one (R194). -/
def State.tagged (s : State) (o : MemOp) (line : Nat) : Option (BitVec 16) :=
  if decide (4 ≤ o.scope) && isCached (line * 128) && !s.lostAt (line * 128) then s.ackTag line else none

/-- The write of a posted store; bytes of a lost peer are discarded and logged (R362). -/
def State.effectStore (s : State) (o : MemOp) : State :=
  let ps := o.parts.flatMap (fun p => p.addrs.zip p.data)
  let s1 := s.writeBytes o.core o.point (ps.filter (fun p => !s.lostAt p.1))
  match ps.find? (fun p => s.lostAt p.1) with
  | none => s1
  | some p => s1.log p.1

/-- What lane operations of an atomic or a reduction leave: the state, their parts with the old values, the acknowledgements they cause. -/
structure RmwOut where
  state : State
  parts : List Part := []
  acks  : List (Option (BitVec 16)) := []

/-- One lane operation of an atomic or a reduction (R191, R192, R194): its old value, and the write; a lost peer leaves memory as it is
(R362). DESIGN CHOICE (log entry 53): so does poison that has reached the operand since the issue, when R184 found none; the old value
carries it. -/
def State.effectRmw (s : State) (o : MemOp) (aop : Nat) (wide : Bool) (p : Part) : RmwOut :=
  let bs := p.addrs.map (s.view o.core o.point)
  let old := { p with data := bs, taken := true }
  if p.addrs.any s.lostAt then
    { state := s.log (p.addrs.headD 0), parts := [{ old with bad := List.range bs.length }], acks := [none] }
  else if p.addrs.any (s.poisonAt o.core o.point) then
    { state := s, parts := [{ old with bad := List.range bs.length }], acks := [none] }
  else
    match rmwNew aop wide (BitVec.ofNat 64 (natLE bs)) (BitVec.ofNat 64 (natLE p.data)) (mgetD o.expect p.lane 0) with
    | none => { state := s, parts := [old], acks := [none] }
    | some v =>
      let t := s.writeBytes o.core o.point (p.addrs.zip (bytesLE bs.length v.toNat))
      { state := t, parts := [old], acks := [t.tagged o (p.addrs.headD 0 / 128)] }

/-- All lane operations of an atomic or reduction, in ascending lane order (R192). -/
def State.effectRmws (s : State) (o : MemOp) (aop : Nat) (wide : Bool) (ps : List Part) : RmwOut :=
  match ps with
  | [] => { state := s }
  | p :: r =>
    let x := (s.pushTo o.core o.point (p.addrs.headD 0 / 128)).effectRmw o aop wide p
    let y := x.state.effectRmws o aop wide r
    { state := y.state, parts := x.parts ++ y.parts, acks := x.acks ++ y.acks }

/-- A cache holds a line for a region. -/
def State.heldFor (s : State) (l1 : Bool) (unit line region : Nat) : Bool :=
  match lineGet (s.cache l1 unit) line with
  | none => false
  | some l => l.isOf region

/-- A push of a line: dirty bytes of the core's L1, and of the cluster cache when it goes home (R212); of a line that no instruction names,
where it is held for the operation's region (R213). -/
def State.effectPush (s : State) (o : MemOp) (toHome named : Bool) : State :=
  o.lines.foldl (fun s l =>
    let s1 := if named || s.heldFor true o.core l o.region then s.pushL1 o.core l else s
    if toHome && (named || s1.heldFor false (o.core / 16) l o.region) then s1.sendHome (o.core / 16) l else s1) s

/-- A write takes effect at its point. An atomic keeps its old values until the reply. -/
def State.effect (s : State) (o : MemOp) : State :=
  let lines := o.lines.filter (fun l => isCached (l * 128))
  let s := match o.kind with
    | .push _ _ => s
    | _ => s.claimed o.core o.region lines
  let finish := fun (s : State) (acks : List (Option (BitVec 16))) (f : MemOp → MemOp) =>
    (s.modOp o.id (fun x => { f x with done := true, acks := acks })).used o.core o.users lines
  match o.kind with
  | .store =>
    let t := s.effectStore o
    finish t [t.tagged o (o.lines.headD 0)] (fun x => x)
  | .atom aop wide =>
    let r := s.effectRmws o aop wide o.parts
    finish r.state r.acks (fun x => { x with parts := r.parts })
  | .red aop wide =>
    let r := s.effectRmws o aop wide o.parts
    finish r.state r.acks (fun x => x)
  | .push h n => finish (s.effectPush o h n) [none] (fun x => x)
  | _ => s

/-- The point at which an operation serves a line: home where the line's page is uncached (R329). -/
def MemOp.pointAt (o : MemOp) (line : Nat) : Nat := if (mget o.apart line) = some 4 then 2 else o.point
/-- The load policy by which an operation goes at a line. -/
def MemOp.policyAt (o : MemOp) (line : Nat) : Nat := (mget o.apart line).getD o.policy

/-- Dirty bytes of a line that a core's caches hold inside a point go to it; those of a lost peer are discarded and logged (R212, R362). -/
def State.bringTo (s : State) (core point line : Nat) : State :=
  if point = 0 then s else if point = 1 then s.pushOut core line else (s.pushOut core line).sendHome (core / 16) line

/-- Some of the lines have dirty bytes inside the point, which go to it first, as a write of their own (R212, R215). -/
def State.pushFirst (s : State) (o : MemOp) (lines : List Nat) : Option State :=
  match lines.filter (fun l => s.mustPush o.core (o.pointAt l) l) with
  | [] => none
  | ls => some (if ls.any (fun l => o.pointAt l == 2 && s.locked l) then s else ls.foldl (fun s l => s.bringTo o.core (o.pointAt l) l) s)

/-- HOME_REQUEST (R194, R212, R215): a write or push that goes home arrives there, once the line's lock is free; the dirty bytes that lie
inside the point before it. -/
def execHomeRequest (op : Nat) (s : State) : Out :=
  match s.opOf op with
  | none => .next s
  | some o =>
    if o.isWrite && o.atHome && s.opReady o then
      match (match o.kind with | .push _ _ => none | _ => s.pushFirst o o.lines) with
      | some t => .next t
      | none => if o.lines.any s.locked then .next s else .next (s.effect o)
    else .next s

/-! ### Flaws (R390, R393) -/

/-- The caches of a core and its cluster drop their copies of a granule, so that every read of it meets its poison. -/
def State.dropGranule (s : State) (core a : Nat) : State :=
  let m : BitVec 128 := ~~~(0xFFFFFFFF#128 <<< (a % 128 / 32 * 32))
  let drop := fun (l1 : Bool) (unit : Nat) (s : State) =>
    match lineGet (s.cache l1 unit) (a / 128) with
    | none => s
    | some l => s.setCache l1 unit (linePut (s.cache l1 unit) { l with valid := l.valid &&& m, dirty := l.dirty &&& m })
  drop true core (drop false (core / 16) s)

/-- A check finds an uncorrectable error in the granule of a byte: it is poisoned wherever the byte is read from, counted, and an
event tells of it, under the memory stacks (domain 0) or the caches (1), and of scratch and the banks under their SRAM (2). One that is
poisoned already is not counted again (R393). -/
def State.flawAt (s : State) (core a domain : Nat) : State :=
  if s.isPoison a && !s.copied core 0 a then s
  else if isCached a then ((s.dropGranule core a).poisonGranule a).countError domain true a
  else (s.poisonGranule a).countError 2 true a

/-! ### Replies (R21, R188, R189, R191) -/

/-- The bytes of a part that its access number k takes (R175, R188). -/
def Part.piece (p : Part) (k : Nat) : List Nat := (p.addrs.drop (k * p.unit)).take p.unit

/-- The bytes that the coming accesses of a load take. -/
def MemOp.now (o : MemOp) : List Nat := o.parts.flatMap (fun p => p.piece o.phase)

/-- A load has made its last accesses. -/
def MemOp.served (o : MemOp) : Bool := o.parts.all (fun p => decide (p.addrs.length ≤ o.phase * p.unit))

/-- One of the coming accesses of a load has to be served at home: a copy short of it does not hold the byte, or may not serve it. -/
def State.needsHome (s : State) (o : MemOp) : Bool :=
  o.now.any (fun a => isCached a &&
    (o.pointAt (a / 128) == 2 || ((o.point == 1 || (s.cachedByte true o.core a).isNone)
      && (o.policyAt (a / 128) == 3 || (s.cachedByte false (o.core / 16) a).isNone))))

/-- The coming accesses of a load are made: their lines are served, and the bytes taken with their poison. flaw k + 1 says that a check on the
way finds an uncorrectable error at the k-th byte. -/
def State.takeBytes (s : State) (o : MemOp) (flaw : Nat) (stack : Bool) : State :=
  let lines := (linesOf o.now).filter (fun l => isCached (l * 128))
  let plain := fun (l : Nat) => o.scope == 0 && o.order == 0 && o.pointAt l == 0
  let s0 := lines.foldl (fun s l => s.serve o.core (o.pointAt l) (o.policyAt l) l (plain l)) s
  let s1 := match (if flaw = 0 then none else o.now[flaw - 1]?) with
    | none => s0
    | some a => s0.flawAt o.core a (if stack then 0 else 1)
  let take := fun (p : Part) =>
    let as := p.piece o.phase
    { p with data := p.data ++ as.map (fun a => s1.view o.core (o.pointAt (a / 128)) a),
             bad := p.bad ++ ((List.range as.length).filter (fun j =>
               s1.poisonAt o.core (o.pointAt (as.getD j 0 / 128)) (as.getD j 0))).map (fun j =>
               o.phase * p.unit + j) }
  let s2 := s1.modOp o.id (fun x => { x with parts := x.parts.map take, phase := x.phase + 1 })
  match lines.filter plain with
  | [] => s2
  | ls => s2.used o.core o.users ls

/-- What a load's part delivers: its register halves. -/
def Part.halves (p : Part) (z : Nat) : List RVal :=
  if z = 7 then
    [{ bits := BitVec.ofNat 64 (natLE (p.data.take 8)), poison := p.bad.any (fun j => decide (j < 8)) },
     { bits := BitVec.ofNat 64 (natLE (p.data.drop 8)), poison := p.bad.any (fun j => decide (8 ≤ j)) }]
  else [{ bits := szValue z p.data, poison := p.bad != [] }]

/-- The reply of a load whose accesses are all made: its registers are filled, and an acquire acts (R187, R189, R213). -/
def State.replyLoad (s : State) (o : MemOp) (z : Nat) : State :=
  let vs := fun (l : Nat) => match o.parts.find? (fun p => p.lane == l) with
    | none => []
    | some p => p.halves z
  let s2 := s.fillWarp o vs
  (if o.order % 2 = 1 then s2.acquireAction o.core o.region o.point o.scope else s2).over o

/-- A step of a load: dirty bytes inside its point go to it; its next accesses are made where the locks of the lines they need are free;
after the last of them it is over. -/
def State.loadStep (s : State) (o : MemOp) (z flaw : Nat) (stack : Bool) : State :=
  match s.pushFirst o (linesOf o.now) with
  | some t => t
  | none =>
    let s := s.claimed o.core o.region (linesOf o.now)
    if s.needsHome o && (linesOf o.now).any s.locked then s
    else
      let t := s.takeBytes o flaw stack
      match t.opOf o.id with
      | none => t
      | some x => if x.served then t.replyLoad x z else t

/-- The reply of an atomic: its old values (R191). -/
def State.replyAtom (s : State) (o : MemOp) (aop : Nat) (wide : Bool) : State :=
  let vs := fun (l : Nat) => match o.parts.find? (fun p => p.lane == l) with
    | none => []
    | some p => [({ bits := rmwResult aop wide (BitVec.ofNat 64 (natLE p.data)), poison := p.bad != [] } : RVal)]
  (s.fillWarp o vs).modOp o.id (fun x => { x with parts := x.parts.map (fun p => { p with taken := false }) })

/-- LOAD_REPLY (R21, R188): data that have returned fill the entries and registers that wait for them; flaw, where it is not 0, says at which
of its bytes a check on the way finds an uncorrectable error, stack that the check is a memory stack's. -/
def execLoadReply (op flaw : Nat) (stack : Bool) (s : State) : Out :=
  match s.opOf op with
  | none => .next s
  | some o =>
    match o.kind with
    | .load z => if s.opReady o then .next (s.loadStep o z flaw stack) else .next s
    | .uload _ => if s.opReady o then .next (s.loadStep o 6 flaw stack) else .next s
    | .atom aop wide => if o.done && o.parts.any (fun p => p.taken) then .next (s.replyAtom o aop wide) else .next s
    | _ => .next s

/-! ### Acknowledgements (R194, R195) -/

/-- Lanes of a warp that wait for operation id go on. -/
def State.freeFence (s : State) (k id : Nat) : State :=
  match s.warp k with
  | none => s
  | some w =>
    match (List.range 32).filter (fun l => (w.lane l).live && (w.lane l).park == .fence id) with
    | [] => s
    | ls => (s.setWarp k (w.moveLanes (s.code w) ls (fun _ => .fall))).settle k

/-- One acknowledgement of a write arrives: ACKSEQ takes its tag. After the last, an acquire's second half, and the end of the
operation. -/
def State.acknowledge (s : State) (o : MemOp) : State :=
  let s1 := match o.acks with
    | some t :: _ => s.modWarp o.warp (fun w => { w with ackseq := t })
    | _ => s
  match o.acks.drop 1 with
  | [] => (if o.order % 2 = 1 then s1.acquireAction o.core o.region o.point o.scope else s1).over o
  | r => s1.modOp o.id (fun x => { x with acks := r })

/-- A fence completes: its acquire part, then its lanes go on (R195). -/
def State.completeFence (s : State) (o : MemOp) : State :=
  ((if o.order % 2 = 1 then s.acquireAction o.core o.region o.point o.scope else s).over o).freeFence o.warp o.id

/-! ### Pushes, invalidations, evictions -/

/-- A read-modify-write short of home that has to read a byte there waits for the line's lock (R215). -/
def State.readsLocked (s : State) (o : MemOp) : Bool :=
  (match o.kind with | .atom _ _ => true | .red _ _ => true | _ => false)
    && o.parts.any (fun p => p.addrs.any (fun a => isCached a && s.locked (a / 128)
      && (o.point == 1 || (s.cachedByte true o.core a).isNone) && (s.cachedByte false (o.core / 16) a).isNone))

/-- LINE_PUSH (R212): a write or push whose point lies short of home takes effect there; a release's sweep of dirty lines begins. -/
def State.pushStep (s : State) (o : MemOp) : State :=
  match o.kind with
  | .sweep => if o.after == [] then s.sweepStep o else s
  | _ => if o.isWrite && !o.atHome && s.opReady o && !s.readsLocked o then s.effect o else s

/-- INVALIDATION (R214, R215): it discards the cluster's clean bytes of the line, and lanes that watch it wake (R256); nothing
where none is on its way. -/
def execInvalidation (cluster line : Nat) (s : State) : Out :=
  .next (if s.invs.elem (cluster, line) then s.invalidate cluster line else s)

/-- EVICTION (R212, R214): level 0 a core's L1, 1 a cluster's cache; the dirty bytes of the line go outward, and the line leaves the
cache. A home that is locked takes no push. Level 2 a die's directory, which evicts the entry of the line's region. -/
def execEviction (level unit line : Nat) (s : State) : Out :=
  .next (if level = 0 then s.evictLine true unit line
    else if level = 1 then (if s.locked line then s else s.evictLine false unit line)
    else if homedHere (line * 128) && homeDie (regionOfLine line) == unit then s.evictEntry line
    else s)

/-- FENCE_R_DRAIN (R196, R217): as if the victim performed an acq_rel fence at the scope, for the requester's region: the dirty bytes that
its L1 holds leave it, its lines of the region leave the L1, and the requester's fence waits for the pushes home, for the invalidations
under way, and for what the victim's own writes have still to have acknowledged. At die and device scope lines homed elsewhere stay (R360). -/
def State.drainVictim (s : State) (o : MemOp) (v : Nat) : State :=
  let acts := fun (l : Line) => l.isOf o.region && (o.scope != 4 && o.scope != 5 || homedHere (l.idx * 128))
  let dirty := ((s.cache true v).filter (fun l => l.dirty != 0 && acts l)).map (fun l => l.idx)
  let posted := (s.ops.filter (fun (p : MemOp) => p.core == v && p.region == o.region && p.isWrite && (p.done || p.after == []))).map
    (fun p => p.id)
  let s1 := dirty.foldl (fun s l => s.pushOut v l) s
  let s2 := s1.addPushes o.warp v o.region o.point false (s1.releaseLines v o.region o.point o.scope)
  let ids := (List.range (s2.serial - s.serial)).map (fun j => s.serial + j)
  ((s2.discardLines true v acts).acquireAction v o.region o.point o.scope).insteadOf o.id (ids ++ posted)

/-- FENCE_R_DRAIN (R196, R217): the victim's drain takes effect. -/
def execFenceRDrain (op : Nat) (s : State) : Out :=
  match s.opOf op with
  | none => .next s
  | some o =>
    match o.kind with
    | .drain v => .next (s.drainVictim o v)
    | _ => .next s

/-! ### Walks, refills, replays -/

/-- PAGE_WALK (R330, R331): a walk that succeeds sets A, and D for a write, and its leaf enters the TLBs of the cluster's first core
and of the cluster. -/
def execPageWalk (cluster pasid va : Nat) (wr : Bool) (s : State) : Out :=
  match walk s (cluster / 8) pasid va with
  | .error _ => .next s
  | .ok l => if wr && !l.entry.getLsbD 2 then .next s else .next ((s.touch (cluster * 16) pasid va wr l).noteMig pasid va l)

/-- Moves n bytes between flat addresses, with their poison (R390): to device memory as a device's write. -/
def State.moveBytes (s : State) (src dst n : Nat) : State :=
  let bs := s.bytes src n
  let s1 := if isCached dst then s.deviceWrite dst bs else s.writeRaw ((List.range n).zip bs |>.map (fun e => (dst + e.1, e.2)))
  { s1 with poison := (s.poison.filter (fun c => decide (src ≤ c ∧ c < src + n))).foldl (fun p c => insertNat (dst + (c - src)) p) s1.poison }

/-- The scratch pages of a workgroup in the order in which its save area holds them: core and page. -/
def Wg.pageList (g : Wg) : List (Nat × Nat) := g.cores.flatMap (fun c => (List.range (c.2 / 4096)).map (fun i => (c.1, i)))

/-- A page of a workgroup comes back from its save area. -/
def State.refill (s : State) (wg : Nat) (p : Nat × Nat) : State :=
  let g := s.wg wg
  let before := (g.pageList.takeWhile (fun e => e != p)).length
  (s.moveBytes (g.scratchAt + 4096 * before) (scratchFlat wg (p.1 * 2 ^ 31 + p.2 * 4096)) 4096).modWg wg (fun g =>
    { g with absent := g.absent.filter (fun e => e != p), touched := g.touched.filter (fun e => e != p) })

/-- SCRATCH_REFILL (R173): a page of a resumed workgroup that an access has touched comes back; nothing where it is there, or its workgroup
is saved. -/
def execScratchRefill (wg core page : Nat) (s : State) : Out :=
  let g := s.wg wg
  .next (if g.absent.elem (core, page) && g.touched.elem (core, page) && g.present then s.refill wg (core, page) else s)

/-- The page of a held access migrates still. -/
def State.stillHeld (s : State) (h : Held) : Bool :=
  match translate s (16 * h.cluster) h.pasid h.va false with
  | .error _ => false
  | .ok l => s.pageHeld h.pasid h.va l

/-- An access is due: its lanes, or its engine, make it again. -/
def State.grant (s : State) (h : Held) : State :=
  let s1 := { s with heldMig := s.heldMig.map (fun x => if x == h then { x with go := true } else x) }
  if h.engine then s1
  else s1.modWarp h.key (fun w => w.modLanes (List.range 32) (fun _ x => if x.park = .migrating h.id then { x with park := .no } else x))

/-- MIGRATION_REPLAY (R218): the oldest held access of the cluster whose page has its new entry is made again; one at a time. -/
def execMigrationReplay (cluster : Nat) (s : State) : Out :=
  let q := s.heldMig.filter (fun h => h.cluster == cluster)
  match q.find? (fun h => !s.stillHeld h) with
  | none => .next s
  | some h => .next (if q.any (fun x => x.go) then s else s.grant h)

end Sys2Proof.Machine
end

