-- ==== Sys2Proof/Machine/Joints.lean ====
section
/-! DEFINITION. Joints, timelines and the faults at the waits (R219 to R224, R231 to R237). -/

namespace Sys2Proof.Machine

/-! ### The Joint (R219 to R221) -/

/-- A Joint's fields (R219). -/
structure Joint where
  bytes   : Nat
  target  : Nat
  arrived : Nat
  expect  : Nat
  gen     : Nat
  faulted : Bool
deriving DecidableEq, Repr

/-- The Joint in 16 bytes. -/
def jointOf (v : Nat) : Joint :=
  { bytes := bitsOf v 0 40, target := bitsOf v 40 40, arrived := bitsOf v 80 16, expect := bitsOf v 96 16, gen := bitsOf v 112 15,
    faulted := bitsOf v 127 1 == 1 }

/-- The 16 bytes of a Joint. -/
def Joint.num (j : Joint) : Nat :=
  j.bytes % 2 ^ 40 + j.target % 2 ^ 40 * 2 ^ 40 + j.arrived % 2 ^ 16 * 2 ^ 80 + j.expect % 2 ^ 16 * 2 ^ 96 + j.gen % 2 ^ 15 * 2 ^ 112
    + (if j.faulted then 2 ^ 127 else 0)

/-- The phase is complete (test 2 of R220). -/
def Joint.completes (j : Joint) : Bool := !j.faulted && decide (1 ≤ j.expect) && j.arrived == j.expect && j.bytes == j.target

/-- The tests of R220 after an update. -/
def Joint.test (j : Joint) (delivery : Bool) : Joint :=
  if j.faulted then j
  else if j.completes then { j with gen := (j.gen + 1) % 2 ^ 15, arrived := 0, bytes := 0, target := 0 }
  else if delivery && decide (1 ≤ j.expect) && j.arrived == j.expect && decide (j.target < j.bytes) then { j with faulted := true }
  else j

/-- A delivery of bytes (R221). -/
def Joint.deliver (j : Joint) (d : Nat) : Joint :=
  if j.faulted then j
  else if 2 ^ 40 ≤ j.bytes + d then { j with faulted := true }
  else ({ j with bytes := j.bytes + d }).test true

/-- A failing copy fails the Joint (R221). -/
def Joint.fail (j : Joint) : Joint := { j with faulted := true }

/-- JARV and JEXP of a set of m lanes (R223): n arrivals and d bytes of target; none where they overrun, which they also do where m further
arrivals would exceed EXPECT. -/
def Joint.arrive (j : Joint) (m n d : Nat) : Option Joint :=
  let k := { j with arrived := j.arrived + n, target := j.target + d }
  if j.faulted ∨ j.expect < j.arrived + m ∨ 2 ^ 40 ≤ k.target ∨ (1 ≤ k.expect ∧ k.arrived = k.expect ∧ k.target < k.bytes) then none
  else some (k.test false)

/-- The Joint at a flat address; an error in its bytes fails it (R390). -/
def State.jointAt (s : State) (flat : Nat) : Joint :=
  let j := jointOf (s.num flat 16)
  if s.rangePoison flat 16 then j.fail else j

/-- Writes a Joint, whole (R219). -/
def State.setJoint (s : State) (flat : Nat) (j : Joint) : State :=
  s.writeRaw ((List.range 16).zip (bytesLE 16 j.num) |>.map (fun e => (flat + e.1, e.2)))

/-- A lane parked at PARK wakes, whatever it watches. -/
def Lane.wake (x : Lane) : Lane :=
  match x.park with
  | .watch l t _ => { x with park := .watch l t true }
  | _ => x

/-- A lane parked at a JWAIT on the Joint's old generation proceeds (R220). -/
def Lane.release (win gen : Nat) (x : Lane) : Lane :=
  match x.park with
  | .joint w g scope order => if w = win ∧ g = gen then { x with park := .freed scope order } else x
  | _ => x

/-- Updates the Joint of a workgroup at a window address; where that completes a phase, the JWAITs of the workgroup that are parked on the old
generation proceed, and the lanes that it has parked at PARK on the Joint's core wake (R220, R256). -/
def State.updateJoint (s : State) (wg win : Nat) (j : Joint) : State :=
  let t := s.setJoint (scratchFlat wg win) j
  let old := (s.jointAt (scratchFlat wg win)).gen
  if old = j.gen then t
  else { t with warps := t.warps.map (fun e =>
    if e.2.wg == wg then
      (e.1, { e.2 with lanes := e.2.lanes.map (fun x =>
        (if e.2.core == win / 2 ^ 31 then x.wake else x).release win old) })
    else e) }

/-- A delivery to the Joint of a workgroup at a window address (R221); its overrun is for the operation to report. -/
def State.deliverTo (s : State) (wg joint bytes : Nat) : State :=
  s.updateJoint wg joint ((s.jointAt (scratchFlat wg joint)).deliver bytes)

/-- A delivery would overrun the Joint, which is not failed yet (R220, R236); one that carries BYTES past its width fails the Joint alone
(R221). -/
def State.overruns (s : State) (wg joint bytes : Nat) : Bool :=
  let j := s.jointAt (scratchFlat wg joint)
  !j.faulted && decide (j.bytes + bytes < 2 ^ 40) && (j.deliver bytes).faulted

/-- The Joint lies in a scratch page that a resume has not brought back yet: its update waits (R173). -/
def State.jointAbsent (s : State) (wg : Nat) (joint : Option Nat) : Bool :=
  match joint with
  | none => false
  | some j => s.pageAbsent wg (scratchFlat wg j)

/-- The update touches that page. -/
def State.touchJoint (s : State) (wg : Nat) (joint : Option Nat) : State :=
  match joint with
  | none => s
  | some j => s.touchPages wg [scratchFlat wg j]

/-! ### The engine fault store (R236) -/

/-- The effects of a fault in an engine operation: its entry in the store, and its failed Joint. FAULTNUM follows with its completion. -/
def State.engineFault (s : State) (wg : Nat) (e : FsEntry) : State :=
  let s1 := s.modWg wg (fun g => if g.faults.length < 16 then { g with faults := g.faults ++ [e] } else g)
  match e.jaddr with
  | none => s1
  | some j => s1.setJoint (scratchFlat wg j) (s1.jointAt (scratchFlat wg j)).fail

/-- The fault at a wait (R237): what the store's entry says, or no entry. Its object is the Joint or the timeline context, as R237 and R364
say; R124's descriptor of a chain stream has no field left in the record. DESIGN CHOICE. -/
def waitFault (e : Option FsEntry) (lanes : List Nat) (kind idx : Nat) (bare : EngFault) : FaultInfo :=
  match e with
  | none => { cls := 0x0F, lanes := lanes, kind := kind, idx := idx, eng := some bare }
  | some e =>
    { cls := e.cls, addr := e.addr, lanes := lanes, kind := kind, idx := idx,
      eng := some { epc := e.opc, tlnum := (e.tl.map (fun t => t.2)).getD 0, ctx := (e.tl.map (fun t => t.1)).getD 3,
                    jaddr := e.jaddr.getD 0 } }

/-! ### JINIT, JARV, JEXP, JWAIT (R222 to R224) -/

/-- The window address a JOINT instruction names, or the fault of checks 1 to 3 of R222. -/
def Iss.jointWindow (i : Iss) (s : State) (a : Word) : Except FaultInfo Nat :=
  let obj := fun (cls : Nat) => ({ cls := cls, addr := a, lanes := i.lanes, kind := 5 } : FaultInfo)
  if 2 ^ 40 ≤ a.toNat then .error (i.operand s)
  else
    match reachScratch s (i.who s 0) a.toNat 16 false with
    | .error _ => .error (obj 0x07)
    | .ok _ => if a.toNat % 16 ≠ 0 then .error (obj 0x03) else .ok a.toNat

/-- The frame of a JOINT instruction: the four checks of R222, then its own rule at the Joint's window and flat address; it waits
for a scratch page that is not back yet, and for earlier writes of the warp to the Joint's bytes. -/
def jointOp (a b : BitVec 7) (ok : Nat → Bool) (body : Iss → Nat → Nat → Res) (s : State) : Out :=
  atIssue s (fun i => { uni := [a, b], legal := i.himm == [] }) (fun i =>
    match i.jointWindow s (i.uval s a) with
    | .error f => .bad f
    | .ok win =>
      let flat := scratchFlat i.w.wg win
      if !ok (i.uval s b).toNat then .bad (i.operand s)
      else if s.pageAbsent i.w.wg flat || s.conflict i.k [flat / 128] || i.acquiring s then .await [flat]
      else body i win flat)

/-- The joint-overrun fault (0x0E). -/
def jointOverrun (win : Nat) (lanes : List Nat) : FaultInfo := { cls := 0x0E, addr := BitVec.ofNat 64 win, lanes := lanes, kind := 5 }

/-- JINIT (R222). -/
def execJinit (a b : BitVec 7) (s : State) : Out :=
  jointOp a b (fun v => decide (1 ≤ v ∧ v < 65536)) (fun i _ flat =>
    i.goOn (s.setJoint flat { bytes := 0, target := 0, arrived := 0, expect := (i.uval s b).toNat, gen := 0, faulted := false })
      (fun w => w)) s

/-- JEXP (R223): it adds no arrivals, and faults where its lanes' arrivals would be too many. -/
def execJexp (a b : BitVec 7) (s : State) : Out :=
  jointOp a b (fun v => decide (1 ≤ v ∧ v < 2 ^ 40)) (fun i win flat =>
    match (s.jointAt flat).arrive i.lanes.length 0 (i.uval s b).toNat with
    | none => .bad (jointOverrun win i.lanes)
    | some j => i.goOn (s.updateJoint i.w.wg win j) (fun w => w)) s

/-- JARV (R223): the release first; where it has nothing to wait for, the update is made at once, else the lanes wait for it. -/
def execJarv (a b : BitVec 7) (c : BitVec 3) (s : State) : Out :=
  jointOp a b (fun v => decide (v < 2 ^ 40)) (fun i win flat =>
    let r := s.releaseAction i.k i.w c.toNat
    if s.heldWrite i.k then .hold 2
    else match r.2 with
    | [] =>
      (match (s.jointAt flat).arrive i.lanes.length i.lanes.length (i.uval s b).toNat with
       | none => .bad (jointOverrun win i.lanes)
       | some j => i.goOn (s.updateJoint i.w.wg win j) (fun w => w))
    | ids =>
      let id := r.1.serial
      .done ((r.1.addOp
        { id := 0, warp := i.k, core := i.w.core, region := (s.nodeOf i.w).region.rcb,
          kind := .jarv win i.lanes.length (i.uval s b).toNat, scope := c.toNat, order := 2, after := ids,
          parts := [{ lane := 0, addrs := [flat] }] }).modWarp i.k (fun w => i.parkLanes w (fun _ => .fence id)))) s

/-- A JARV whose release is over reaches the Joint: its lanes go on, or take the overrun fault (R223). -/
def State.jarvStep (s : State) (o : MemOp) (win n d : Nat) : State :=
  match s.warp o.warp with
  | none => s.over o
  | some w =>
    let flat := scratchFlat w.wg win
    let ls := (List.range 32).filter (fun l => (w.lane l).live && (w.lane l).park == .fence o.id)
    if s.pageAbsent w.wg flat then s.touchPages w.wg [flat]
    else
      match (s.jointAt flat).arrive n n d, ls with
      | some j, _ => ((s.updateJoint w.wg win j).over o).freeFence o.warp o.id
      | none, [] => s.over o
      | none, l :: _ =>
        let x := (w.lane l).resume
        (s.over o).takeFault o.warp (jointOverrun win ls) x.pc x.runPc

/-- LINE_PUSH (R212): a write or push whose point lies short of home takes effect there; a JARV reaches its Joint (R223). -/
def execLinePush (op : Nat) (s : State) : Out :=
  match s.opOf op with
  | none => .next s
  | some o =>
    match o.kind with
    | .jarv win n d => if s.opReady o then .next (s.jarvStep o win n d) else .next s
    | _ => .next (s.pushStep o)

/-- JWAIT (R224): the lanes park; those of a phase that has completed already proceed. -/
def execJwait (a b : BitVec 7) (c : BitVec 3) (s : State) : Out :=
  jointOp a b (fun v => decide (v < 2 ^ 15)) (fun i win flat =>
    let j := s.jointAt flat
    .done (({ s with serial := s.serial + 1 } : State).setWarp i.k
      (i.parkLanes i.w (fun _ => if !j.faulted && j.gen != (i.uval s b).toNat then .freed c.toNat s.serial
        else .joint win (i.uval s b).toNat c.toNat s.serial)))) s

/-- The lanes that issued the wait of lane l with it. -/
def Warp.fellows (w : Warp) (l : Nat) : List Nat :=
  (List.range 32).filter (fun m => (w.lane m).live && (w.lane m).park == (w.lane l).park)

/-- Lanes whose wait is over go on after an acquire (R213, R224, R234). -/
def State.acquired (s : State) (k : Nat) (w : Warp) (ls : List Nat) (scope : Nat) : State :=
  ((s.acquireAction w.core (s.nodeOf w).region.rcb (s.pointOf w scope) scope).setWarp k (w.moveLanes (s.code w) ls (fun _ => .fall))).settle k

/-- The fault of the wait at which a lane is parked, and the order of its issue, once the wait fails (R224, R234, R237). -/
def State.failedWait (s : State) (w : Warp) (l : Nat) : Option (Nat × FaultInfo) :=
  match (w.lane l).park with
  | .joint win _ _ order =>
    let flat := scratchFlat w.wg win
    let bare : EngFault := { epc := 0, tlnum := 0, ctx := 3, jaddr := win }
    if !(w.lane l).live || s.pageAbsent w.wg flat || !(s.jointAt flat).faulted then none
    else if s.rangePoison flat 16 then
      some (order, { cls := 0x11, addr := BitVec.ofNat 64 win, lanes := w.fellows l, eng := some bare })
    else some (order, waitFault ((s.wg w.wg).faults.find? (fun e => e.jaddr == some win)) (w.fellows l) 5 0 bare)
  | .timeline ec n _ order =>
    let t := (s.wg w.wg).tl ec
    if !(w.lane l).live || decide (t.completed < n) || t.faultnum == 0 || decide (n < t.faultnum) then none
    else some (order, waitFault ((s.wg w.wg).faults.find? (fun e => e.tl == some (ec, t.faultnum))) (w.fellows l) 6 ec
      { epc := 0, tlnum := t.faultnum, ctx := ec, jaddr := 0 })
  | _ => none

/-- A wait of the warp has failed: of several, the one that issued first is reported (R365). -/
def State.waitFails (s : State) (k : Nat) (w : Warp) : State :=
  match leastBy (fun (e : Nat × FaultInfo) => e.1) ((List.range 32).filterMap (s.failedWait w)) with
  | none => s
  | some (_, f) =>
    let x := (w.lane (f.lanes.headD 0)).resume
    s.takeFault k f x.pc x.runPc

/-- JWAIT_RELEASE (R220, R224, R237): lanes parked at a JWAIT whose phase has completed go on, and those whose Joint has left the generation
otherwise; those of a failed Joint fault; nothing otherwise, nor while issue of the workgroup has stopped (R383). -/
def execJwaitRelease (warp lane : Nat) (s : State) : Out :=
  match s.warp warp with
  | none => .next s
  | some w =>
    if (s.wg w.wg).quiescing then .next s
    else
      match (w.lane lane).park with
      | .freed scope _ => .next (s.acquired warp w (w.fellows lane) scope)
      | .joint win gen scope _ =>
        let j := s.jointAt (scratchFlat w.wg win)
        if s.pageAbsent w.wg (scratchFlat w.wg win) then .next (s.touchPages w.wg [scratchFlat w.wg win])
        else if j.faulted then .next (s.waitFails warp w)
        else if j.gen ≠ gen then .next (s.acquired warp w (w.fellows lane) scope)
        else .next s
      | _ => .next s

/-! ### Timelines (R231 to R234) -/

/-- TLRD (R233): 0 the completed counter, 1 the issued one. -/
def execTlrd (e : BitVec 2) (a : BitVec 7) (d : BitVec 5) (s : State) : Out :=
  atIssue s (fun i => { uni := [a], legal := i.himm == [] }) (fun i =>
    let t := (s.wg i.w.wg).tl e.toNat
    let v := i.uval s a
    if v = 0 then i.next s (i.w.setS d.toNat (clean (BitVec.ofNat 64 t.completed)))
    else if v = 1 then i.next s (i.w.setS d.toNat (clean (BitVec.ofNat 64 t.issued)))
    else .bad (i.operand s))

/-- TLWAIT (R234). -/
def execTlwait (e : BitVec 2) (a : BitVec 7) (c : BitVec 3) (s : State) : Out :=
  atIssue s (fun i => { uni := [a], legal := i.himm == [] }) (fun i =>
    let n := (i.uval s a).toNat
    if ((s.wg i.w.wg).tl e.toNat).issued < n then .bad (i.operand s)
    else .done (({ s with serial := s.serial + 1 } : State).setWarp i.k
      (i.parkLanes i.w (fun _ => .timeline e.toNat n c.toNat s.serial))))

/-- TLWAIT_RELEASE (R234, R237): lanes parked at a TLWAIT whose number has completed go on, or fault where an operation up to it
failed; nothing otherwise, nor while issue of the workgroup has stopped (R383). -/
def execTlwaitRelease (warp lane : Nat) (s : State) : Out :=
  match s.warp warp with
  | none => .next s
  | some w =>
    match (w.lane lane).park with
    | .timeline ec n scope _ =>
      let t := (s.wg w.wg).tl ec
      if t.completed < n || (s.wg w.wg).quiescing then .next s
      else if t.faultnum ≠ 0 ∧ t.faultnum ≤ n then .next (s.waitFails warp w)
      else .next (s.acquired warp w (w.fellows lane) scope)
    | _ => .next s

end Sys2Proof.Machine
end

