-- ==== Sys2Proof/Machine/Copies.lean ====
section
/-! DEFINITION. Copies: the register block, the checks at issue, and the beats of the copy engines (R171, R225 to R230, R236, R343,
R344). -/

namespace Sys2Proof.Machine

/-! ### What an engine's bytes reach -/

/-- Where some bytes of an engine's access lie, within one page. -/
inductive Spot where
  /-- memory from a flat address: its meter slot, the pages translated, whether the page is held for migration -/
  | mem (flat : Nat) (slot : Option Nat) (vias : List Via) (mig : Bool)
  /-- a register window, by window address (R171) -/
  | reg (win : Nat)
deriving DecidableEq, Repr

/-- On whose behalf an engine of a workgroup works (R170). -/
def State.engineWho (s : State) (core wg scope : Nat) : Who :=
  let n := (s.node (s.wg wg).node).forWg (s.wg wg)
  { core := core, pasid := n.region.pasid, wg := wg, meter := n.region.meter, digest := n.kernel.digest, scope := scope }

/-- What n bytes at an address reach for an engine, or the class of its fault (R236). -/
def State.spot (s : State) (w : Who) (a n : Nat) (k : AccKind) : Except Nat Spot :=
  if 2 ^ 56 ≤ a then .error 0x0F
  else
    match apertureOf a with
    | .privateMem => .error 0x0F
    | .global =>
      (match reachRights s w a k with
       | .error _ => .error 0x0F
       | .ok l =>
         match boundSlot w l with
         | .error _ => .error 0x10
         | .ok slot => .ok (.mem (leafFlat l a) slot [{ va := a, leaf := l }] (l.entry.getLsbD 8)))
    | _ =>
      match windowOf w.core a with
      | none => .error 0x0F
      | some win =>
        if bitsOf win 29 2 = 1 then .ok (.reg win)
        else
          match reachScratch s w win n false with
          | .error _ => .error 0x0F
          | .ok _ => .ok (.mem (scratchFlat w.wg win) (s.slotOf (scratchFlat w.wg win)) [] false)

/-- The warp and lane of a doubleword of a register window (R171); none where it names none. -/
def State.regTarget (s : State) (wg win : Nat) : Option (Nat × Nat × Nat) :=
  match s.warps.find? (fun e => e.2.wg == wg && e.2.index == bitsOf win 18 9 && e.2.core == win / 2 ^ 31 && !e.2.ended) with
  | none => none
  | some e => some (e.1, bitsOf win 13 5, bitsOf win 3 6)

/-- A register window address is legal (R171): OFF[2:0] is checked by its caller. -/
def State.regLegal (s : State) (wg win : Nat) : Bool :=
  bitsOf win 27 2 == 0 && bitsOf win 9 4 == 0 && (s.regTarget wg win).isSome
    && decide (bitsOf win 3 6 < (s.node (s.wg wg).node).kernel.named)

/-- Puts some bytes of a doubleword, from byte k on. -/
def putBytes (v : Word) (k : Nat) (bs : List Byte) : Word :=
  let old := bytesLE 8 v.toNat
  BitVec.ofNat 64 (natLE (old.take k ++ bs ++ old.drop (k + bs.length)))

/-- An engine writes bytes of one doubleword of a register window (R4, R171): discarded where the warp has gone or the lane is not live. -/
def State.regWrite (s : State) (wg win : Nat) (bs : List Byte) : State :=
  match s.regTarget wg win with
  | none => s
  | some (k, l, n) => s.modWarp k (fun w =>
    if (w.lane l).live then w.modLane l (fun x => x.setReg n (clean (putBytes (mgetD x.regs n {}).bits (win % 8) bs))) else w)

/-- The coherence point of an engine's bytes in a page: home under policy 4 (R185, R329). -/
def pagePoint (point : Nat) (vias : List Via) : Nat := if policyOf none vias = 4 then 2 else point

/-- For whom an engine of a workgroup accesses its lines (R213). -/
def State.engineUsers (s : State) (w : Who) (vias : List Via) : List LineUser :=
  vias.map (fun v => { region := (s.node (s.wg w.wg).node).region.rcb, pasid := w.pasid, size := v.leaf.size, page := v.va / 2 ^ v.leaf.size })

/-- An engine writes bytes of global memory or scratch: global bytes at the point of the scope, after which no L1 of the cluster
holds an older copy (R228). -/
def State.engineWrite (s : State) (cluster point : Nat) (ps : List (Nat × Byte)) : State :=
  let s0 := match ps.filter (fun p => !isCached p.1) with
    | [] => s
    | q => s.writeRaw q
  (linesOf ((ps.filter (fun p => isCached p.1)).map Prod.fst)).foldl (fun s l =>
    let q := ps.filter (fun p => p.1 / 128 == l)
    let s1 :=
      if point ≤ 1 then q.foldl (fun s p => s.cacheWrite false cluster p.1 p.2 true) s
      else q.foldl (fun s p => s.cacheUpdate false cluster p.1 p.2) (s.homeWrite cluster q l)
    let cores := (mkeys s1.l1).filter (fun c => c / 16 == cluster)
    (cores.foldl (fun s c => s.discardClean true c (fun x => x == l)) s1).wakeWatchers (fun c => c / 16 == cluster) l) s0

/-- An engine cannot go on with an access of n bytes yet: its scratch page is not back (R173), one of its lines is locked at home (R215). -/
def State.spotBusy (s : State) (wg n : Nat) : Spot → Bool
  | .reg _ => false
  | .mem f _ _ _ => s.pageAbsent wg f || (isCached f && s.invs.any (fun e => decide (f / 128 ≤ e.2 ∧ e.2 ≤ (f + n - 1) / 128)))

/-- The flat address at which an engine's bytes begin, where they lie in memory. -/
def flatOf : Except Nat Spot → List Nat
  | .ok (.mem f _ _ _) => [f]
  | _ => []

/-- A scratch page takes a slot's tag (R343). -/
def State.tagPage (s : State) (flat : Nat) (slot : Nat) : State :=
  if isCached flat then s else { s with pageSlot := mset s.pageSlot (flat / 4096) slot }

/-! ### The checks at issue (R225 to R227) -/

/-- The part of n bytes from a that lies in an aperture: its first address and length. -/
def partIn (a n lo : Nat) : Nat × Nat :=
  let b := Nat.max a lo
  let e := Nat.min (a + n) (lo + 2 ^ 40)
  (b, e - b)

/-- A footprint of n bytes from a window address is legal: scratch, or for a destination register windows (R170, R171). -/
def State.windowOk (s : State) (w : Who) (win n : Nat) (dst : Bool) : Bool :=
  if n = 0 then true
  else if bitsOf win 29 2 = 0 then
    match s.scratchOn w.wg (win / 2 ^ 31) with
    | none => false
    | some size => decide (win % 2 ^ 29 + n ≤ size)
  else dst && bitsOf win 29 2 == 1 && (List.range ((win % 8 + n + 7) / 8)).all (fun i => s.regLegal w.wg (win / 8 * 8 + 8 * i))

/-- The on-chip bytes of a row are a legal footprint (check 4 of R227). -/
def State.rowOk (s : State) (w : Who) (a n : Nat) (dst : Bool) : Bool :=
  let al := partIn a n (0xFFFD * 2 ^ 40)
  let ch := partIn a n (0xFFFF * 2 ^ 40)
  (al.2 == 0 || (decide (al.1 % 2 ^ 40 + al.2 ≤ 2 ^ 29) && s.windowOk w (w.core * 2 ^ 31 + al.1 % 2 ^ 29) al.2 dst))
    && (ch.2 == 0 || s.windowOk w (ch.1 % 2 ^ 40) ch.2 dst)

/-- The on-chip form of a window address. -/
def chipAddress (win : Nat) : Nat := 0xFFFF * 2 ^ 40 + win

/-- The destinations of a copy's row 0: the address itself, or for CPYM the window of DST on each named core (R226); a local alias that names
no window stays, for check 4 of R227 to refuse. -/
def copyDests (kind core dst : Nat) (mcast : BitVec 16) : List Nat :=
  if kind ≠ 1 then [dst]
  else
    match windowOf core dst with
    | none => [dst]
    | some win => ((List.range 16).filter (fun c => mcast.getLsbD c)).map (fun c =>
        chipAddress (win / 2 ^ 35 * 2 ^ 35 + c * 2 ^ 31 + win % 2 ^ 31))

/-- The register block of a copy as an operation (R225). -/
def Iss.copyBlock (i : Iss) (s : State) (kind : Nat) (b : BitVec 5) (c : BitVec 3) (t j : BitVec 1) : CopyOp :=
  let r := fun (k : Nat) => (i.uval s (0x50#7 + BitVec.ofNat 7 (b.toNat + k))).toNat
  { id := 0, kind := kind, warp := i.k, wg := i.w.wg, core := i.w.core, pasid := (s.nodeOf i.w).region.pasid, scope := c.toNat,
    dst := BitVec.ofNat 64 (r 0), src := BitVec.ofNat 64 (r 1), rows := bitsOf (r 2) 40 24, rbytes := bitsOf (r 2) 0 40,
    dpitch := bitsOf (r 3) 32 32, spitch := bitsOf (r 3) 0 32, mcast := BitVec.ofNat 16 (bitsOf (r 4) 48 16),
    joint := if j = 1 then some (bitsOf (r 4) 0 40) else none, idx := if kind = 2 then bitsOf (r 5) 0 40 else 0,
    tlnum := if t = 1 then some 0 else none, opc := i.pc, rpc := i.run }

/-- Entry i of a gather's index list as it stands. -/
def State.gatherIndex (s : State) (c : CopyOp) (i : Nat) : Nat := s.num (scratchFlat c.wg (c.idx + 4 * i)) 4

/-- The fault of checks 2 to 5 of R227. -/
def Iss.copyCheck (i : Iss) (s : State) (c : CopyOp) (b : BitVec 5) : Option FaultInfo :=
  let w := i.who s c.scope
  let r := fun (k : Nat) => (i.uval s (0x50#7 + BitVec.ofNat 7 (b.toNat + k))).toNat
  let kind0 := fun (a : Nat) => decide (a < 2 ^ 56) && (match apertureOf a with
    | .localAlias => true
    | .onChip => bitsOf a 29 2 == 0
    | _ => false)
  let reserved := bitsOf (r 4) 40 8 != 0 || (c.kind != 1 && c.mcast != 0) || (c.joint.isNone && bitsOf (r 4) 0 40 != 0)
    || (c.kind == 2 && bitsOf (r 5) 40 24 != 0) || (c.kind == 1 && (c.mcast == 0 || !kind0 c.dst.toNat))
  let rows := if c.rbytes = 0 then [] else List.range c.rows
  let listOk := c.kind != 2 || s.windowOk w c.idx (4 * c.rows) false && bitsOf c.idx 29 2 == 0
  let srcs := if listOk then rows.map (fun k => c.src.toNat + (if c.kind = 2 then s.gatherIndex c k else k) * c.spitch) else []
  let dsts := (copyDests c.kind i.w.core c.dst.toNat c.mcast).flatMap (fun d => rows.map (fun k => d + k * c.dpitch))
  let bad := fun (cls a kind : Nat) => some ({ cls := cls, addr := BitVec.ofNat 64 a, lanes := i.lanes, kind := kind } : FaultInfo)
  if reserved then some { i.operand s with kind := 7, idx := b.toNat }
  else
    match (srcs ++ dsts).find? (fun a => (partIn a c.rbytes (0xFFFE * 2 ^ 40)).2 != 0) with
    | some a => bad 0x05 a 0
    | none =>
      match (srcs.find? (fun a => !s.rowOk w a c.rbytes false)).orElse (fun _ => dsts.find? (fun a => !s.rowOk w a c.rbytes true)) with
      | some a => bad 0x07 a 0
      | none =>
        if !listOk then bad 0x07 c.idx 0
        else if c.joint.any (fun jw => !s.windowOk w jw 16 false || bitsOf jw 29 2 != 0) then bad 0x07 (c.joint.getD 0) 5
        else if c.joint.any (fun jw => jw % 16 != 0) then bad 0x03 (c.joint.getD 0) 5
        else if c.kind = 2 ∧ c.idx % 4 ≠ 0 then bad 0x03 c.idx 0
        else if (c.dst.toNat :: dsts).any (isRegister i.w.core)
            && (c.dst.toNat % 8 != 0 || c.dpitch % 8 != 0 || c.rbytes % 8 != 0) then bad 0x03 c.dst.toNat 0
        else none
where
  /-- The address lies in a register window. -/
  isRegister (core a : Nat) : Bool :=
    match (if a < 2 ^ 56 then windowOf core a else none) with
    | none => false
    | some win => bitsOf win 29 2 == 1

/-- A byte in each scratch page of a gather's index list. -/
def Iss.listPages (i : Iss) (c : CopyOp) : List Nat :=
  let flat := scratchFlat i.w.wg c.idx
  flat :: (List.range ((flat + 4 * c.rows - 1) / 4096 - flat / 4096)).map (fun j => (flat / 4096 + j + 1) * 4096)

/-- The index list of a gather cannot be read at issue yet: a store of the warp to it is still to take effect, or a scratch page of it is
not back (R173, R227, R228). -/
def Iss.listWaits (i : Iss) (s : State) (c : CopyOp) : Bool :=
  let flat := scratchFlat i.w.wg c.idx
  let last := flat + 4 * c.rows - 1
  c.kind == 2 && c.rows != 0 && (s.conflict i.k ((List.range (last / 128 - flat / 128 + 1)).map (fun j => flat / 128 + j))
    || (i.listPages c).any (s.pageAbsent i.w.wg))

/-- A copy (R225 to R232): the checks, the release it follows, its number, and its place in the cluster's queue. -/
def copy (kind : Nat) (b : BitVec 5) (c : BitVec 3) (t j : BitVec 1) (s : State) : Out :=
  let n := if kind = 2 then 6 else 5
  atIssue s (fun i => { uni := if b.toNat + n ≤ 32 then (List.range n).map (fun k => 0x50#7 + BitVec.ofNat 7 (b.toNat + k)) else [],
                        block := some b.toNat, opOk := decide (b.toNat + n ≤ 32), legal := i.himm == [] }) (fun i =>
    let op := i.copyBlock s kind b c t j
    match (if i.listWaits s op then some none else (i.copyCheck s op b).map some) with
    | some none => .await (i.listPages op)
    | some (some f) => .bad f
    | none =>
      if i.orderWaits s then .hold 2
      else if 51 ≤ (s.copies.filter (fun x => x.core / 16 == i.w.core / 16)).length then .hold 1
      else
        let r := s.releaseAction i.k i.w c.toNat
        let num := ((s.wg i.w.wg).tl 0).issued + 1
        let s1 := if t = 1 then r.1.modWg i.w.wg (fun g => g.modTl 0 (fun x => { x with issued := x.issued + 1 })) else r.1
        i.goOn { s1 with
          copies := s1.copies ++ [{ op with id := s1.serial, tlnum := if t = 1 then some num else none, after := r.2 }],
          serial := s1.serial + 1 } (fun w => w))

/-- CPY (R226). -/
def execCpy (b : BitVec 5) (c : BitVec 3) (t j : BitVec 1) (s : State) : Out := copy 0 b c t j s
/-- CPYM (R226). -/
def execCpym (b : BitVec 5) (c : BitVec 3) (t j : BitVec 1) (s : State) : Out := copy 1 b c t j s
/-- CPYG (R226). -/
def execCpyg (b : BitVec 5) (c : BitVec 3) (t j : BitVec 1) (s : State) : Out := copy 2 b c t j s

/-! ### Beats (R228, R229, R236) -/

/-- A run of a beat that stays within one page at every end: its source address and length, and where its ends lie. -/
structure CopyRun where
  addr : Nat
  n    : Nat
  src  : Except Nat Spot
  dsts : List (Nat × Except Nat Spot)

/-- The runs of n bytes. -/
def copyRuns (s : State) (w : Who) (src : Nat) (dsts : List Nat) (n fuel : Nat) : List CopyRun :=
  match fuel with
  | 0 => []
  | f + 1 =>
    if n = 0 then []
    else
      let k := (src :: dsts).foldl (fun m a => Nat.min m (4096 - a % 4096)) n
      { addr := src, n := k, src := s.spot w src k .load, dsts := dsts.map (fun d => (d, s.spot w d k .store)) }
        :: copyRuns s w (src + k) (dsts.map (fun d => d + k)) (n - k) f

/-- A failing destination of a run: class and address. -/
def CopyRun.denied (s : State) (w : Who) (slot : Option Nat) (r : CopyRun) : Option (Nat × Nat) :=
  r.dsts.findSome? (fun d => match d.2 with
    | .error c => some (c, d.1)
    | .ok (.reg _) => match slot with
      | none => none
      | some j => if s.allowedFor w.digest j then none else some (0x10, d.1)
    | .ok (.mem f t _ _) => match slot with
      | none => none
      | some j =>
        if isCached f then (if t = some j then none else some (0x10, d.1))
        else match t with
          | none => none
          | some t => if t = j then none else some (0x10, d.1))

/-- Writes the bytes of a run at one destination (R171, R228, R343, R344). -/
def State.copyWrite (s : State) (w : Who) (point : Nat) (slot : Option Nat) (data : List Byte) (d : Except Nat Spot) : State :=
  match d with
  | .error _ => s
  | .ok (.reg win) =>
    let s1 := (List.range ((win % 8 + data.length + 7) / 8)).foldl (fun s i =>
      let lo := Nat.max win (win / 8 * 8 + 8 * i)
      s.regWrite w.wg lo ((data.drop (lo - win)).take (8 - lo % 8))) s
    match slot with
    | none => s1
    | some j => s1.countBytes j data.length
  | .ok (.mem f _ vias _) =>
    let ps := (List.range data.length).zip data |>.map (fun e => (f + e.1, e.2))
    let s1 := (s.touchAll w true vias).engineWrite (w.core / 16) (pagePoint point vias) (ps.filter (fun p => !s.lostAt p.1))
    let s2 := s1.used w.core (s.engineUsers w vias) (linesOf ((ps.map Prod.fst).filter isCached))
    let s3 := if s.lostAt f then s2.log f else s2
    match slot with
    | none => s3
    | some j => if data = [] then s3 else s3.tagPage f j

/-- Carries out runs in order: the state, and the class and address of the fault that stops the copy (R236). -/
def State.copyMove (s : State) (w : Who) (point : Nat) (rs : List CopyRun) : State × Option (Nat × Nat) :=
  match rs with
  | [] => (s, none)
  | r :: rest =>
    match r.src with
    | .error c => (s, some (c, r.addr))
    | .ok (.reg _) => (s, some (0x0F, r.addr))
    | .ok (.mem f slot vias _) =>
      match r.denied s w slot with
      | some e => (s, some e)
      | none =>
        let p := pagePoint point vias
        let t := s.touchAll w false vias
        let good := ((List.range r.n).takeWhile (fun k => !t.poisonAt w.core p (f + k))).length
        let data := (List.range good).map (fun k => t.view w.core p (f + k))
        let s1 := r.dsts.foldl (fun s d => s.copyWrite w point slot data d.2) t
        if good < r.n then (s1, some (0x0F, r.addr + good)) else s1.copyMove w point rest

/-- A copy ends (R229, R231): finished, or with a fault and its entry in the store (R236). -/
def State.endCopy (s : State) (c : CopyOp) (bad : Option (Nat × Nat)) : State :=
  let s1 := { s with copies := s.copies.filter (fun x => x.id != c.id) }
  let s2 := match bad with
    | none => s1
    | some (cls, a) => s1.engineFault c.wg { cls := cls, addr := BitVec.ofNat 64 a, jaddr := c.joint, tl := c.tlnum.map (fun n => (0, n)),
                                             opc := c.opc, rpc := c.rpc }
  let s3 := match c.tlnum with
    | none => s2
    | some n => s2.completeTl c.wg 0 n bad.isSome
  s3.release c.wg

/-- Deliveries of n bytes for each of k recipients (R229); false where one overruns the Joint (R220). -/
def State.deliverEach (s : State) (wg joint n k : Nat) : State × Bool :=
  match k with
  | 0 => (s, true)
  | m + 1 => if s.overruns wg joint n then (s.deliverTo wg joint n, false) else (s.deliverTo wg joint n).deliverEach wg joint n m

/-- What follows a beat's bytes: the deliveries, then the next beat or the end. -/
def State.afterBeat (s : State) (c : CopyOp) (n recipients : Nat) (next : Option CopyOp) : State :=
  let d := match c.joint with
    | none => (s, true)
    | some j => s.deliverEach c.wg j n recipients
  if !d.2 then d.1.endCopy c (some (0x0E, c.joint.getD 0))
  else
    match next with
    | none => d.1.endCopy c none
    | some c' => { d.1 with copies := d.1.copies.map (fun x => if x.id == c.id then c' else x) }

/-- The copy has an engine (R230): three in its cluster, taken in issue order; and the release it follows is over. DEDUCED (log entry 64): what
that release waits for takes in the drains that the warp handed over before it (R397). -/
def State.copyReady (s : State) (c : CopyOp) : Bool :=
  ((s.copies.filter (fun x => x.core / 16 == c.core / 16)).take 3).any (fun x => x.id == c.id)
    && c.after.all (fun i => !s.ops.any (fun o => o.id == i))
    && !s.drains.any (fun d => d.warp == c.warp && decide (d.id < c.id))

/-- The pages that some runs translate, those of destinations with true. -/
def viasOf (rs : List CopyRun) : List (Bool × Via) :=
  let of := fun (wr : Bool) (p : Except Nat Spot) => match p with
    | .ok (.mem _ _ vias _) => vias.map (fun v => (wr, v))
    | _ => []
  rs.flatMap (fun r => of false r.src ++ r.dsts.flatMap (fun d => of true d.2))

/-- One beat of a copy; the state as it is where it has to wait. -/
def State.beat (s : State) (c : CopyOp) : State :=
  if !s.copyReady c then s
  else if s.jointAbsent c.wg c.joint then s.touchJoint c.wg c.joint
  else if c.rows = 0 ∨ c.rbytes = 0 then s.afterBeat c 0 1 none
  else
    let w := s.engineWho c.core c.wg c.scope
    let point := if c.scope = 3 then 1 else 2
    let ia := scratchFlat c.wg (c.idx + 4 * c.row)
    if c.kind = 2 ∧ c.gidx.isNone ∧ s.pageAbsent c.wg ia then s.touchPages c.wg [ia]
    else if c.kind = 2 ∧ c.gidx.isNone ∧ s.rangePoison ia 4 then
      s.endCopy c (some (0x0F, chipAddress (c.idx + 4 * c.row)))
    else
      let g := match c.gidx with
        | some g => g
        | none => if c.kind = 2 then s.gatherIndex c c.row else c.row
      let n := Nat.min 512 (c.rbytes - c.byte)
      let dsts := (copyDests c.kind c.core c.dst.toNat c.mcast).map (fun d => d + c.row * c.dpitch + c.byte)
      let rs := copyRuns s w (c.src.toNat + g * c.spitch + c.byte) dsts n (n + 1)
      let busy := fun (n : Nat) (p : Except Nat Spot) => match p with
        | .error _ => false
        | .ok p => s.spotBusy c.wg n p
      if rs.any (fun r => busy r.n r.src || r.dsts.any (fun d => busy r.n d.2)) then s.touchPages c.wg (rs.flatMap (fun r => flatOf r.src ++ r.dsts.flatMap (fun d => flatOf d.2)))
      else
        match s.engineWaits c.id c.core c.pasid ((viasOf rs).any (fun v => v.1 && v.2.leaf.entry.getLsbD 8)) ((viasOf rs).map Prod.snd) with
        | some t => t
        | none =>
          let m := (s.engineMade c.id).copyMove w point rs
          match m.2 with
          | some e => m.1.endCopy c (some e)
          | none =>
            let next :=
              if c.byte + n < c.rbytes then some { c with byte := c.byte + n, gidx := some g, started := true }
              else if c.row + 1 < c.rows then some { c with row := c.row + 1, byte := 0, gidx := none, started := true }
              else none
            m.1.afterBeat c n dsts.length next

/-- COPY_BEAT (R229): the next beat of a copy; nothing where it is not due. -/
def execCopyBeat (op : Nat) (s : State) : Out :=
  match s.copies.find? (fun c => c.id == op) with
  | none => .next s
  | some c => .next (s.beat c)

end Sys2Proof.Machine
end

