-- ==== Sys2Proof/Machine/Matrix.lean ====
section
/-! DEFINITION. THSET and the MAT instructions: their operands, checks and what they hand to the Bench (R26, R127, R128, R138, R146 to
R165, R345), and METR (R346). -/

namespace Sys2Proof.Machine

/-! ### Tile handles (R26, R81, R150, R152) -/

/-- BASE. -/
def thBase (t : BitVec 128) : Nat := (t.extractLsb' 0 40).toNat
/-- The row count. -/
def thRows (t : BitVec 128) : Nat := (t.extractLsb' 40 10).toNat + (t.extractLsb' 86 1).toNat * 1024
/-- The column count. -/
def thCols (t : BitVec 128) : Nat := (t.extractLsb' 50 10).toNat + (t.extractLsb' 87 1).toNat * 1024
/-- The format code. -/
def thFmt (t : BitVec 128) : Nat := (t.extractLsb' 60 4).toNat
/-- The row pitch. -/
def thPitch (t : BitVec 128) : Nat := (t.extractLsb' 64 22).toNat
/-- The scale plane's offset. -/
def thScoff (t : BitVec 128) : Nat := (t.extractLsb' 88 24).toNat
/-- Handle tk of a warp. -/
def Warp.handle (w : Warp) (k : Nat) : BitVec 128 := mgetD w.t k 0

/-- Element width of an SE format; 0 for any other (R77). -/
def seWidth (f : Nat) : Nat := if f = 6 then 3 else if f = 7 then 5 else if f = 8 then 8 else 0
/-- Element size of the other formats (R81). -/
def elemSize (f : Nat) : Nat := if f = 4 then 1 else if f = 2 ∨ f = 3 ∨ f = 5 then 2 else 4
/-- Row bytes of a handle (R152). -/
def rowBytes (t : BitVec 128) : Nat :=
  if seWidth (thFmt t) = 0 then thCols t * elemSize (thFmt t) else thCols t / 32 * (4 * seWidth (thFmt t))
/-- Pair density of a format (R127). -/
def density (f : Nat) : Nat := if f = 4 ∨ f = 8 then 2 else if f = 7 then 4 else if f = 6 then 8 else 1

/-- The shape rules of R152. -/
def shapeOk (t : BitVec 128) : Bool :=
  thRows t != 0 && thCols t != 0 && decide (thFmt t ≤ 9) && (seWidth (thFmt t) == 0 || thCols t % 32 == 0)
    && decide (rowBytes t ≤ thPitch t)

/-- The footprints of a handle: first window address and length, elements and, for SE formats, scales (R152). -/
def footprints (t : BitVec 128) : List (Nat × Nat) :=
  (thBase t, (thRows t - 1) * thPitch t + rowBytes t)
    :: (if seWidth (thFmt t) = 0 then [] else [(thBase t + thScoff t, thRows t * thCols t / 16)])

/-- The alignments of R152. -/
def alignOk (t : BitVec 128) : Bool :=
  thBase t % 16 == 0 && thPitch t % 16 == 0 && (seWidth (thFmt t) == 0 || thScoff t % 16 == 0)

/-- A window footprint lies in scratch of the workgroup (R152). -/
def Iss.scratchOk (i : Iss) (s : State) (f : Nat × Nat) : Bool :=
  s.windowOk (i.who s 0) f.1 f.2 false && bitsOf f.1 29 2 == 0

/-- Accumulator family of an operand pair; none where the Bench does not accept it (R128). -/
def pairFamily (fa fw : Nat) : Option Family :=
  let fp := fun (f : Nat) => f == 2 || f == 3
  let se := fun (f : Nat) => seWidth f != 0
  if (fp fa && (fp fw || se fw)) || (se fa && se fw) || (decide (fa ≤ 1) && decide (fw ≤ 1)) then some .fp32
  else if (fa == 4 && fw == 4) || (fa == 5 && fw == 5) then some .int32
  else none

/-- A THSET function: the handle's new value from the uniform operands (R150, R151). -/
def thset (t : BitVec 4) (srcs : List (BitVec 7)) (f : Iss → BitVec 128 → BitVec 128) (s : State) : Out :=
  atIssue s (fun _ => { uni := srcs }) (fun i => i.next s { i.w with t := mput 0 i.w.t t.toNat (f i (i.w.handle t.toNat)) })

/-- THBASE (R150). -/
def execThbase (t : BitVec 4) (a b : BitVec 7) (s : State) : Out :=
  thset t [a, b] (fun i h => putBits (putBits h 0 40 (i.uval s a).toNat) 88 24 (i.uval s b).toNat) s
/-- THSHAPE (R150). -/
def execThshape (t : BitVec 4) (a b : BitVec 7) (s : State) : Out :=
  thset t [a, b] (fun i h =>
    let r := (i.uval s a).toNat
    let c := (i.uval s b).toNat
    putBits (putBits (putBits (putBits h 40 10 r) 86 1 (r / 1024)) 50 10 c) 87 1 (c / 1024)) s
/-- THFMT (R150). -/
def execThfmt (t : BitVec 4) (a b : BitVec 7) (s : State) : Out :=
  thset t [a, b] (fun i h => putBits (putBits h 60 4 (i.uval s a).toNat) 64 22 (i.uval s b).toNat) s
/-- THMC (R150). -/
def execThmc (t : BitVec 4) (a : BitVec 7) (s : State) : Out :=
  thset t [a] (fun i h => putBits h 112 16 (i.uval s a).toNat) s

/-! ### Shared parts of MAT (R146 to R149) -/

/-- The frame of a MAT instruction: a rendezvous over k0; no HIMM, and of HMOD only NOFLAG where nf says so. -/
def matOp (u : Iss → Uses) (body : State → Iss → Res) (s : State) : Out :=
  atRendezvous s 0 (fun i => { u i with legal := (u i).legal && i.himm == [] }) body

/-- The own Bench of a warp (R12). -/
def Warp.bench (w : Warp) : Nat := w.core / 4

/-- Relative bank k is owned (R156). -/
def Claim.owns (c : Claim) (k : Nat) : Bool := decide (k < c.count) && !c.gone.getLsbD k

/-- The members of a claim and the physical bank each has for relative bank k. -/
def Claim.on (c : Claim) (k : Nat) : List (Nat × Nat) :=
  (List.range c.gang).map (fun j => (memberOf c.bench j, (c.banks.getD j []).getD k 0))

/-- The bank-ownership fault. -/
def bankFault (i : Iss) (k : Nat) : FaultInfo := { cls := 0x0B, lanes := i.lanes, kind := 3, idx := k }
/-- The tile-handle fault. -/
def handleFault (i : Iss) (t : Nat) : FaultInfo := { cls := 0x0D, lanes := i.lanes, kind := 2, idx := t }

/-- Checks 5 and 6 of R149 for a handle, after its shape: the footprints, then the alignments. -/
def Iss.handlePlace (i : Iss) (s : State) (t : Nat) : Option FaultInfo :=
  let h := i.w.handle t
  match (footprints h).find? (fun f => !i.scratchOk s f) with
  | some f => some { cls := 0x07, addr := BitVec.ofNat 64 f.1, lanes := i.lanes, kind := 2, idx := t }
  | none => if alignOk h then none
            else some { cls := 0x03, addr := BitVec.ofNat 64 (thBase h), lanes := i.lanes, kind := 2, idx := t }

/-- The first addresses of the pages of a footprint. -/
def footPages (f : Nat × Nat) : List Nat :=
  if f.2 = 0 then [] else (List.range (cdiv (f.1 % 4096 + f.2) 4096)).map (fun k => if k = 0 then f.1 else f.1 / 4096 * 4096 + 4096 * k)

/-- The meter slots of the scratch pages of footprints, with an address in each page. -/
def State.footSlots (s : State) (wg : Nat) (fs : List (Nat × Nat)) : List (Nat × Nat) :=
  (fs.flatMap footPages).filterMap (fun a => (s.slotOf (scratchFlat wg a)).map (fun j => (j, a)))

/-- Check 7 of R345: the slot of a handle's pages, if any; a fault where the kernel is not allowed for it, or where two differ. -/
def Iss.footMeter (i : Iss) (s : State) (t : Nat) : Except FaultInfo (Option Nat) :=
  let w := i.who s 0
  match s.footSlots i.w.wg (footprints (i.w.handle t)) with
  | [] => .ok none
  | (j, a) :: r =>
    match ((j, a) :: r).find? (fun p => !s.allowedFor w.digest p.1 || p.1 != j) with
    | some p => .error { cls := 0x10, addr := BitVec.ofNat 64 p.2, lanes := i.lanes, kind := 2, idx := t }
    | none => .ok (some j)

/-- Array operations of a warp that wait in its queue at its own Bench (R138). -/
def State.queuedOf (s : State) (k bench : Nat) : Nat := (s.arrays.filter (fun o => o.warp == k && o.imm.isNone && !o.chosen.elem bench)).length

/-- An array operation enters the warp's queue; it takes its number on the matrix timeline and follows the warp's accesses (R143, R148). -/
def Iss.queueArray (i : Iss) (s : State) (op : ArrayOp) (f : Warp → Warp) : Res :=
  let r := s.releaseAction i.k i.w 2
  let num := ((s.wg i.w.wg).tl 1).issued + 1
  let s1 := r.1.modWg i.w.wg (fun g => g.modTl 1 (fun x => { x with issued := x.issued + 1 }))
  i.goOn { s1 with
    arrays := s1.arrays ++ [{ op with id := s1.serial, warp := i.k, core := i.w.core, wg := i.w.wg,
                                      prio := (s.nodeOf i.w).region.prio, tlnum := num, after := r.2 }],
    serial := s1.serial + 1 } f

/-! ### MACQ and MREL (R153 to R156) -/

/-- MACQ (R153). -/
def execMacq (e : BitVec 5) (s : State) : Out :=
  let a : BitVec 7 := 0x50#7 + e.setWidth 7
  matOp (fun _ => { uni := [a] }) (fun s i =>
    let v := (i.uval s a).toNat
    let n := bitsOf v 0 4
    let g := bitsOf v 8 3
    if 2 ^ 11 ≤ v ∨ bitsOf v 4 4 ≠ 0 then .bad { i.operand s with kind := 7, idx := e.toNat }
    else if n < 1 ∨ 8 < n ∨ g < 1 ∨ 4 < g ∨ i.w.claim.count ≠ 0 then .bad { cls := 0x0C, addr := BitVec.ofNat 64 v, lanes := i.lanes }
    else
      let b := i.w.bench
      let w := { i.parkLanes i.w (fun _ => .claim) with
                 wants := some (n, g), claim := { gang := g, bench := b, banks := List.replicate g [] } }
      let s1 := s.setWarp i.k w
      .done (if g = 1 then s1.setBench b { s1.bench b with waiting := (s1.bench b).waiting ++ [i.k] }
        else ({ s1 with gangClaims := s1.gangClaims ++ [(w.core / 16, i.k)] }).joinGang (w.core / 16))) s

/-- MREL (R154). -/
def execMrel (s : State) : Out :=
  matOp (fun _ => {}) (fun s i =>
    if i.w.claim.count = 0 then .bad { cls := 0x0C, lanes := i.lanes }
    else i.goOn (s.endClaim i.k) (fun w => w)) s

/-- A resumed warp's banks of member m are taken again from the head of the ring, relative indices kept, and get their contents back from
the save area; withdrawn operations name them by their new numbers (R135, R386). -/
def State.regain (s : State) (bench k m a : Nat) (w : Warp) : State :=
  let b := s.bench bench
  let js := w.claim.kept
  let banks := (List.range w.claim.count).map (fun j =>
    if w.claim.gone.getLsbD j then (w.claim.banks.getD m []).getD j 0 else b.ring.getD (js.takeWhile (fun i => i != j)).length 0)
  let rcb := (s.nodeOf w).region.rcb
  let s1 := s.setBench bench { b with ring := b.ring.drop js.length, waiting := b.waiting.drop 1,
                                      owner := (b.ring.take js.length).foldl (fun o p => mset o p rcb) b.owner }
  let s2 := (List.range js.length).foldl (fun s i =>
    s.moveBytes (a + i * (w.claim.gang * bankBytes)) (bankFlat bench (b.ring.getD i 0) 0) bankBytes) s1
  let s3 : State := { s2 with arrays := s2.arrays.map (fun (o : ArrayOp) =>
    if o.warp == k then { o with banks := setAt o.banks m (fun j => banks.getD j 8) } else o) }
  (s3.setWarp k { w with claim := { w.claim with banks := setAt w.claim.banks m (fun _ => banks) },
                         reclaim := w.reclaim.filter (fun e => e.1 != m) }).bankTurns

/-- MACQ_GRANT (R134, R135, R153): the claim at the head of a Bench's queue takes its banks there, when enough are free; nothing otherwise.
A bank that comes from another region is cleared. With the last member's grant the claim stands and its lanes go on. A resumed warp
takes its banks again. A claim of a workgroup whose issue has stopped waits to be withdrawn (R383). -/
def execMacqGrant (bench : Nat) (s : State) : Out :=
  let b := s.bench bench
  match b.waiting with
  | [] => .next s
  | k :: rest =>
    match s.warp k with
    | none => .next s
    | some w =>
      match w.wants with
      | none =>
        match w.reclaim.find? (fun e => memberOf w.claim.bench e.1 == bench) with
        | none => .next s
        | some (m, a) => .next (if b.ring.length < w.claim.kept.length then s else s.regain bench k m a w)
      | some (n, g) =>
        if b.ring.length < n || (s.wg w.wg).quiescing then .next s
        else
          let j := (bench % 4 + 4 - w.claim.bench % 4) % 4
          let banks := b.ring.take n
          let rcb := (s.nodeOf w).region.rcb
          let b1 := { b with ring := b.ring.drop n, waiting := rest,
                             owner := banks.foldl (fun m p => mset m p rcb) b.owner }
          let s1 := banks.foldl (fun s p => match mget b.owner p with
            | none => s
            | some r => if r = rcb then s else s.clearRange (bankFlat bench p 0) bankBytes) (s.setBench bench b1)
          let all := setAt w.claim.banks j (fun _ => banks)
          if all.all (fun p => p != []) then
            let ls := (List.range 32).filter (fun l => (w.lane l).live && (w.lane l).park == .claim)
            let w1 := { w with wants := none, claim := { w.claim with count := n, gang := g, banks := all,
                                                                      family := List.replicate n .unset } }
            let s2 := { s1 with gangClaims := s1.gangClaims.filter (fun e => e.2 != k) }
            .next (((s2.setWarp k (w1.moveLanes (s.code w) ls (fun _ => .fall))).joinGang (w.core / 16)).settle k)
          else .next (s1.setWarp k { w with claim := { w.claim with banks := all } })

/-! ### MWL and MMS (R158, R159) -/

/-- MWL (R158, R345). -/
def execMwl (t : BitVec 4) (s : State) : Out :=
  matOp (fun _ => {}) (fun s i =>
    let h := i.w.handle t.toNat
    if !shapeOk h || thFmt h == 9 || decide (192 * density (thFmt h) < thRows h) || decide (768 < thCols h) then
      .bad (handleFault i t.toNat)
    else
      match i.handlePlace s t.toNat with
      | some f => .bad f
      | none =>
        match i.footMeter s t.toNat with
        | .error f => .bad f
        | .ok slot =>
          if 4 ≤ s.queuedOf i.k i.w.bench || (match slot with | none => false | some j => s.forcedPending j) then .hold 3
          else if i.orderWaits s then .hold 2
          else
            let g := cdiv (thCols h) 192
            i.queueArray s { id := 0, warp := 0, core := 0, wg := 0, w := h, gang := g, slot := slot,
                             members := (List.range g).map (memberOf i.w.bench) }
              (fun w => { w with latch := some { handle := h, gang := g, slot := slot } })) s

/-- MMS (R159). -/
def execMms (a : BitVec 4) (k : BitVec 3) (z : BitVec 1) (s : State) : Out :=
  matOp (fun _ => {}) (fun s i =>
    let h := i.w.handle a.toNat
    let c := i.w.claim
    if !c.owns k.toNat then .bad (bankFault i k.toNat)
    else
      match i.w.latch with
      | none => .bad (handleFault i a.toNat)
      | some latch =>
        if latch.gang ≠ c.gang then .bad (bankFault i k.toNat)
        else
          let fam := pairFamily (thFmt h) (thFmt latch.handle)
          let bank := c.family.getD k.toNat .unset
          if !shapeOk h || thCols h != thRows latch.handle || decide (192 < thRows h) || fam.isNone
              || (z == 0 && bank != .unset && fam != some bank) then .bad (handleFault i a.toNat)
          else
            match i.handlePlace s a.toNat with
            | some f => .bad f
            | none =>
              match i.footMeter s a.toNat with
              | .error f => .bad f
              | .ok _ =>
                if 4 ≤ s.queuedOf i.k i.w.bench then .hold 3
                else if i.orderWaits s then .hold 2
                else
                  i.queueArray s { id := 0, warp := 0, core := 0, wg := 0, a := some h, w := latch.handle, gang := c.gang,
                                   slot := latch.slot, members := (c.on k.toNat).map Prod.fst,
                                   banks := (c.on k.toNat).map Prod.snd, z := z == 1 }
                    (fun w => { w with claim := { w.claim with
                      family := setAt w.claim.family k.toNat (fun _ => fam.getD .unset) } })) s

/-! ### MZERO, MRD, MWR (R160, R161) -/

/-- Earlier operations of the warp write the bank: a bank operation waits for them (R138, R165). -/
def Iss.bankBusy (i : Iss) (s : State) (k : Nat) : Bool := (i.w.claim.on k).any (fun p => s.opsInto i.k p.1 p.2 != [])

/-- The bank's family becomes unset. -/
def Warp.unsetFamily (w : Warp) (k : Nat) : Warp :=
  { w with claim := { w.claim with family := setAt w.claim.family k (fun _ => .unset) } }

/-- A bank operation that waits for its turn in bank k: MZERO, or MWR with its elements. -/
def Iss.queueBank (i : Iss) (s : State) (k : Nat) (z : Bool) (ws : List (Nat × Nat × Nat)) : State :=
  { s with arrays := s.arrays ++ [{ id := s.serial, warp := i.k, core := i.w.core, wg := i.w.wg, w := 0, gang := i.w.claim.gang,
                                    members := (i.w.claim.on k).map Prod.fst, banks := (i.w.claim.on k).map Prod.snd, z := z,
                                    imm := some ws }],
           serial := s.serial + 1 }

/-- MZERO (R160, R166): at once, or in its turn. -/
def execMzero (k : BitVec 3) (s : State) : Out :=
  matOp (fun _ => {}) (fun s i =>
    if !i.w.claim.owns k.toNat then .bad (bankFault i k.toNat)
    else
      i.goOn (if i.bankBusy s k.toNat then i.queueBank s k.toNat true []
        else (i.w.claim.on k.toNat).foldl (fun s p => s.clearRange (bankFlat p.1 p.2 0) bankBytes) s) (fun w => w.unsetFamily k.toNat)) s

/-- The flat address of the element a flat index names (R161). -/
def Claim.element (c : Claim) (k f : Nat) : Nat :=
  let p := (c.on k).getD (f / 36864) (0, 0)
  bankFlat p.1 p.2 (4 * (f % 36864))

/-- The bank-ownership fault of MRD and MWR, which carries the flat index of the lowest lane (R364). -/
def Iss.elementFault (i : Iss) (s : State) (a : BitVec 7) (k : Nat) : FaultInfo :=
  { bankFault i k with addr := i.val s (i.lanes.headD 0) a }

/-- Lanes whose flat index lies outside the bank (R161). -/
def Iss.indexFault (i : Iss) (s : State) (a : BitVec 7) (k : Nat) : Option FaultInfo :=
  match i.lanes.filter (fun l => decide (36864 * i.w.claim.gang ≤ (i.val s l a).toNat)) with
  | [] => none
  | l :: r => some { cls := 0x0B, addr := i.val s l a, lanes := l :: r, kind := 3, idx := k }

/-- MRD (R161, R164). -/
def execMrd (d : BitVec 6) (a : BitVec 7) (k : BitVec 3) (s : State) : Out :=
  matOp (fun _ => { srcs := [a], dst := [d] }) (fun s i =>
    let at' := fun (l : Nat) => i.w.claim.element k.toNat (i.val s l a).toNat
    if !i.w.claim.owns k.toNat then .bad (i.elementFault s a k.toNat)
    else
      match i.indexFault s a k.toNat with
      | some f => .bad f
      | none =>
        if i.bankBusy s k.toNat then .hold 1
        else
          match i.lanes.filter (fun l => s.rangePoison (at' l) 4) with
          | l :: r => .bad { cls := 0x11, lanes := l :: r }
          | [] => i.next s (i.w.modLanes i.lanes (fun l x => i.w.result d (clean (BitVec.ofNat 64 (s.num (at' l) 4))) x))) s

/-- MWR (R161, R164, R166): at once, or in its turn. -/
def execMwr (d : BitVec 6) (a : BitVec 7) (k : BitVec 3) (s : State) : Out :=
  let v : BitVec 7 := d.setWidth 7
  matOp (fun _ => { srcs := [a, v] }) (fun s i =>
    if !i.w.claim.owns k.toNat then .bad (i.elementFault s a k.toNat)
    else
      match i.indexFault s a k.toNat with
      | some f => .bad f
      | none =>
        let idx := fun (l : Nat) => (i.val s l a).toNat
        let x := fun (l : Nat) => (i.val s l v).toNat % 2 ^ 32
        i.goOn (if i.bankBusy s k.toNat then
            i.queueBank s k.toNat false (i.lanes.map (fun l => (idx l / 36864, idx l % 36864, x l)))
          else i.lanes.foldl (fun s l => s.putElement (i.w.claim.element k.toNat (idx l)) (x l)) s)
          (fun w => w.unsetFamily k.toNat)) s

/-! ### MEPI (R162, R163) -/

/-- The output format belongs to the bank's family (R137, R162). -/
def outputOk (f : Nat) (fam : Family) : Bool :=
  match fam with
  | .unset => decide (f ≤ 9)
  | .fp32 => decide (f ≤ 3) || seWidth f != 0
  | .int32 => f == 4 || f == 5 || f == 9

/-- MEPI (R162, R163). -/
def execMepi (a : BitVec 4) (k : BitVec 3) (e : BitVec 5) (s : State) : Out :=
  let sp := fun (j : Nat) => 0x50#7 + BitVec.ofNat 7 (e.toNat + j)
  matOp (fun _ => { uni := if e.toNat ≤ 29 then [sp 0, sp 1, sp 2] else [], nf := true, block := some e.toNat }) (fun s i =>
    let v0 := (i.uval s (sp 0)).toNat
    let v1 := (i.uval s (sp 1)).toNat
    let v2 := (i.uval s (sp 2)).toNat
    let act := bitsOf v0 59 5
    let smode := bitsOf v0 57 2
    let bmode := bitsOf v0 55 2
    let vbase := bitsOf v0 0 40
    let jen := bitsOf v2 40 1 == 1
    let jaddr := bitsOf v2 0 40
    let h := i.w.handle a.toNat
    let c := i.w.claim
    let n := thCols h
    let vecs := (if smode = 2 then [(vbase, 4 * n)] else []) ++ (if bmode = 2 then [(vbase + 4 * n, 4 * n)] else [])
    if 29 < e.toNat || bitsOf v0 40 15 != 0 || !(decide (act ≤ 1) || (decide (16 ≤ act) && decide (act ≤ 25))) || smode == 3 || bmode == 3
        || decide (2 ^ 41 ≤ v2) || (!jen && jaddr != 0) then .bad { i.operand s with kind := 7, idx := e.toNat }
    else if !c.owns k.toNat then .bad (bankFault i k.toNat)
    else if !shapeOk h || decide (192 < thRows h) || decide (192 * c.gang < n) || !outputOk (thFmt h) (c.family.getD k.toNat .unset) then
      .bad (handleFault i a.toNat)
    else
      match (footprints h).find? (fun f => !i.scratchOk s f) with
      | some f => .bad { cls := 0x07, addr := BitVec.ofNat 64 f.1, lanes := i.lanes, kind := 2, idx := a.toNat }
      | none =>
        match vecs.find? (fun f => !i.scratchOk s f) with
        | some f => .bad { cls := 0x07, addr := BitVec.ofNat 64 f.1, lanes := i.lanes }
        | none =>
          if jen && !i.scratchOk s (jaddr, 16) then .bad { cls := 0x07, addr := BitVec.ofNat 64 jaddr, lanes := i.lanes, kind := 5 }
          else if !alignOk h then .bad { cls := 0x03, addr := BitVec.ofNat 64 (thBase h), lanes := i.lanes, kind := 2, idx := a.toNat }
          else if vecs != [] && vbase % 4 != 0 then .bad { cls := 0x03, addr := BitVec.ofNat 64 vbase, lanes := i.lanes }
          else if jen && jaddr % 16 != 0 then .bad { cls := 0x03, addr := BitVec.ofNat 64 jaddr, lanes := i.lanes, kind := 5 }
          else if i.orderWaits s then .hold 2
          else
            let r := s.releaseAction i.k i.w 2
            let num := ((s.wg i.w.wg).tl 1).issued + 1
            let s1 := r.1.modWg i.w.wg (fun g => g.modTl 1 (fun x => { x with issued := x.issued + 1 }))
            let op : DrainOp :=
              { id := s1.serial, warp := i.k, wg := i.w.wg, index := i.w.index, members := (c.on k.toNat).map Prod.fst,
                banks := (c.on k.toNat).map Prod.snd, out := h, act := act, smode := smode, bmode := bmode, vbase := vbase,
                scale := BitVec.ofNat 32 v1, bias := BitVec.ofNat 32 (v1 / 2 ^ 32), joint := if jen then some jaddr else none,
                family := c.family.getD k.toNat .unset, noflag := i.noflag, tlnum := num,
                opc := i.pc, rpc := i.run,
                after := (c.on k.toNat).flatMap (fun p => s.opsInto i.k p.1 p.2), behind := r.2 }
            let s2 := ({ s1 with drains := s1.drains ++ [op], serial := s1.serial + 1 }).modWarp i.k (fun w =>
              { w with claim := { w.claim with gone := w.claim.gone ||| (1#8 <<< k.toNat) } })
            let left := (List.range c.count).any (fun j => j != k.toNat && c.owns j)
            i.goOn (if left then s2 else s2.endClaim i.k) (fun w => w)) s

/-! ### METR (R346) -/

/-- METR (R346). -/
def execMetr (d : BitVec 5) (a : BitVec 7) (s : State) : Out :=
  atIssue s (fun _ => { uni := [a] }) (fun i =>
    let v := (i.uval s a).toNat
    let tag := bitsOf v 0 10
    if 2 ^ 12 ≤ v then .bad (i.operand s)
    else
      match (if tag = 0 then none else mget (s.nodeOf i.w).region.meter tag) with
      | none => .bad { cls := 0x10, addr := BitVec.ofNat 64 tag, lanes := i.lanes }
      | some slot =>
        let m := mgetD s.meters slot { inst := 0 }
        let x : Word :=
          if bitsOf v 10 2 = 0 then m.macs.setWidth 64
          else if bitsOf v 10 2 = 1 then (m.macs >>> 64).setWidth 64
          else if bitsOf v 10 2 = 2 then m.rbytes
          else m.seq
        i.next s (i.w.setS d.toNat (clean x)))

end Sys2Proof.Machine
end

