-- ==== Sys2Proof/Machine/Arrays.lean ====
section
/-! DEFINITION. What the Benches do: operand rows, accumulation (R129 to R131), the latch (R132, R133), the arbiter and gangs (R139 to
R142), and the Planer (R136, R137, R163, R164). -/

namespace Sys2Proof.Machine

/-! ### Rows of a tile (R79, R133, R143) -/

/-- Columns of a row that poisoned bytes reach: element bytes by place, scale words by block. -/
def badColumns (fmt cols : Nat) (data scale : Nat → Bool) : List Nat :=
  let b := seWidth fmt
  (List.range cols).filter (fun c =>
    if b = 0 then (List.range (elemSize fmt)).any (fun k => data (c * elemSize fmt + k))
    else
      let lo := c / 32 * (32 * b) + c % 32 * b
      (List.range ((lo + b - 1) / 8 - lo / 8 + 1)).any (fun k => data (lo / 8 + k)) || scale (c / 32 * 2) || scale (c / 32 * 2 + 1))

/-- Row r of the tile a handle names, read as one unit. -/
def State.tileRow (s : State) (wg : Nat) (t : BitVec 128) (r : Nat) : TileRow :=
  let e := scratchFlat wg (thBase t + r * thPitch t)
  let c := scratchFlat wg (thBase t + thScoff t + r * (thCols t / 16))
  let scaled := seWidth (thFmt t) != 0
  { data := s.bytes e (rowBytes t), scale := if scaled then s.bytes c (thCols t / 16) else [],
    bad := if s.poison = [] then [] else
      badColumns (thFmt t) (thCols t) (fun k => s.isPoison (e + k)) (fun k => s.isPoison (c + k)) }

/-- A page of some window footprints is not back after a resume (R173). -/
def State.windowAbsent (s : State) (wg : Nat) (fs : List (Nat × Nat)) : Bool :=
  (s.wg wg).absent != [] && fs.any (fun f => (footPages f).any (fun a => s.pageAbsent wg (scratchFlat wg a)))

/-- An access of a Bench touches the pages of some window footprints (R173). -/
def State.touchPrints (s : State) (wg : Nat) (fs : List (Nat × Nat)) : State :=
  s.touchPages wg (fs.flatMap (fun f => (footPages f).map (scratchFlat wg)))

/-- The footprints of row r of a tile: elements, and scales for an SE format. -/
def rowPrints (t : BitVec 128) (r : Nat) : List (Nat × Nat) :=
  (thBase t + r * thPitch t, rowBytes t)
    :: (if seWidth (thFmt t) = 0 then [] else [(thBase t + thScoff t + r * (thCols t / 16), thCols t / 16)])

/-- Merged fetches (R144): a fetch of this tile for this operation joins one that another Bench of the cluster began at most 16 cycles ago,
where the handles agree in all but MCMASK and each core stands in the MCMASK of the other. DEDUCED (log entry 66): it joins only where its
lanes' earlier stores are in the rows read so far, because they were over when that fetch began, or because those rows are what stands in the
scratchpad now (R143). -/
def State.merges (s : State) (o : ArrayOp) (t : BitVec 128) (f : Fetch) : Bool :=
  f.wg == o.wg && f.core / 16 == o.core / 16 && f.core / 4 != o.core / 4 && decide (s.cycle ≤ f.since + 16)
    && f.handle.extractLsb' 0 112 == t.extractLsb' 0 112 && t.getLsbD (112 + f.core % 16) && f.handle.getLsbD (112 + o.core % 16)
    && ((decide (o.id < f.id) && o.after.all (fun i => !f.open'.elem i)) || f.rows.all (fun e => s.tileRow o.wg t e.1 == e.2))

/-- A fetch that an operation still reads from, or that another one can still join. -/
def State.fetchLives (s : State) (f : Fetch) : Bool :=
  s.arrays.any (fun o => o.fetch == some f.id) || decide (s.cycle ≤ f.since + 16)

/-- The fetch of this tile by an operation: the one under way for it, else one that it joins, else its own, which begins now. -/
def State.fetching (s : State) (o : ArrayOp) (t : BitVec 128) : State × Nat :=
  match o.fetch with
  | some f => (s, f)
  | none =>
    match s.fetches.find? (s.merges o t) with
    | some f => (s, f.id)
    | none =>
      ({ s with serial := s.serial + 1, fetches := s.fetches.filter s.fetchLives
                  ++ [{ id := s.serial, wg := o.wg, core := o.core, handle := t, open' := s.ops.map (fun p => p.id), since := s.cycle }] },
       s.serial)

/-- Row r as a fetch has read it; none where it has not. -/
def State.fetched (s : State) (f r : Nat) : Option TileRow :=
  (s.fetches.find? (fun x => x.id == f)).bind (fun x => (x.rows.find? (fun e => e.1 == r)).map Prod.snd)

/-- Row r of a tile as the recipients of a fetch get it: read now, as one unit, unless the fetch has read it already (R133, R144). -/
def State.rowFor (s : State) (wg : Nat) (t : BitVec 128) (f r : Nat) : TileRow := (s.fetched f r).getD (s.tileRow wg t r)

/-- A fetch has read these rows. -/
def State.noteRows (s : State) (wg : Nat) (t : BitVec 128) (f : Nat) (rs : List Nat) : State :=
  { s with fetches := s.fetches.map (fun x =>
      if x.id == f then { x with rows := x.rows ++ (rs.filter (fun r => (s.fetched f r).isNone)).map (fun r => (r, s.tileRow wg t r)) } else x) }

/-- A row that a fetch has yet to read lies in a page that is not back after a resume (R173). -/
def State.rowAway (s : State) (wg : Nat) (t : BitVec 128) (f r : Nat) : Bool :=
  (s.fetched f r).isNone && s.windowAbsent wg (rowPrints t r)

/-- The first row of a tile outside the issuing core's scratchpad has not arrived yet: it takes 10 cycles instead of 3 (R17, R143). -/
def ArrayOp.farRow (o : ArrayOp) (t : BitVec 128) : Bool := thBase t / 2 ^ 31 != o.core && o.step == 0 && decide (o.late < 7)

/-- Element c of a row as a pattern, and its scale word for an SE format. -/
def TileRow.code (r : TileRow) (fmt c : Nat) : Nat × Nat :=
  let b := seWidth fmt
  if b = 0 then (natLE ((r.data.drop (c * elemSize fmt)).take (elemSize fmt)), 0)
  else (bitsOf (natLE ((r.data.drop (c / 32 * (4 * b))).take (4 * b))) (c % 32 * b) b, natLE ((r.scale.drop (c / 32 * 2)).take 2))

/-- A floating-point element as a value. -/
def TileRow.float (r : TileRow) (fmt c : Nat) : FVal :=
  let x := r.code fmt c
  if seWidth fmt ≠ 0 then seValue (seWidth fmt) x.2 x.1 (c % 32)
  else fval (if fmt = 2 then bf16 else if fmt = 3 then fp16 else fp32) x.1

/-- An integer element. -/
def TileRow.int (r : TileRow) (fmt c : Nat) : Int :=
  let x := (r.code fmt c).1
  if fmt = 4 then (BitVec.ofNat 8 x).toInt else (BitVec.ofNat 16 x).toInt

/-! ### Accumulation (R129, R131) -/

/-- The exact difference of two finite values, rounded to BF16. -/
def sliceRest (x y : FVal) : FVal :=
  match x, y with
  | .num n1 m1 e1, .num n2 m2 e2 =>
    let r := addExact n1 m1 e1 (!n2) m2 e2
    fval bf16 (rndInt' bf16 .rne false r.1 r.2).bits
  | _, _ => .num false 0 0

/-- The slices hi, lo, lo2 of an FP32 value (R129). -/
def slices (x : FVal) : List FVal :=
  match x with
  | .num n m e =>
    let b := ((FVal.num n m e).round bf16 .rne).bits
    let hi := if b % 2 ^ 15 = 0x7F80 then fval bf16 (bf16.huge n) else fval bf16 b
    let lo := sliceRest x hi
    let rest := match hi, lo with
      | .num hn hm he, .num ln lm le =>
        let t := addExact hn hm he ln lm le
        sliceRest x (.num (decide (t.1 < 0)) t.1.natAbs t.2)
      | _, _ => .num false 0 0
    [hi, lo, rest]
  | v => [v, .num false 0 0, .num false 0 0]

/-- The pass list as pairs of slice numbers, hi 0, lo 1, lo2 2 (R128, R129); one pass of whole values is (0, 0). -/
def passList (fa fw : Nat) : List (Nat × Nat) :=
  if 2 ≤ fa then [(0, 0)]
  else if fa = 0 ∨ fw = 0 then [(2, 0), (0, 2), (1, 1), (1, 0), (0, 1), (0, 0)]
  else [(1, 0), (0, 1), (0, 0)]

/-- The exact sum of a block of products (R131): the canonical NaN, an infinity, or a dyadic value, −0 only where every product is. -/
def blockSum (ps : List (FVal × FVal)) : FVal :=
  let xs := ps.map (fun p => if p.1.isNan || p.2.isNan then .nan false else (mulExact p.1 p.2).getD (.nan false))
  if xs.any FVal.isNan || (xs.any (fun v => v == .inf false) && xs.any (fun v => v == .inf true)) then .nan false
  else if xs.any (fun v => v == .inf false) then .inf false
  else if xs.any (fun v => v == .inf true) then .inf true
  else
    let t := xs.foldl (fun (a : Int × Int) v => match v with
      | .num n m e => addExact (decide (a.1 < 0)) a.1.natAbs a.2 n m e
      | _ => a) (0, 0)
    if t.1 = 0 then .num (xs.all (fun v => v.isZero && v.neg?)) 0 0 else .num (decide (t.1 < 0)) t.1.natAbs t.2

/-- Blocks of 16. -/
def blocks16 {α : Type} (l : List α) (fuel : Nat) : List (List α) :=
  match fuel with
  | 0 => []
  | f + 1 => if l.isEmpty then [] else l.take 16 :: blocks16 (l.drop 16) f

/-- Accumulates a floating-point element over the passes and blocks of 16 products, in order (R131). -/
def accumulate (acc : Nat) (passes : List (Nat × Nat)) (as ws : List (List FVal)) : Nat :=
  passes.foldl (fun acc p =>
    let col := fun (l : List (List FVal)) (i : Nat) => l.map (fun v => v.getD i (.num false 0 0))
    (blocks16 ((col as p.1).zip (col ws p.2)) (as.length + 1)).foldl (fun acc b =>
      (opAdd fp32 .rne acc ((blockSum b).round fp32 .rne).bits).bits) acc) acc

/-- The new pattern of an element from its old one, the A row and the W column. -/
def mmsElement (fa fw : Nat) (old : Nat) (a : TileRow) (ws : List TileRow) (n : Nat) : Nat :=
  let k := ws.length
  if fa = 4 ∨ fa = 5 then
    let t := ((List.range k).zip ws).foldl (fun (t : Int) p => t + a.int fa p.1 * p.2.int fw n) (BitVec.ofNat 32 old).toInt
    (BitVec.ofInt 32 t).toNat
  else
    let cut := fun (v : FVal) => if fa ≤ 1 then slices v else [v]
    accumulate old (passList fa fw) ((List.range k).map (fun j => cut (a.float fa j))) (ws.map (fun r => cut (r.float fw n)))

/-! ### The arbiter (R138 to R142, R349) -/

/-- An array operation. -/
def State.arrayOf (s : State) (id : Nat) : Option ArrayOp := s.arrays.find? (fun o => o.id == id)

/-- Replaces an array operation by its later state. -/
def State.setArray (s : State) (o : ArrayOp) : State :=
  { s with arrays := s.arrays.map (fun (p : ArrayOp) => if p.id == o.id then o else p) }

/-- Two handles' footprints share a byte. -/
def tilesOverlap (a b : BitVec 128) : Bool :=
  (footprints a).any (fun x => (footprints b).any (fun y => decide (x.1 < y.1 + y.2 ∧ y.1 < x.1 + x.2)))

/-- An operation of a saving or flushing workgroup that no array selects any more: no member has selected it, and no drain waits for it or
for a later one of its warp (R383). -/
def State.leaving (s : State) (o : ArrayOp) : Bool :=
  ((s.wg o.wg).status == .saving || (s.wg o.wg).status == .flushing) && o.chosen == []
    && !s.drains.any (fun d => d.warp == o.warp && d.after.any (fun i => decide (o.id ≤ i)))

/-- An operation waits: for the accesses before it, for an earlier drain of its warp whose output it reads and an earlier bank operation on
its bank (R165), for an undelivered forced report of its slot (R349), or for the banks of a resumed warp (R135). DESIGN CHOICE (log
entry 66): such an operation does not make its warp a candidate of R139, so that one of a lower priority may be selected meanwhile. -/
def State.arrayWaits (s : State) (o : ArrayOp) : Bool :=
  !(o.after.all (fun i => !s.ops.any (fun p => p.id == i)))
    || s.drains.any (fun d => d.warp == o.warp && decide (d.id < o.id) && tilesOverlap d.out (o.a.getD o.w))
    || (o.a.isSome && (match o.slot with | none => false | some j => s.forcedPending j))
    || (o.a.isSome && s.arrays.any (fun p => p.warp == o.warp && p.imm.isSome && decide (p.id < o.id)
        && (p.members.zip p.banks).any (fun b => (o.members.zip o.banks).elem b)))
    || (match s.warp o.warp with | none => false | some w => w.reclaim != []) || s.leaving o

/-- The gang operation at the head of its cluster's queue (R142). -/
def State.gangHead (s : State) (cluster : Nat) : Option ArrayOp :=
  s.arrays.find? (fun o => o.core / 16 == cluster && decide (1 < o.members.length) && o.imm.isNone && !o.running)

/-- The operations a Bench may select: for each warp its oldest one whose last row has not entered, where the Bench is a member and has
not selected it. -/
def State.offeredTo (s : State) (b : Nat) : List ArrayOp :=
  s.arrays.filter (fun o => o.members.elem b && o.imm.isNone && !o.chosen.elem b && !s.arrayWaits o
    && s.arrays.all (fun p => p.warp != o.warp || p.imm.isSome || p.stage == 2 || decide (o.id ≤ p.id))
    && (o.members.length == 1 || (s.gangHead (b / 4)).map (fun g => g.id) == some o.id))

/-- The array of a Bench is at a tile boundary: the last row of what it selected has entered, or it is idle (R139). -/
def State.arrayIdle (s : State) (b : Nat) : Bool := s.arrays.all (fun o => !o.chosen.elem b || o.stage == 2)

/-- The arbiter's choice (R139). DESIGN CHOICE (log entry 66): in the round-robin of a member that is not the issuing warp's own Bench, a
ganged operation counts as one of the core whose number is the issuing core's within its own Bench. -/
def State.arbiter (s : State) (b : Nat) : Option ArrayOp :=
  let all := s.offeredTo b
  let top := all.foldl (fun m o => Nat.max m o.prio) 0
  let cs := all.filter (fun o => o.prio == top)
  let x := s.bench b
  let mine := fun (o : ArrayOp) => (x.latched.map Prod.fst) == some o.warp
  match cs.find? (fun o => mine o && x.latched == some (o.warp, o.w) && o.a.isSome && decide (x.run < 4)) with
  | some o => some o
  | none =>
    let cs1 := cs.filter (fun o => !(mine o && decide (4 ≤ x.run)))
    let last := x.served.getD 3
    leastBy (fun o => (o.core % 4 + 3 - last) % 4 * 2 ^ 64 + o.id) (if cs1 = [] then cs else cs1)

/-- The columns of member j of a latched tile of n columns (R141). -/
def memberCols (n j : Nat) : Nat := Nat.min 192 (n - 192 * j)

/-- The MACs of an MMS at its selection (R345). -/
def State.countMms (s : State) (o : ArrayOp) : State :=
  match o.a, o.slot with
  | some a, some slot =>
    (List.range o.members.length).foldl (fun s j => s.countMacs slot (thRows a * thCols a * memberCols (thCols o.w) j)) s
  | _, _ => s

/-- ARBITER_SELECT (R139, R142): at a tile boundary the Bench selects one operation; it runs once every member has selected it.
Nothing where none can be selected. -/
def execArbiterSelect (bench : Nat) (s : State) : Out :=
  if !s.arrayIdle bench then .next s
  else
    match s.arbiter bench with
    | none => .next s
    | some o =>
      let x := s.bench bench
      let others := (s.offeredTo bench).any (fun p => p.warp != o.warp && p.prio == o.prio)
      let run := (if x.latched.map Prod.fst = some o.warp then x.run else 0) + (if others then 1 else 0)
      let s1 := s.setBench bench { x with served := some (o.core % 4), run := run }
      let all := o.members.all (fun m => m == bench || o.chosen.elem m)
      let need := o.members.filter (fun m => o.a.isNone || (s1.bench m).latched != some (o.warp, o.w))
      let o1 := { o with chosen := o.chosen ++ [bench], running := all,
                         stage := if all && need == [] then 1 else 0, need := if all then need else [] }
      let s2 := s1.setArray o1
      .next (if all then s2.countMms o1 else s2)

/-- An array operation is over (R148); bank operations behind it have their turn. -/
def State.endArray (s : State) (o : ArrayOp) : State :=
  (((({ s with arrays := s.arrays.filter (fun p => p.id != o.id) }).completeTl o.wg 1 o.tlnum false).arraysGone [o.id]).bankTurns).release o.wg

/-- The operation is its warp's oldest: a warp's operations complete in its issue order (R138). -/
def State.oldest (s : State) (o : ArrayOp) : Bool := s.arrays.all (fun p => p.warp != o.warp || p.imm.isSome || decide (o.id ≤ p.id))

/-- MWL_COMPLETE (R132, R148): the latch has been read, and the warp's earlier operations are over; nothing before. -/
def execMwlComplete (op : Nat) (s : State) : Out :=
  match s.arrayOf op with
  | none => .next s
  | some o => .next (if o.a.isNone && o.imm.isNone && o.stage == 2 && s.oldest o then s.endArray o else s)

/-- MMS_COMPLETE (R131, R140, R148): the multiply has written its last row, 385 cycles after that row's operand entered, and the warp's
earlier operations are over; nothing before. -/
def execMmsComplete (op : Nat) (s : State) : Out :=
  match s.arrayOf op with
  | none => .next s
  | some o => .next (if o.a.isSome && o.stage == 2 && decide (385 ≤ o.step) && s.oldest o then s.endArray o else s)

/-! ### The cycles of an array (R132, R133, R140, R143, R145) -/

/-- A Bench counter gains a cycle: 0 weight reload, 1 operand wait, 2 draining, 3 ganged wait (R145). -/
def State.tally (s : State) (k b : Nat) : State :=
  let x := s.bench b
  s.setBench b { x with count := mput 0 x.count k (mgetD x.count k 0 + 1) }

/-- The rows of W that a cycle of a latch reads: as many as the weights' density (R132). -/
def ArrayOp.latchRows (o : ArrayOp) : List Nat :=
  ((List.range (density (thFmt o.w))).map (fun i => o.step * density (thFmt o.w) + i)).filter (fun r => decide (r < thRows o.w))

/-- A cycle in which the operand row of a stage has not arrived: it counts as operand wait on the Benches that would take it (R145), and it
touches the row's pages (R173). -/
def State.rowWait (s : State) (o : ArrayOp) (bs : List Nat) (f late : Nat) (fs : List (Nat × Nat)) : State :=
  ((bs.foldl (State.tally · 1) s).touchPrints o.wg fs).setArray { o with fetch := some f, late := late }

/-- A cycle of a latch or re-latch: the next rows of W, as many as the weights' density, are read each as one unit; after 192 cycles the
members that latch hold them. DEDUCED: a cycle in which a row has not arrived counts as operand wait, not as weight reload. -/
def State.latchCycle (s : State) (o : ArrayOp) : State :=
  let f := s.fetching o o.w
  let away := o.latchRows.filter (f.1.rowAway o.wg o.w f.2)
  if o.farRow o.w then f.1.rowWait o o.need f.2 (o.late + 1) []
  else if away != [] then f.1.rowWait o o.need f.2 o.late (away.flatMap (rowPrints o.w))
  else
    let part := o.part ++ o.latchRows.map (f.1.rowFor o.wg o.w f.2)
    let s1 := o.need.foldl (State.tally · 0) (f.1.noteRows o.wg o.w f.2 o.latchRows)
    if o.step + 1 < 192 then s1.setArray { o with step := o.step + 1, part := part, fetch := some f.2 }
    else (o.need.foldl (fun s b => s.setBench b { s.bench b with latched := some (o.warp, o.w), weights := part }) s1).setArray
      { o with step := 0, part := [], stage := if o.a.isNone then 2 else 1, fetch := none, late := 0 }

/-- What row m of an MMS writes into one member's bank: address, pattern and poison of each element (R131, R164); nothing into a bank that
has been given up meanwhile (R157). -/
def State.mmsRow (s : State) (o : ArrayOp) (a : BitVec 128) (m : Nat) (row : TileRow) (j : Nat) : List (Nat × Nat × Bool) :=
  let b := o.members.getD j 0
  let bank := o.banks.getD j 8
  let ws := (s.bench b).weights
  if 8 ≤ bank then []
  else (List.range (memberCols (thCols o.w) j)).map (fun n =>
    let e := bankFlat b bank (4 * (192 * m + n))
    (e, mmsElement (thFmt a) (thFmt o.w) (if o.z then 0 else s.num e 4) row ws (192 * j + n),
      row.bad != [] || ws.any (fun r => r.bad.elem (192 * j + n)) || (!o.z && s.rangePoison e 4)))

/-- Writes elements of banks, with their poison. -/
def State.writeElements (s : State) (ws : List (Nat × Nat × Bool)) : State :=
  ws.foldl (fun s w =>
    let s1 := s.putElement w.1 w.2.1
    if w.2.2 then s1.poisonRange w.1 4 else s1) s

/-- Passes of an operand pair (R128). -/
def passCount (fa fw : Nat) : Nat := if fa = 5 then 4 else (passList fa fw).length

/-- Cycles an A row takes: passes times sub-passes (R127, R140). -/
def ArrayOp.perRow (o : ArrayOp) (a : BitVec 128) : Nat :=
  passCount (thFmt a) (thFmt o.w) * cdiv (thCols a) (192 * Nat.min (density (thFmt a)) (density (thFmt o.w)))

/-- A cycle in which an MMS's rows enter: row m, read as one unit for every member, acts in the first of its cycles; one that has not
arrived keeps the array waiting. -/
def State.rowCycle (s : State) (o : ArrayOp) (a : BitVec 128) : State :=
  let per := o.perRow a
  let m := o.step / per
  let enters := o.step % per == 0
  let f := s.fetching o a
  if o.farRow a then f.1.rowWait o o.members f.2 (o.late + 1) []
  else if enters && f.1.rowAway o.wg a f.2 m then f.1.rowWait o o.members f.2 o.late (rowPrints a m)
  else
    let s1 := if enters then
        let row := f.1.rowFor o.wg a f.2 m
        (f.1.noteRows o.wg a f.2 [m]).writeElements ((List.range o.members.length).flatMap (f.1.mmsRow o a m row))
      else f.1
    s1.setArray (if o.step + 1 < per * thRows a then { o with step := o.step + 1, fetch := some f.2 }
      else { o with step := 0, stage := 2, fetch := none, late := 0 })

/-- A cycle of an array operation that its members have selected: some of them wait for the others (R142), or it runs. -/
def State.arrayCycle (s : State) (id : Nat) : State :=
  match s.arrayOf id with
  | none => s
  | some o =>
    if !o.running then o.chosen.foldl (State.tally · 3) s
    else
      match o.stage, o.a with
      | 0, _ => s.latchCycle o
      | 1, some a => s.rowCycle o a
      | _, _ => s.setArray { o with step := o.step + 1 }

/-! ### The Planer (R136, R137, R163, R164) -/

/-- The value of one element after steps 1 to 4 of R137, with its flags; int says that the bank value is read as INT32. -/
def DrainOp.steps (d : DrainOp) (int : Bool) (x scale bias : Nat) : FRes :=
  let v0 : FRes := if int then ofInteger fp32 .rne (BitVec.ofNat 32 x).toInt else ⟨x, 0⟩
  let v1 : FRes := if d.smode = 0 then v0 else let r := opMul fp32 .rne v0.bits scale; ⟨r.bits, v0.flags ||| r.flags⟩
  let v2 : FRes := if d.bmode = 0 then v1 else let r := opAdd fp32 .rne v1.bits bias; ⟨r.bits, v1.flags ||| r.flags⟩
  if d.act = 0 then v2
  else if d.act = 1 then let r := opMax fp32 .rne v2.bits 0; ⟨r.bits, v2.flags ||| r.flags⟩
  else
    let fn : Sfu :=
      if d.act = 16 then .ex2 else if d.act = 17 then .lg2 else if d.act = 18 then .rcp else if d.act = 19 then .rsq
      else if d.act = 20 then .sqrt else if d.act = 21 then .sinpi else if d.act = 22 then .cospi else if d.act = 23 then .tanh
      else if d.act = 24 then .sigm else .gelu
    let r := sfu fn false v2.bits
    ⟨r.bits, v2.flags ||| r.flags⟩

/-- Step 6 of R137 for the formats that are not SE; an SE output takes the value as it is, and R80 alone raises its flags. -/
def planerOut (fmt v : Nat) : FRes :=
  let int := fun (n : Nat) =>
    let r := toInteger .rne (-(2 ^ (n - 1) : Int)) (2 ^ (n - 1) - 1 : Int) (fval fp32 v)
    (⟨(BitVec.ofInt n r.1).toNat, r.2⟩ : FRes)
  if fmt = 2 then convert fp32 bf16 .rne v
  else if fmt = 3 then convert fp32 fp16 .rne v
  else if fmt = 4 then int 8
  else if fmt = 5 then int 16
  else if fmt = 9 then int 32
  else if seWidth fmt ≠ 0 then ⟨v, 0⟩
  else convert fp32 fp32 .rne v

/-- The bank values are read as INT32 (R162). -/
def DrainOp.int (d : DrainOp) : Bool :=
  let f := thFmt d.out
  d.family == .int32 || (d.family == .unset && (f == 4 || f == 5 || f == 9))

/-- A pass-through from INT32 to INT32 (R137). -/
def DrainOp.pass (d : DrainOp) : Bool := d.int && thFmt d.out == 9 && d.smode == 0 && d.bmode == 0 && d.act == 0

/-- One drained element: its output pattern, the value that updates AMAX, the flags, and whether it is poisoned. -/
structure Drained where
  out   : Nat
  v     : Nat
  flags : FlagBits
  bad   : Bool

/-- Element (m, n) of member j, n counted within the member (R137, R164). -/
def State.drainElement (s : State) (d : DrainOp) (j m n : Nat) : Drained :=
  let e := bankFlat (d.members.getD j 0) (d.banks.getD j 0) (4 * (192 * m + n))
  let col := 192 * j + n
  let x := s.num e 4
  let va := scratchFlat d.wg (d.vbase + 4 * col)
  let vb := scratchFlat d.wg (d.vbase + 4 * thCols d.out + 4 * col)
  let bad := s.rangePoison e 4 || (d.smode == 2 && s.rangePoison va 4) || (d.bmode == 2 && s.rangePoison vb 4)
  if d.pass then { out := x, v := (ofInteger fp32 .rne (BitVec.ofNat 32 x).toInt).bits, flags := 0, bad := bad }
  else
    let r := d.steps d.int x (if d.smode = 2 then s.num va 4 else d.scale.toNat) (if d.bmode = 2 then s.num vb 4 else d.bias.toNat)
    let o := planerOut (thFmt d.out) r.bits
    { out := o.bits, v := r.bits, flags := r.flags ||| o.flags, bad := bad }

/-- Packs codes of width b, the first lowest. -/
def packCodes (b : Nat) (cs : List Nat) : Nat :=
  match cs with
  | [] => 0
  | c :: r => c % 2 ^ b + 2 ^ b * packCodes b r

/-- The bytes of a row of member j: window address, bytes, poison, for elements and scales; with the flags of the quantisation. -/
def drainRow (d : DrainOp) (j m : Nat) (es : List Drained) : List (Nat × List Byte × Bool) × FlagBits :=
  let f := thFmt d.out
  let b := seWidth f
  let base := thBase d.out + m * thPitch d.out
  if b = 0 then
    (((List.range es.length).zip es).map (fun p =>
      (base + (192 * j + p.1) * elemSize f, bytesLE (elemSize f) p.2.out, p.2.bad)), 0)
  else
    let bl := (List.range (es.length / 32)).map (fun k => (k, (es.drop (32 * k)).take 32))
    (bl.flatMap (fun p =>
        let q := quantise b (p.2.map (fun x => x.v))
        let bad := p.2.any (fun x => x.bad)
        [(base + (6 * j + p.1) * (4 * b), bytesLE (4 * b) (packCodes b q.codes), bad),
         (thBase d.out + thScoff d.out + m * (thCols d.out / 16) + (6 * j + p.1) * 2, bytesLE 2 q.scale, bad)]),
     bl.foldl (fun a p => a ||| (quantise b (p.2.map (fun x => x.v))).flags) 0)

/-- Writes a row of a drain. -/
def State.writeRow (s : State) (wg : Nat) (ws : List (Nat × List Byte × Bool)) : State :=
  let ps := ws.flatMap (fun w => (List.range w.2.1.length).zip w.2.1 |>.map (fun e => (scratchFlat wg (w.1 + e.1), e.2)))
  ws.foldl (fun s w => if w.2.2 then s.poisonRange (scratchFlat wg w.1) w.2.1.length
    else s.cleanRange (scratchFlat wg w.1) w.2.1.length) (s.writeRaw ps)

/-- Row m of a drain on member j is written; its flags and AMAX go to the handing warp (R83, R137). DESIGN CHOICE (log entry 66): they are
visible from this row on, before the drain is counted, where R84 allows either. -/
def State.drainRowOf (s : State) (d : DrainOp) (j m : Nat) : State :=
  let es := (List.range (memberCols (thCols d.out) j)).map (s.drainElement d j m)
  let row := drainRow d j m es
  (s.writeRow d.wg row.1).raiseOn d.wg d.index (if d.noflag then 0 else es.foldl (fun f e => f ||| e.flags) row.2) (es.map (fun e => e.v))

/-- The drain a Planer takes next: the first handed to the Bench that it has not ended (R136). -/
def State.nextDrain (s : State) (b : Nat) : Option DrainOp := s.drains.find? (fun d => d.members.elem b && !d.ended.elem b)

/-- Replaces a drain by its later state. -/
def State.setDrain (s : State) (d : DrainOp) : State :=
  { s with drains := s.drains.map (fun (x : DrainOp) => if x.id == d.id then d else x) }

/-- DRAIN_START (R136): the Planer is free, the array operations before the hand-over and the accesses before it are over; nothing
otherwise. -/
def execDrainStart (bench : Nat) (s : State) : Out :=
  match s.nextDrain bench with
  | none => .next s
  | some d =>
    if d.started.elem bench || d.after != [] || !(d.behind.all (fun i => !s.ops.any (fun o => o.id == i))) then .next s
    else .next (s.setDrain { d with started := d.started ++ [bench] })

/-- The windows row m of a drain on any member touches: its output, and the vectors it reads (R162). -/
def DrainOp.prints (d : DrainOp) (m : Nat) : List (Nat × Nat) :=
  rowPrints d.out m ++ (if d.smode = 2 then [(d.vbase, 4 * thCols d.out)] else [])
    ++ (if d.bmode = 2 then [(d.vbase + 4 * thCols d.out, 4 * thCols d.out)] else [])

/-- A cycle of a Bench's Planer (R136): after 20 cycles a row is written in each; a page that is not back after a resume keeps it waiting
(R173). -/
def State.drainCycle (s : State) (bench : Nat) : State :=
  match s.nextDrain bench with
  | none => s
  | some d =>
    let t := mgetD d.rows bench 0
    if !d.started.elem bench || decide (thRows d.out + 20 ≤ t) then s
    else
      let s1 := s.tally 2 bench
      let on := { d with rows := mset d.rows bench (t + 1) }
      if t < 20 then s1.setDrain on
      else if s.windowAbsent d.wg (d.prints (t - 20)) then s1.touchPrints d.wg (d.prints (t - 20))
      else (s1.drainRowOf d ((d.members.findIdx? (fun m => m == bench)).getD 0) (t - 20)).setDrain on

/-- A cycle of the Benches: every selected array operation, and every Planer. -/
def State.benchCycle (s : State) : State :=
  let s1 := (s.arrays.filter (fun o => o.chosen != [])).foldl (fun s o => s.arrayCycle o.id) s
  ((s.drains.flatMap (fun d => d.started)).eraseDups).foldl State.drainCycle s1

/-- The bytes a drain delivers to its Joint: element plane and scale plane (R163). -/
def drainBytes (t : BitVec 128) : Nat := thRows t * rowBytes t + (if seWidth (thFmt t) = 0 then 0 else thRows t * thCols t / 16)

/-- The last member's drain has ended: the Joint's delivery, and the completion (R148, R163, R236). -/
def State.endDrain (s : State) (d : DrainOp) : State :=
  let s1 := { s with drains := s.drains.filter (fun x => x.id != d.id) }
  match d.joint with
  | none => (s1.completeTl d.wg 1 d.tlnum false).release d.wg
  | some j =>
    let excess := s1.overruns d.wg j (drainBytes d.out)
    let s2 := s1.deliverTo d.wg j (drainBytes d.out)
    let s3 := if excess then s2.engineFault d.wg
        { cls := 0x0E, addr := BitVec.ofNat 64 j, jaddr := some j, tl := some (1, d.tlnum), opc := d.opc, rpc := d.rpc } else s2
    (s3.completeTl d.wg 1 d.tlnum excess).release d.wg

/-- DRAIN_END (R136, R137, R148, R163): the Planer of a Bench has written its part, and the bank returns to the tail of its ring; nothing
before, nor for the last member while the Joint's page is not back after a resume (R173). -/
def execDrainEnd (bench : Nat) (s : State) : Out :=
  match s.nextDrain bench with
  | none => .next s
  | some d =>
    let last := d.members.all (fun m => m == bench || d.ended.elem m)
    let away := last && (match d.joint with | none => false | some j => s.windowAbsent d.wg [(j, 16)])
    if !d.started.elem bench || decide (mgetD d.rows bench 0 < thRows d.out + 20) then .next s
    else if away then .next (s.touchPrints d.wg [(d.joint.getD 0, 16)])
    else
      let j := (d.members.findIdx? (fun m => m == bench)).getD 0
      let s1 := s.setBench bench { s.bench bench with ring := (s.bench bench).ring ++ [d.banks.getD j 0] }
      let d1 := { d with ended := d.ended ++ [bench] }
      .next (if last then s1.endDrain d1 else s1.setDrain d1)

end Sys2Proof.Machine
end

