-- ==== Sys2Proof/Machine/Chains.lean ====
section
/-! DEFINITION. The chain unit: CHAIN, its record, and a chain operation's elements (R114 to R125). -/

namespace Sys2Proof.Machine

/-! ### The record (R116, R117) -/

/-- Operation slot j. -/
def recSlot (r : BitVec 512) (j : Nat) : Nat := (r.extractLsb' (64 + 24 * j) 24).toNat
/-- Constant Cj. -/
def recConst (r : BitVec 512) (j : Nat) : Nat := (r.extractLsb' (256 + 32 * j) 32).toNat
/-- Operations in use. -/
def recCount (r : BitVec 512) : Nat := (r.extractLsb' 0 4).toNat
/-- Input format. -/
def recIfmt (r : BitVec 512) : Nat := (r.extractLsb' 4 4).toNat
/-- OP, CA, CB, OFMT of a slot. -/
def slotOp (v : Nat) : Nat := bitsOf v 0 8
def slotCa (v : Nat) : Nat := bitsOf v 8 3
def slotCb (v : Nat) : Nat := bitsOf v 11 3
def slotOfmt (v : Nat) : Nat := bitsOf v 14 4

/-- A slot in use is well formed: its code, where a CVT may stand, unused fields 0 (R117); the value of OFMT is checked apart. -/
def slotOk (v : Nat) (last : Bool) : Bool :=
  let op := slotOp v
  decide (v < 2 ^ 18) &&
    (if op = 0x03 then slotOfmt v == 0
     else if op = 0x01 ∨ op = 0x02 ∨ op = 0x04 ∨ op = 0x05 then slotOfmt v == 0 && slotCb v == 0
     else if op = 0x06 ∨ op = 0x07 ∨ (0x10 ≤ op ∧ op ≤ 0x19) then slotOfmt v == 0 && slotCb v == 0 && slotCa v == 0
     else if op = 0x20 then last && slotCb v == 0 && slotCa v == 0
     else false)

/-- Check 5 of R119. -/
def recordOk (r : BitVec 512) : Bool :=
  let n := recCount r
  decide (1 ≤ n ∧ n ≤ 8) && (r.extractLsb' 8 56 == 0)
    && (List.range 8).all (fun j => if j < n then slotOk (recSlot r j) (j + 1 == n) else recSlot r j == 0)

/-- The output format: the CVT's, or FP32. -/
def recOfmt (r : BitVec 512) : Nat :=
  let v := recSlot r (recCount r - 1)
  if slotOp v = 0x20 then slotOfmt v else 0

/-- Bytes of an element. -/
def chainSize (fmt : Nat) : Nat := if fmt = 2 ∨ fmt = 3 ∨ fmt = 5 then 2 else if fmt = 4 then 1 else 4

/-! ### The list (R117, R118) -/

/-- The functions of codes 0x10 to 0x19. -/
def chainSfu (op : Nat) : Sfu :=
  if op = 0x10 then .ex2 else if op = 0x11 then .lg2 else if op = 0x12 then .rcp else if op = 0x13 then .rsq
  else if op = 0x14 then .sqrt else if op = 0x15 then .sinpi else if op = 0x16 then .cospi else if op = 0x17 then .tanh
  else if op = 0x18 then .sigm else .gelu

/-- A clamp to an integer format, as a pattern of n bits. -/
def chainInt (n : Nat) (v : Nat) : FRes :=
  let x := toInteger .rne (-(2 ^ (n - 1) : Int)) (2 ^ (n - 1) - 1 : Int) (fval fp32 v)
  ⟨(BitVec.ofInt n x.1).toNat, x.2⟩

/-- One step of the list. A CVT to FP32 makes a NaN canonical and raises NV for a signalling one, as R117 and R72 say of results, where R118
has FP32 output written as it stands: DESIGN CHOICE. -/
def chainStep (r : BitVec 512) (slot v : Nat) : FRes :=
  let op := slotOp slot
  let a := recConst r (slotCa slot)
  if op = 0x01 then opAdd fp32 .rne v a
  else if op = 0x02 then opMul fp32 .rne v a
  else if op = 0x03 then opFma fp32 false false .rne v a (recConst r (slotCb slot))
  else if op = 0x04 then opMax fp32 .rne v a
  else if op = 0x05 then opMin fp32 .rne v a
  else if op = 0x06 then opAbs fp32 .rne v
  else if op = 0x07 then opNeg fp32 .rne v
  else if op ≠ 0x20 then sfu (chainSfu op) false v
  else
    let f := slotOfmt slot
    if f = 2 then convert fp32 bf16 .rne v
    else if f = 3 then convert fp32 fp16 .rne v
    else if f = 4 then chainInt 8 v
    else if f = 5 then chainInt 16 v
    else if f = 9 then chainInt 32 v
    else convert fp32 fp32 .rne v

/-- The steps of slots from j on. -/
def chainList (r : BitVec 512) (left j v : Nat) (fl : FlagBits) : FRes :=
  match left with
  | 0 => ⟨v, fl⟩
  | n + 1 => let x := chainStep r (recSlot r j) v; chainList r n (j + 1) x.bits (fl ||| x.flags)

/-- An input element as FP32. -/
def chainInput (fmt v : Nat) : FRes :=
  if fmt = 2 then convert bf16 fp32 .rne v
  else if fmt = 3 then convert fp16 fp32 .rne v
  else if fmt = 4 then ofInteger fp32 .rne (BitVec.ofNat 8 v).toInt
  else if fmt = 5 then ofInteger fp32 .rne (BitVec.ofNat 16 v).toInt
  else ⟨v, 0⟩

/-- An element through the whole list: its output pattern and its flags. -/
def chainElement (r : BitVec 512) (v : Nat) : FRes :=
  let x := chainInput (recIfmt r) v
  chainList r (recCount r) 0 x.bits x.flags

/-! ### CHAIN (R114, R115, R119) -/

/-- The fault of check 7 for a stream. -/
def streamAligned (d : BitVec 256) (ind : Int) (size : Nat) : Bool :=
  decide (((dscField d 0 56 : Int) + ind) % size = 0 ∧ (dscSigned d 224) % size = 0)

/-- CHAIN (R114 to R119, R122, R125). ADDR of a poisoned record is its first poisoned byte: DEDUCED from R364's poisoned address.
DESIGN CHOICE (log entry 66): of two streams that fail check 7 the input stream is reported, and ADDR is a stream's first address also where
only its CL fails. -/
def execChain (b : BitVec 5) (di dout : BitVec 4) (s : State) : Out :=
  let sp := fun (k : Nat) => 0x50#7 + BitVec.ofNat 7 (b.toNat + k)
  atIssue s (fun i => { uni := if b.toNat ≤ 30 then [sp 0, sp 1] else [], block := some b.toNat, opOk := decide (b.toNat ≤ 30), nf := true,
                        legal := i.himm == [] }) (fun i =>
    let win := (i.uval s (sp 0)).toNat
    let count := (i.uval s (sp 1)).toNat
    let flat := scratchFlat i.w.wg win
    let r := BitVec.ofNat 512 (s.num flat 64)
    let d1 := i.w.dsc di.toNat
    let d2 := i.w.dsc dout.toNat
    let at' := fun (d : BitVec 256) => (BitVec.ofInt 64 ((dscField d 0 56 : Int) + i.dscInduction d))
    let bad := fun (cls : Nat) (a : Word) => Res.bad { cls := cls, addr := a, lanes := i.lanes }
    if 2 ^ 40 ≤ win ∨ 2 ^ 32 ≤ count then .bad { i.operand s with kind := 7, idx := b.toNat }
    else if win / 2 ^ 31 ≠ i.w.core ∨ !(match reachScratch s (i.who s 0) win 64 false with | .ok _ => true | .error _ => false) then
      bad 0x07 (BitVec.ofNat 64 win)
    else if win % 64 ≠ 0 then bad 0x03 (BitVec.ofNat 64 win)
    else if s.pageAbsent i.w.wg flat || s.conflict i.k [flat / 128] || i.orderWaits s then .await [flat]
    else if s.rangePoison flat 64 then
      bad 0x11 (BitVec.ofNat 64 (win + ((List.range 64).find? (fun j => s.isPoison (flat + j))).getD 0))
    else if !recordOk r then .bad { i.operand s with kind := 7, idx := b.toNat }
    else if !(decide (recIfmt r ≤ 5) && (decide (recOfmt r ≤ 5) || recOfmt r == 9)) then bad 0x0D 0
    else if count ≠ 0 ∧ !streamAligned d1 (i.dscInduction d1) (chainSize (recIfmt r)) then
      .bad { cls := 0x03, addr := at' d1, lanes := i.lanes, kind := 1, idx := di.toNat }
    else if count ≠ 0 ∧ !streamAligned d2 (i.dscInduction d2) (chainSize (recOfmt r)) then
      .bad { cls := 0x03, addr := at' d2, lanes := i.lanes, kind := 1, idx := dout.toNat }
    else if 8 ≤ (s.chains.filter (fun c => c.core == i.w.core)).length then .hold 9
    else
      let rel := s.releaseAction i.k i.w 2
      let num := ((s.wg i.w.wg).tl 2).issued + 1
      let s1 := rel.1.modWg i.w.wg (fun g => g.modTl 2 (fun x => { x with issued := x.issued + 1 }))
      let op : ChainOp :=
        { id := s1.serial, warp := i.k, wg := i.w.wg, index := i.w.index, core := i.w.core, pasid := (s.nodeOf i.w).region.pasid,
          record := r, count := count, di := d1, dout := d2, iBase := i.dscInduction d1, oBase := i.dscInduction d2,
          iOn := !i.w.stageOff d1, oOn := !i.w.stageOff d2, iNum := di.toNat, oNum := dout.toNat, noflag := i.noflag, tlnum := num,
          opc := i.pc, rpc := i.run, thread := i.lead.tid, lim := i.w.privlim.toNat, after := rel.2 }
      i.goOn { s1 with chains := s1.chains ++ [op], serial := s1.serial + 1 } (fun w => w))

/-! ### The stream (R120 to R124) -/

/-- The address of element e of a stream, and whether it is dismissed (R27, R120). -/
def streamAt (d : BitVec 256) (ind : Int) (on : Bool) (size e : Nat) : Word × Bool :=
  let off := ind + dscSigned d 224 * (e : Int)
  (BitVec.ofInt 64 ((dscField d 0 56 : Int) + off), !on || decide (off < 0) || decide ((dscField d 64 32 : Int) < off + size))

/-- What an element's access reaches (R124, R344). -/
def State.chainReach (s : State) (c : ChainOp) (a : Word) (n : Nat) (k : AccKind) : Except Denied Reach :=
  let nd := s.node (s.wg c.wg).node
  reachLane s (s.engineWho c.core c.wg 0) (s.wg c.wg).privBase nd.kernel.priv c.lim c.thread a n k

/-- The coherence point of a chain operation: that of workgroup scope (R122, R185). -/
def State.chainPoint (s : State) (c : ChainOp) : Nat := if (s.wg c.wg).cores.length ≤ 1 then 0 else 1

/-- The class of a stream's fault: a copy fault, or metering isolation (R124, R344). -/
def streamClass (d : Denied) : Nat := if d.rank = 60 then 0x10 else 0x0F

/-- How an element's access stands. -/
inductive ChainAccess where
  /-- class and address of its fault -/
  | fault (cls : Nat) (a : Word)
  /-- it has to wait, in this state -/
  | wait (s : State)
  /-- it can be made, in this state: what it reaches, and the point at which -/
  | go (s : State) (r : Reach) (point : Nat)

/-- An access of an element of n bytes at an address: it waits for a page that migrates (R218) or is not back (R173), and for the lock of a
line that it may have to read at home (R215); dirty bytes inside its point go there first (R122, R212). -/
def State.chainAccess (s : State) (c : ChainOp) (a : Word) (n : Nat) (write : Bool) : ChainAccess :=
  match s.chainReach c a n (if write then .store else .load) with
  | .error d => .fault (streamClass d) a
  | .ok r =>
    let p := pagePoint (s.chainPoint c) r.vias
    let lines := (linesOf r.flats).filter (fun l => isCached (l * 128))
    if r.flats.any (s.pageAbsent c.wg) || lines.any s.locked then .wait (s.touchPages c.wg r.flats)
    else
      match s.engineWaits c.id c.core c.pasid write r.vias with
      | some t => .wait t
      | none =>
        let t := lines.foldl (fun s l => s.bringTo c.core p l) s
        if p = 2 ∧ lines.any (s.mustPush c.core p) then .wait t
        else .go (t.claimed c.core (s.node (s.wg c.wg).node).region.rcb lines) r p

/-- How far an element comes. -/
structure ChainOut where
  state : State
  /-- its conditions -/
  flags : BitVec 6 := 0
  fault : Option (Nat × Word) := none
  waits : Bool := false

/-- Element e. One whose output is dismissed is not computed; one whose output access faults counts as not computed either, and raises
nothing: DESIGN CHOICE (R121). -/
def State.chainOne (s : State) (c : ChainOp) (e : Nat) : ChainOut :=
  let isz := chainSize (recIfmt c.record)
  let osz := chainSize (recOfmt c.record)
  let o := streamAt c.dout c.oBase c.oOn osz e
  let x := streamAt c.di c.iBase c.iOn isz e
  let who := s.engineWho c.core c.wg 0
  let finish := fun (s : State) (y : FRes) =>
    match s.chainAccess c o.1 osz true with
    | .fault cls a => ({ state := s, fault := some (cls, a) } : ChainOut)
    | .wait t => { state := t, waits := true }
    | .go t r p =>
      let ps := (r.flats.zip (bytesLE osz y.bits)).filter (fun q => !t.lostAt q.1)
      let t2 := (((t.engineMade c.id).touchAll who true r.vias).writeBytes c.core p ps).used c.core (t.engineUsers who r.vias)
        (linesOf (r.flats.filter isCached))
      { state := if ps = [] then t2.log o.1.toNat else t2, flags := y.flags }
  if o.2 then { state := s }
  else if x.2 then finish s (chainList c.record (recCount c.record) 0 0 0)
  else
    match s.chainAccess c x.1 isz false with
    | .fault cls a => { state := s, fault := some (cls, a) }
    | .wait t => { state := t, waits := true }
    | .go t r p =>
      let u := t.touchAll who false r.vias
      if r.flats.any (u.poisonAt c.core p) then { state := u, fault := some (0x0F, x.1) }
      else
        let v := natLE (r.flats.map (u.view c.core p))
        let out := finish (((countReads u [(0, r)]).engineMade c.id).used c.core (t.engineUsers who r.vias)
          (linesOf (r.flats.filter isCached))) (chainElement c.record v)
        -- an element that waits at its output reads its input again
        if out.waits then { out with state := match s.chainAccess c o.1 osz true with | .wait u => u | _ => s } else out

/-- Elements from the operation's next one on, until one faults or waits; where input and output streams overlap, an element reads what
those before it have written: DESIGN CHOICE, of the two values that R123 allows. -/
def State.chainRun (s : State) (c : ChainOp) (left : Nat) : ChainOut × ChainOp :=
  match left with
  | 0 => ({ state := s }, c)
  | n + 1 =>
    let r := s.chainOne c c.next
    if r.waits ∨ r.fault.isSome then (r, c)
    else r.state.chainRun { c with next := c.next + 1, raised := c.raised ||| r.flags } n

/-- CHAIN_COMPLETE (R120 to R125): the oldest operation of a core's chain unit goes on, by a step of at most 32 elements, and ends after its
last element or with a fault; nothing where it has to wait. DESIGN CHOICE (log entry 66): its flags, which R84 lets show at any time before
its completion is counted, show with that. -/
def execChainComplete (core : Nat) (s : State) : Out :=
  match s.chains.find? (fun c => c.core == core) with
  | none => .next s
  | some c =>
    if c.count != 0 && !(c.after.all (fun i => !s.ops.any (fun o => o.id == i))) then .next s
    else
      let r := s.chainRun c (Nat.min 32 (c.count - c.next))
      if r.1.fault.isNone && decide (r.2.next < c.count) then
        .next { r.1.state with chains := r.1.state.chains.map (fun x => if x.id == c.id then r.2 else x) }
      else
        let s1 := ({ r.1.state with chains := r.1.state.chains.filter (fun x => x.id != c.id) } : State).engineMade c.id
        let s2 := if c.noflag then s1 else s1.raiseOn c.wg c.index r.2.raised []
        let s3 := match r.1.fault with
          | none => s2
          | some (cls, a) => s2.engineFault c.wg { cls := cls, addr := a, tl := some (2, c.tlnum), opc := c.opc, rpc := c.rpc }
        .next ((s3.completeTl c.wg 2 c.tlnum r.1.fault.isSome).release c.wg)

end Sys2Proof.Machine
end

