-- ==== Sys2Proof/Machine/Collective.lean ====
section
/-! DEFINITION. Collectives, rearrangement and REGROUP (R259 to R266). -/

namespace Sys2Proof.Machine

/-! ### Collectives (R262, R263) -/

/-- A collective over group register k: a result for each lane of the rendezvous set, from the values of the set; g is the size of a
sub-group. -/
def collective (d : BitVec 6) (srcs : List (BitVec 7)) (k : BitVec 2) (f : State → Iss → Nat → Nat → Word) (s : State) : Out :=
  atRendezvous s k.toNat (fun _ => { srcs := srcs, dst := [d] }) (fun s i =>
    i.next s (i.w.modLanes i.lanes (fun l x => i.w.result d (clean (f s i (i.w.groupSize k.toNat) l)) x)))

/-- VALL (R262). -/
def execVall (d : BitVec 6) (a : BitVec 7) (k : BitVec 2) (s : State) : Out :=
  collective d [a] k (fun s i _ _ => flagWord (i.lanes.all (fun m => i.val s m a != 0))) s
/-- VANY (R262). -/
def execVany (d : BitVec 6) (a : BitVec 7) (k : BitVec 2) (s : State) : Out :=
  collective d [a] k (fun s i _ _ => flagWord (i.lanes.any (fun m => i.val s m a != 0))) s
/-- VBAL (R262): bit m is virtual lane m. -/
def execVbal (d : BitVec 6) (a : BitVec 7) (k : BitVec 2) (s : State) : Out :=
  collective d [a] k (fun s i _ _ => (maskOf (i.lanes.filter (fun m => i.val s m a != 0))).setWidth 64) s
/-- The lane a SHFL or PUSH operand names in the sub-group of lane l. -/
def peerLane (g l : Nat) (v : Word) : Nat := l / g * g + v.toNat % 32 % g
/-- SHFL (R262): 0 where the named lane is not in the set. -/
def execShfl (d : BitVec 6) (a b : BitVec 7) (k : BitVec 2) (s : State) : Out :=
  collective d [a, b] k (fun s i g l =>
    let m := peerLane g l (i.val s l b)
    if i.lanes.elem m then i.val s m a else 0) s
/-- PUSH (R262): the highest lane that names this one; 0 if none. -/
def execPush (d : BitVec 6) (a b : BitVec 7) (k : BitVec 2) (s : State) : Out :=
  collective d [a, b] k (fun s i g l =>
    match (i.lanes.filter (fun m => peerLane g m (i.val s m b) == l)).getLast? with
    | none => 0
    | some m => i.val s m a) s
/-- CSUM (R262). -/
def execCsum (d : BitVec 6) (a : BitVec 7) (k : BitVec 2) (s : State) : Out :=
  collective d [a] k (fun s i _ _ => i.lanes.foldl (fun t m => t + i.val s m a) 0) s
/-- CMAX (R262). -/
def execCmax (d : BitVec 6) (a : BitVec 7) (k : BitVec 2) (s : State) : Out :=
  collective d [a] k (fun s i _ _ =>
    match i.lanes with
    | [] => 0
    | m :: r => r.foldl (fun t n => fnMax t (i.val s n a)) (i.val s m a)) s
/-- CSCAN (R262). -/
def execCscan (d : BitVec 6) (a : BitVec 7) (k : BitVec 2) (s : State) : Out :=
  collective d [a] k (fun s i _ l => (i.lanes.filter (fun m => decide (m ≤ l))).foldl (fun t m => t + i.val s m a) 0) s

/-- tree_sum over 2^j positions from base (R263): the value, if any position is present, and the flags of the additions. -/
def treeSum (v : Nat → Option Nat) (j base : Nat) : Option Nat × FlagBits :=
  match j with
  | 0 => (v base, 0)
  | n + 1 =>
    let x := treeSum v n base
    let y := treeSum v n (base + 2 ^ n)
    match x.1, y.1 with
    | some p, some q =>
      let r := opAdd fp32 .rne p q
      (some r.bits, x.2 ||| y.2 ||| r.flags)
    | some p, none => (some p, x.2 ||| y.2)
    | none, q => (q, x.2 ||| y.2)

/-- CFSUM (R262, R263). -/
def execCfsum (d : BitVec 6) (a : BitVec 7) (k : BitVec 2) (s : State) : Out :=
  atRendezvous s k.toNat (fun _ => { srcs := [a], dst := [d], nf := true }) (fun s i =>
    let g := i.w.groupSize k.toNat
    let r := treeSum (fun m => if i.lanes.elem m then some (i.low s m 32 a) else none) (Nat.log2 g) (i.lanes.headD 0 / g * g)
    let one := lone (r.1.getD 0) i.lanes
    i.next s ((i.w.modLanes i.lanes (fun _ x => i.w.result d (clean (BitVec.ofNat 64 one.bits)) x)).raise
      (if i.noflag then 0 else r.2 ||| one.flags) []))
where
  /-- DEDUCED (log entry 65): the half that is left unchanged where only one lane is present (R263) is, for a NaN, the canonical one, and a signalling
  NaN sets NV (R71, R72). -/
  lone (v : Nat) (ls : List Nat) : FRes :=
    match ls, fval fp32 v with
    | [_], .nan q => ⟨fp32.nan, flagIf q flagNV⟩
    | _, _ => ⟨v, 0⟩

/-! ### Rearrangement (R264) -/

/-- A REARR function over k0: a of a lane (0 where it is not in the set), b of the lane itself, the mask under LIVEMASK, and s(M). -/
def rearrange (d : BitVec 6) (a b : BitVec 7) (m : BitVec 4) (slide : Bool)
    (f : (Nat → Word) → Mask → Nat → Nat → Option Word) (s : State) : Out :=
  let um : BitVec 7 := 0x50#7 + m.setWidth 7
  atRendezvous s 0 (fun i => { srcs := [a, b], uni := [um], dst := [d], legal := i.himm == [] }) (fun s i =>
    let v := i.uval s um
    let n := v.toNat % 64
    if slide ∧ (64 ≤ v.toNat ∨ 32 < n) then .bad (i.operand s)
    else
      let mask := v.setWidth 32 &&& i.w.liveMask
      let src := fun j => if i.lanes.elem j then i.val s j a else 0
      i.next s (i.w.modLanes i.lanes (fun l x => i.w.result d (clean ((f src mask n l).getD (i.val s l b))) x)))

/-- COMPRESS (R264). -/
def execCompress (d : BitVec 6) (a b : BitVec 7) (m : BitVec 4) (s : State) : Out :=
  rearrange d a b m false (fun src mask _ v => (lanesOf mask)[v]?.map src) s
/-- EXPAND (R264). -/
def execExpand (d : BitVec 6) (a b : BitVec 7) (m : BitVec 4) (s : State) : Out :=
  rearrange d a b m false (fun src mask _ v =>
    if mask.getLsbD v then some (src ((lanesOf mask).filter (fun j => decide (j < v))).length) else none) s
/-- SLIDEUP (R264). -/
def execSlideup (d : BitVec 6) (a b : BitVec 7) (m : BitVec 4) (s : State) : Out :=
  rearrange d a b m true (fun src _ n v => if n ≤ v then some (src (v - n)) else none) s
/-- SLIDEDN (R264). -/
def execSlidedn (d : BitVec 6) (a b : BitVec 7) (m : BitVec 4) (s : State) : Out :=
  rearrange d a b m true (fun src _ n v => if v + n ≤ 31 then some (src (v + n)) else none) s

/-! ### REGROUP (R265, R266) -/

/-- A thread in a pool: its lane and the %warp it comes from. -/
structure Pooled where
  from'  : Nat
  lane   : Lane
  target : Word
deriving DecidableEq, Repr

/-- The target of a lane in a pool. -/
def Lane.poolTarget (x : Lane) : Word :=
  match x.park with
  | .pool t => t
  | _ => 0

/-- Groups of up to 32. -/
def cut32 {α : Type} (fuel : Nat) (l : List α) : List (List α) :=
  match fuel, l with
  | 0, _ => []
  | _, [] => []
  | f + 1, l => l.take 32 :: cut32 f (l.drop 32)

/-- Steps 1 and 2 of R266: whole warps of each target, then the remainders joined. -/
def binThreads (ps : List Pooled) : List (List Pooled) :=
  let sorted := sortBy (fun p => p.target.toNat * 2 ^ 32 + p.lane.tid) ps
  let targets := (sorted.map (fun p => p.target)).eraseDups
  let bins := targets.map (fun t => cut32 (ps.length + 1) (sorted.filter (fun p => p.target == t)))
  bins.flatMap (fun b => b.filter (fun g => g.length == 32))
    ++ cut32 (ps.length + 1) (bins.flatMap (fun b => (b.filter (fun g => g.length != 32)).flatten))

/-- A fresh warp of R266 in the slot of a contributor, with the per-warp state that R24 copies. -/
def freshWarp (c : Code) (slot copied : Warp) (g : List Pooled) : Warp :=
  let w : Warp :=
    { wg := slot.wg, core := slot.core, slot := slot.slot, index := slot.index, levels := noLevels,
      s := copied.s, t := copied.t, d := copied.d, flags := copied.flags, amax := copied.amax, amaxnan := copied.amaxnan,
      ackseq := copied.ackseq, msgdst := copied.msgdst, privlim := copied.privlim }
  let ts := sortBy (fun p => p.lane.tid) g
  { w with lanes := (List.range 32).map (fun v =>
      match ts[v]? with
      | none => {}
      | some p =>
        w.placeLane c.jig c.base v p.target false
          { p.lane with park := .no, hint := none, age := 0, yield := 0, blocked := 0 }) }

/-- A pool closes: fresh warps form, and take the lowest %warp places; contributors left over end (R266). -/
def State.formPool (s : State) (g : Nat) (p : Pool) : State :=
  let ws := sortBy (fun w => w.index) (p.warps.filterMap s.warp)
  match ws with
  | [] => s.modWg g (fun x => { x with pools := x.pools.filter (fun q => q.core != p.core) })
  | w0 :: _ =>
    let ps := ws.flatMap (fun w => w.live.map (fun l => { from' := w.index, lane := w.lane l, target := (w.lane l).poolTarget }))
    let groups := binThreads ps
    let fresh := (ws.zip groups).map (fun e =>
      let low := (leastBy (fun q => q.from') e.2).map (fun q => q.from')
      freshWarp (s.code w0) e.1 ((ws.find? (fun w => some w.index == low)).getD e.1) e.2)
    let s1 := { s with warps := s.warps.filter (fun e => !(p.warps.elem e.1)) }
    let s2 := fresh.foldl (fun s w => { s with warps := mset s.warps s.serial w, serial := s.serial + 1 }) s1
    s2.modWg g (fun x => { x with pools := x.pools.filter (fun q => q.core != p.core) })

/-- Every warp of the workgroup on the core that has a live lane has entered the pool. -/
def State.poolFull (s : State) (g : Nat) (p : Pool) : Bool :=
  s.warps.all (fun e => !(e.2.wg == g && e.2.core == p.core && !e.2.ended && e.2.live != []) || p.warps.elem e.1)

/-- Closes a pool where it may close: full, or 256 cycles old. -/
def State.tryPool (s : State) (g core : Nat) : State :=
  match (s.wg g).pools.find? (fun q => q.core == core) with
  | none => s
  | some p => if s.poolFull g p ∨ p.opened + 256 ≤ s.cycle then s.formPool g p else s

/-- REGROUP (R265). -/
def execRegroup (a : BitVec 7) (s : State) : Out :=
  atRendezvous s 0 (fun _ => { srcs := [a] }) (fun s i =>
    let d := i.w.depth
    if i.w.claim.count ≠ 0 then .bad { cls := 0x12, lanes := i.lanes, kind := 3 }
    else if d ≠ 0 then .bad { cls := 0x12, lanes := i.lanes, kind := 4, idx := d - 1 }
    else if i.w.handler then .bad { cls := 0x12, lanes := i.lanes }
    else
      let t := fun l => i.val s l a
      match transferCheck s i t true false with
      | some f => .bad f
      | none =>
        if s.ops.any (fun o => o.warp == i.k) then .hold 2
        else
          let w := i.w.modLanes i.lanes (fun l x => { x with park := .pool (t l), hint := none, age := 0, blocked := 0 })
          let s1 := (touchTargets s i t).setWarp i.k w
          let s2 := s1.modWg w.wg (fun x =>
            match x.pools.find? (fun q => q.core == w.core) with
            | none => { x with pools := x.pools ++ [{ core := w.core, opened := s.cycle, warps := [i.k] }] }
            | some _ => { x with pools := x.pools.map (fun q => if q.core == w.core then { q with warps := q.warps ++ [i.k] } else q) })
          .done (s2.tryPool w.wg w.core))

/-- REGROUP_POOL_TIMEOUT (R265): the pool of a workgroup on a core closes, when 256 cycles have passed or no warp is missing;
nothing otherwise. -/
def execRegroupPoolTimeout (wg core : Nat) (s : State) : Out := .next (s.tryPool wg core)

end Sys2Proof.Machine
end

