-- ==== Sys2Proof/Machine/Csr.lean ====
section
/-! DEFINITION. Control and status registers, and messages (R31, R32, R84, R200, R238, R239). -/

namespace Sys2Proof.Machine

/-- What R31 lets an instruction do with a CSR number: read it, write it, and set bits of it; all false where the number is unassigned
or the mode forbids it. -/
structure CsrAccess where
  read  : Bool
  write : Bool := false
  set   : Bool := false
deriving DecidableEq, Repr

/-- The CSR map (R31); handler says that FMODE is 1. -/
def csrAccess (n : Nat) (handler : Bool) : CsrAccess :=
  if n = 0x000 ∨ n = 0x002 ∨ n = 0x003 ∨ n = 0x030 then { read := true, write := true, set := true }
  else if n = 0x010 ∨ (0x040 ≤ n ∧ n ≤ 0x05F) ∨ n = 0x060 then { read := true, write := handler }
  else if n = 0x031 then { read := false, write := true }
  else if n = 0x011 ∨ n = 0x012 ∨ n = 0x020 ∨ n = 0x032 ∨ n = 0x070 ∨ (0x100 ≤ n ∧ n ≤ 0x10F) ∨ (0x140 ≤ n ∧ n ≤ 0x143) ∨ n = 0x300
  then { read := true }
  else if 0x200 ≤ n ∧ n ≤ 0x20F then { read := handler }
  else { read := false }

/-- A field of a loop level as a doubleword (R268); an inactive level reads 0. index is the induction value. START and END are original
PCs (R297). -/
def levelField (v : Level) (f index : Nat) : Word :=
  if !v.active then 0
  else if f = 0 then v.count.setWidth 64
  else if f = 1 then BitVec.ofNat 64 index
  else if f = 2 then v.ostart.setWidth 64
  else if f = 3 then v.olast.setWidth 64
  else if f = 4 then BitVec.ofNat 64 (128 + (if v.un then 16 else 0) + (if v.rt then 8 else 0) + v.st.toNat)
  else if f = 5 then v.sm.setWidth 64
  else if f = 6 then v.rrb.setWidth 64
  else v.back ++ v.exit

/-- A handler's write of a loop-level field (R268, R298); none where it sets a reserved bit, or COUNT or INDEX of a wrapper. -/
def setLevelField (v : Level) (f : Nat) (x : Word) : Option Level :=
  let n := x.toNat
  if f ≤ 1 ∧ v.copies ≠ 0 then none
  else if f = 0 then (if n < 2 ^ 32 then some { v with count := x.setWidth 32 } else none)
  else if f = 1 then (if n < 2 ^ 33 then some { v with index := x.setWidth 33 } else none)
  else if f = 2 then (if n < 2 ^ 56 then some { v with ostart := x.setWidth 56 } else none)
  else if f = 3 then (if n < 2 ^ 56 then some { v with olast := x.setWidth 56 } else none)
  else if f = 4 then
    (if n < 256 ∧ bitsOf n 5 2 = 0 then
      some { v with active := x.getLsbD 7, un := x.getLsbD 4, rt := x.getLsbD 3, st := x.setWidth 3 } else none)
  else if f = 5 then (if n < 256 then some { v with sm := x.setWidth 8 } else none)
  else if f = 6 then (if n < 16 then some { v with rrb := x.setWidth 4 } else none)
  else some { v with back := x.extractLsb' 32 32, exit := x.setWidth 32 }

/-- The bank claim as CLAIM shows it (R156). -/
def Claim.word (c : Claim) : Word :=
  if c.count = 0 then 0
  else BitVec.ofNat 64 (c.count % 16 + c.gang % 8 * 2 ^ 8 + c.bench % 256 * 2 ^ 16 + c.gone.toNat * 2 ^ 24)

/-- What CSRR reads in lane l (R31, R200). -/
def Iss.readCsr (i : Iss) (s : State) (n l : Nat) : Word :=
  let w := i.w
  if n = 0x000 then w.flags.setWidth 64
  else if n = 0x002 then w.amax.setWidth 64
  else if n = 0x003 then (if w.amaxnan then 1 else 0)
  else if n = 0x010 then
    (if w.handler then (match w.frame.bind (fun (f : Frame) => mget f.lanes l) with | none => 0 | some e => e.pc) else (w.lane l).pc)
  else if n = 0x011 then BitVec.ofNat 64 ((w.lane l).tid % 2 ^ 14 + l * 2 ^ 14)
  else if n = 0x012 then w.liveMask.setWidth 64
  else if n = 0x020 then w.ackseq.setWidth 64
  else if n = 0x030 then w.msgdst
  else if 0x040 ≤ n ∧ n ≤ 0x05F then
    let k := (n - 0x40) / 8
    let f := (n - 0x40) % 8
    (if w.handler then
      (match w.frame with
       | none => 0
       | some fr => let v := fr.levels.getD k {}; levelField v f v.index.toNat)
     else levelField (w.level k) f (i.ik k))
  else if n = 0x060 then w.privlim
  else if n = 0x070 then w.claim.word
  else if n = 0x100 then
    mgetD s.coreStall (w.core * 16) 0 + (BitVec.ofNat 64 s.cycle - mgetD s.coreStall (w.core * 16 + 8) 0)
  else if 0x101 ≤ n ∧ n ≤ 0x107 then mgetD s.coreStall (w.core * 16 + (n - 0x100)) 0
  else if 0x108 ≤ n ∧ n ≤ 0x10F then mgetD w.stall (n - 0x108) 0
  else if 0x140 ≤ n ∧ n ≤ 0x143 then mgetD (s.bench (w.core / 4)).count (n - 0x140) 0
  else if 0x200 ≤ n ∧ n ≤ 0x207 then w.record.extractLsb' (64 * (n - 0x200)) 64
  else if 0x208 ≤ n ∧ n ≤ 0x20F then w.prior.extractLsb' (64 * (n - 0x208)) 64
  else if n = 0x300 then (if w.handler then 1 else 0)
  else 0

/-- A level's field takes a value (R268, R298): START and END of a level whose LOOP issued in residual code move there too (R297). -/
def State.writeLevel (s : State) (w : Warp) (lv : Level) (f : Nat) (v : Word) : Option Level :=
  let at' := fun (cur : BitVec 56) => (fromOrig (s.jigOf w) (s.nodeOf w).kernel.codeVa (cur.setWidth 64) v).setWidth 56
  setLevelField (if !lv.res then lv else if f = 2 then { lv with start := at' lv.start }
    else if f = 3 then { lv with last := at' lv.last } else lv) f v

/-- A write of a per-warp CSR (R31, R32, R174); none is an illegal operand, and the CSR stays. -/
def State.writeCsr (s : State) (w : Warp) (ps n : Nat) (v : Word) : Option Warp :=
  if n = 0x000 then (if v.toNat < 64 then some { w with flags := v.setWidth 6 } else none)
  else if n = 0x002 then (if v.toNat < 2 ^ 32 then some { w with amax := v.setWidth 32 } else none)
  else if n = 0x003 then (if v.toNat < 2 then some { w with amaxnan := v == 1 } else none)
  else if n = 0x030 then (if v.toNat < 512 then some { w with msgdst := v } else none)
  else if n = 0x060 then (if v.toNat % 4 = 0 ∧ v.toNat ≤ ps then some { w with privlim := v } else none)
  else if 0x040 ≤ n ∧ n ≤ 0x05F then
    match w.frame with
    | none => none
    | some fr =>
      (s.writeLevel w (fr.levels.getD ((n - 0x40) / 8) {}) (n % 8) v).map (fun lv =>
        { w with frame := some { fr with levels := setAt fr.levels ((n - 0x40) / 8) (fun _ => lv) } })
  else some w

/-! ### Messages (R238, R239) -/

/-- Messages of a core's FIFO. -/
def State.inFifo (s : State) (core : Nat) : Nat := (s.fifo.filter (fun m => m.dst == core)).length

/-- The slice two messages travel through is one: of one pair of cores always; which pairs share a slice is the device's. -/
def Message.sameSlice (m n : Message) : Bool := m.dst == n.dst && (m.src == n.src || Config.messageSlice m.src m.dst == Config.messageSlice n.src n.dst)

/-- A region's workgroups on a core are all saved: its messages wait in the slice (R240). -/
def State.awayFrom (s : State) (core rcb : Nat) : Bool :=
  let on := s.wgs.filter (fun e => (s.node e.2.node).region.rcb == rcb && (mget e.2.cores core).isSome)
  on != [] && on.all (fun e => e.2.status == .saved)

/-- The oldest message of some in the slices enters the FIFO of its core, when that has room. -/
def State.arriving (s : State) (core : Nat) (which : Message → Bool) : Option State :=
  match s.transit.find? (fun m => m.dst == core && which m && !s.awayFrom core m.region) with
  | none => none
  | some m => if 64 ≤ s.inFifo core then none else some { s with transit := s.transit.erase m, fifo := s.fifo ++ [m] }

/-- Sends messages one after another; a full slice makes room while the FIFO has any; none while both are full (R238). -/
def State.sendAll (s : State) (ms : List Message) : Option State :=
  match ms with
  | [] => some s
  | m :: r =>
    let put := fun (t : State) => ({ t with transit := t.transit ++ [m] } : State).sendAll r
    if (s.transit.filter m.sameSlice).length < 64 then put s else (s.arriving m.dst m.sameSlice).bind put

/-- A send of MSGS: one message from each lane, in ascending lane order, to the core MSGDST names. It must hold a resident workgroup of
the region; without room in the slice and the FIFO the lanes hold. -/
def sendMessages (a : BitVec 7) (s : State) : Out :=
  atIssue s (fun _ => { srcs := [a] }) (fun i =>
    let dst := i.w.msgdst.toNat
    let rcb := (s.nodeOf i.w).region.rcb
    if !(s.wgs.any (fun e => e.2.status != .ended && e.2.status != .saved && (s.node e.2.node).region.rcb == rcb
        && (mget e.2.cores dst).isSome)) then
      .bad { cls := 0x05, lanes := i.lanes }
    else
      match s.sendAll (i.lanes.map (fun l => ({ dst := dst, src := i.w.core, region := rcb, value := i.val s l a } : Message))) with
      | none => .hold 6
      | some t => i.next t i.w)

/-- A read of MSGR: the lanes park until enough messages of their region are there. -/
def awaitMessages (d : BitVec 6) (s : State) : Out :=
  atIssue s (fun _ => { dst := [d] }) (fun i =>
    .done ({ s with serial := s.serial + 1 }.setWarp i.k (i.parkLanes i.w (fun _ => .message d.toNat s.serial))))

/-- MSGS, a CSRW of 0x031 (R200, R238). -/
def execMsgs (a : BitVec 7) (s : State) : Out := sendMessages a s
/-- MSGR, a CSRR of 0x032 (R200, R239). -/
def execMsgr (d : BitVec 6) (s : State) : Out := awaitMessages d s

/-- MESSAGE_ARRIVAL (R238, R240): the oldest message in the slices for a core enters its FIFO, when that has room; nothing otherwise. -/
def execMessageArrival (core : Nat) (s : State) : Out :=
  .next ((s.arriving core (fun _ => true)).getD s)

/-- A group of lanes that wait at one read of MSGR: order, warp, lanes, destination. -/
def State.readers (s : State) (core : Nat) : List (Nat × Nat × List Nat × Nat) :=
  let all := s.warps.flatMap (fun e => if e.2.core != core || e.2.ended then [] else
    (List.range 32).filterMap (fun l => match (e.2.lane l).park with
      | .message d o => if (e.2.lane l).live then some (o, e.1, l, d) else none
      | _ => none))
  sortBy (fun r => r.1) ((all.map (fun r => r.1)).eraseDups.filterMap (fun o =>
    match all.filter (fun r => r.1 == o) with
    | [] => none
    | r :: rs => some (o, r.2.1, (r :: rs).map (fun x => x.2.2.1), r.2.2.2)))

/-- The readers of a region come in the order of their issue: the first one of each region that has its messages. -/
def State.nextReader (s : State) (core : Nat) : Option (Nat × List Nat × Nat × List Message) :=
  let rs := (s.readers core).map (fun r => (r, (s.nodeOf ((s.warp r.2.1).getD {})).region.rcb))
  (rs.filter (fun r => rs.all (fun q => q.2 != r.2 || decide (r.1.1 ≤ q.1.1)))).findSome? (fun r =>
    let ms := s.fifo.filter (fun m => m.dst == core && m.region == r.2)
    if r.1.2.2.1.length ≤ ms.length && (s.wg ((s.warp r.1.2.1).getD {}).wg).status != .saved
    then some (r.1.2.1, r.1.2.2.1, r.1.2.2.2, ms.take r.1.2.2.1.length) else none)

/-- MSGR_DELIVERY (R239): the oldest messages go to the lanes of the first reader, in ascending lane order; nothing where none can be
served. -/
def execMsgrDelivery (core : Nat) (s : State) : Out :=
  match s.nextReader core with
  | none => .next s
  | some (k, ls, d, ms) =>
    match s.warp k with
    | none => .next s
    | some w =>
      let w1 := (ls.zip ms).foldl (fun w e =>
        w.modLane e.1 (fun x => w.result (BitVec.ofNat 6 d) { bits := e.2.value, poison := e.2.poison } x)) w
      .next (({ s with fifo := ms.foldl (fun f m => f.erase m) s.fifo }.setWarp k
        (w1.moveLanes (s.code w1) ls (fun _ => .fall))).settle k)

/-! ### CSRR, CSRW, CSRS (R200) -/

/-- CSRR (R200). -/
def execCsrr (d : BitVec 6) (n : BitVec 11) (s : State) : Out :=
  if n = 0x032 then awaitMessages d s
  else
    laneResult s d (fun i => { dst := [d], legal := (csrAccess n.toNat i.w.handler).read }) (fun i l => i.readCsr s n.toNat l)

/-- CSRW (R200): PCV takes each lane's own value, any other CSR a uniform one. -/
def execCsrw (a : BitVec 7) (n : BitVec 11) (s : State) : Out :=
  if n = 0x031 then sendMessages a s
  else if n = 0x010 then
    atIssue s (fun i => { srcs := [a], legal := i.w.handler }) (fun i =>
      i.next s { i.w with frame := i.w.frame.map (fun (f : Frame) =>
        { f with lanes := f.lanes.map (fun e =>
          if i.lanes.elem e.1 then (e.1, { e.2 with pc := i.val s e.1 a }) else e) }) })
  else
    atIssue s (fun i => { uni := [a], legal := (csrAccess n.toNat i.w.handler).write }) (fun i =>
      match s.writeCsr i.w (s.nodeOf i.w).kernel.priv n.toNat (i.uval s a) with
      | none => .bad (i.operand s)
      | some w => i.next s w)

/-- CSRS (R200): sets bits, and pushes the old value. -/
def execCsrs (d : BitVec 6) (a : BitVec 7) (n : BitVec 11) (s : State) : Out :=
  atIssue s (fun i => { uni := [a], dst := [d], legal := (csrAccess n.toNat i.w.handler).set }) (fun i =>
    let old := i.readCsr s n.toNat (i.lanes.headD 0)
    match s.writeCsr i.w (s.nodeOf i.w).kernel.priv n.toNat (old ||| i.uval s a) with
    | none => .bad (i.operand s)
    | some w => i.next s (w.modLanes i.lanes (fun _ x => w.result d (clean old) x)))

end Sys2Proof.Machine
end

