-- ==== Sys2Proof/Machine/Faults.lean ====
section
/-! DEFINITION. SYS instructions, the delivery of faults held during a halt, and debug halts (R368 to R378). -/

namespace Sys2Proof.Machine

/-- Debug halts are enabled for a PASID: one of DBGEN0 to 3 names it (R375, R391). -/
def State.debugOn (s : State) (pasid : Nat) : Bool :=
  (List.range 4).any (fun k => let v := s.reg (0x2300 + 8 * k); v.getLsbD 63 && decide (v.toNat % 2 ^ 20 = pasid))

/-- A lane past a TRAP, at the word after it in the original code (R374). In residual code it goes on at the next residual word where that
one comes later in the original code too; between them stand only words that the Jig has removed. At END of a copy of an unrolled body the
next residual word is START again, and the lane leaves the copies instead (R286, R297). -/
def Warp.pastTrap (w : Warp) (c : Code) (l : Nat) (x : Lane) : Lane :=
  let y := w.runTo c.jig c.base l (x.runPc + 4) x
  if y.rpc.isSome && decide (x.pc.toNat < y.pc.toNat) then { y with pc := x.pc + 4 } else w.placeLane c.jig c.base l (x.pc + 4) x.rpc.isNone x

/-- TRAP (R374): the software trap; the lanes resume at the word after it, and the record names the TRAP itself. At END the back edge stays
untaken, as for every fault there (R284). -/
def execTrap (c : BitVec 24) (s : State) : Out :=
  atIssue s (fun _ => { sys := true }) (fun i =>
    .done ((s.setWarp i.k (i.posted (i.w.modLanes i.lanes (fun l x =>
        { i.w.pastTrap i.code l x with hint := none, age := 0, park := .no, blocked := 0 })))).takeFault
      i.k { cls := 0x14, addr := c.setWidth 64, lanes := i.lanes } i.pc i.run))

/-- BKPT (R375): a debug halt of the core where the host has enabled it for the region, else the breakpoint fault. Either way the
lanes stay at the BKPT. -/
def execBkpt (c : BitVec 24) (s : State) : Out :=
  atIssue s (fun _ => { sys := true }) (fun i =>
    if s.debugOn (s.nodeOf i.w).region.pasid then .done { s with halted := insertNat i.w.core s.halted }
    else .bad { cls := 0x15, addr := c.setWidth 64, lanes := i.lanes })

/-- ERET (R376): a rendezvous of the live lanes in handler mode; the resume PCs and then the saved levels are checked, and a failure is
a nested fault; else the frame is restored. -/
def execEret (s : State) : Out :=
  atRendezvous s 0 (fun i => { sys := true, legal := i.w.handler }) (fun s i =>
    match i.w.frame with
    | none => .done (s.modWarp i.k (fun w => { w with handler := false }))
    | some f =>
      let ls := (f.lanes.filter (fun e => (i.w.lane e.1).live)).map (fun e => (e.1, e.2.pc))
      match resumeFault s i.w ls with
      | some x => .bad x
      | none =>
        match brokenLevel f.levels (i.named s) with
        | some k => .bad { cls := 0x09, lanes := i.lanes, kind := 4, idx := k }
        | none => .done (ls.foldl (fun s e => s.touchFetch i.w e.2) (s.restoreFrame i.k f)))

/-! ### Faults held during a halt (R378) -/

/-- Where a held fault goes once its core is not halted: none while it is, or without one; some none to the handler; some FDP to a
fault-domain action. -/
def State.heldWay (s : State) (k : Nat) : Option (Option Nat) :=
  match s.warp k with
  | none => none
  | some w =>
    match w.held with
    | none => none
    | some r =>
      let n := s.nodeOf w
      if s.halted.elem w.core then none
      else if !w.handler && !r.getLsbD 11 && n.region.handler != 0 && handlerOk s w n.region.handler.toNat then some none
      else some (some n.region.fdp)

/-- HANDLER_ENTRY (R370): a held recoverable fault is delivered to the handler; nothing otherwise. -/
def execHandlerEntry (warp : Nat) (s : State) : Out := .next (if s.heldWay warp = some none then s.deliverHeld warp else s)

/-- KILL_WORKGROUP (R372): a held fault ends its workgroup where FDP is 0; nothing otherwise. -/
def execKillWorkgroup (warp : Nat) (s : State) : Out := .next (if s.heldWay warp = some (some 0) then s.deliverHeld warp else s)

/-- KILL_NODE (R372): a held fault ends its node where FDP is 1; nothing otherwise. -/
def execKillNode (warp : Nat) (s : State) : Out := .next (if s.heldWay warp = some (some 1) then s.deliverHeld warp else s)

/-- KILL_REGION (R372): a held fault ends its region, with the notification, where FDP is 2; nothing otherwise. -/
def execKillRegion (warp : Nat) (s : State) : Out :=
  .next (match s.heldWay warp with
    | some (some n) => if 2 ≤ n then s.deliverHeld warp else s
    | _ => s)

/-! ### Debug halts (R377) -/

/-- DEBUG_HALT_END (R377): issue resumes on a core; its held faults are due, and workgroups that resumed halted on it go on. -/
def execDebugHaltEnd (core : Nat) (s : State) : Out :=
  .next { s with halted := s.halted.filter (fun c => c != core),
                 wgs := s.wgs.map (fun (e : Nat × Wg) => if (mget e.2.cores core).isSome then (e.1, { e.2 with halted := false }) else e) }

/-- The issue of a lane that does not issue: for the debugger's reads of CSRs. -/
def State.lookAt (s : State) (k : Nat) (w : Warp) (lane : Nat) : Iss :=
  { k := k, w := w, lanes := [lane], led := lane, code := s.code w, hint := none }

/-- Doubleword j of a wider register takes a value. -/
def putWord {n : Nat} (x : BitVec n) (j : Nat) (v : Word) : BitVec n :=
  (x &&& ~~~((0xFFFFFFFFFFFFFFFF#64).setWidth n <<< (64 * j))) ||| (v.setWidth n <<< (64 * j))

/-- What the debugger reads under a number of a lane: 0 to 62 named registers, 63 the PC, 64 to 79 queue entries, 80 to 111 uniform
registers, 112 the guards, 113 the PC of the code the lane runs, which is residual in residual code (R298), 128 to 159 the tile handles and 160
to 223 the descriptors by doublewords, 224 to 255 the loop levels by fields, 257 to 259 the group registers, and 2,048 + n the CSR n. -/
def debugRead (s : State) (k : Nat) (w : Warp) (lane reg : Nat) : Word :=
  let x := w.lane lane
  if reg < 63 then (mgetD x.regs reg {}).bits
  else if reg = 63 then x.pc
  else if reg < 80 then (x.queue.getD (reg - 64) {}).bits
  else if reg < 112 then (mgetD w.s (reg - 80) {}).bits
  else if reg = 112 then x.guards.setWidth 64
  else if reg = 113 then x.runPc
  else if reg < 128 then 0
  else if reg < 160 then (mgetD w.t ((reg - 128) / 2) 0).extractLsb' (64 * (reg % 2)) 64
  else if reg < 224 then (mgetD w.d ((reg - 160) / 4) 0).extractLsb' (64 * (reg % 4)) 64
  else if reg < 256 then levelField (w.level ((reg - 224) / 8)) (reg % 8) ((s.lookAt k w lane).ik ((reg - 224) / 8))
  else if 257 ≤ reg ∧ reg ≤ 259 then BitVec.ofNat 64 (w.groupSize (reg - 256))
  else if 2048 ≤ reg ∧ reg < 4096 then (s.lookAt k w lane).readCsr s (reg - 2048) lane
  else 0

/-- A group register takes a size that R261 allows. -/
def Warp.setGroup (w : Warp) (j n : Nat) : Warp :=
  if !([4, 8, 16, 32].elem n) then w
  else if j = 1 then { w with k1 := n } else if j = 2 then { w with k2 := n } else if j = 3 then { w with k3 := n } else w

/-- What the debugger writes: a field refuses what no program could put there, CSRs take a write where R31 gives the warp one, and what the
device counts or owns (CLAIM, the counters, the fault records) stays. -/
def debugWrite (s : State) (w : Warp) (lane reg : Nat) (v : Word) : Warp :=
  let c := s.code w
  if reg < 63 then w.modLane lane (fun x => x.setReg reg (clean v))
  else if reg = 63 then w.modLane lane (fun x => w.placeLane c.jig c.base lane v false { x with hint := none, park := .no })
  else if reg < 80 then w.modLane lane (fun x => { x with queue := setAt x.queue (reg - 64) (fun _ => clean v) })
  else if reg < 112 then w.setS (reg - 80) (clean v)
  else if reg = 112 then w.modLane lane (fun x => { x with guards := v.setWidth 8 &&& 0xFE })
  else if reg < 128 then w
  else if reg < 160 then { w with t := mput 0 w.t ((reg - 128) / 2) (putWord (mgetD w.t ((reg - 128) / 2) 0) (reg % 2) v) }
  else if reg < 224 then { w with d := mput 0 w.d ((reg - 160) / 4) (putWord (mgetD w.d ((reg - 160) / 4) 0) (reg % 4) v) }
  else if reg < 256 then
    (match s.writeLevel w (w.level ((reg - 224) / 8)) (reg % 8) v with
     | none => w
     | some lv => { w with levels := setAt w.levels ((reg - 224) / 8) (fun _ => lv) })
  else if reg < 2048 then w.setGroup (reg - 256) v.toNat
  else if reg < 4096 && (csrAccess (reg - 2048) false).set || reg == 2048 + 0x60 then
    (s.writeCsr w (s.nodeOf w).kernel.priv (reg - 2048) v).getD w
  else w

/-- DEBUGGER_ACCESS (R377): the debugger reads or writes a warp of a halted core; nothing where its core is not halted. -/
def execDebuggerAccess (wr : Bool) (warp lane reg : Nat) (v : BitVec 64) (s : State) : Out :=
  match s.warp warp with
  | none => .next s
  | some w =>
    if !s.halted.elem w.core then .next s
    else if wr then .next (s.setWarp warp (debugWrite s w lane reg v))
    else .next { s with hostRead := bytesLE 8 (debugRead s warp w lane reg).toNat }

end Sys2Proof.Machine
end

