-- ==== Sys2Proof/Machine/Schedule.lean ====
section
/-! DEFINITION. The warp scheduler of each core (R46, R98, R247 to R252, R257, R317): which lane sets the two ports issue in a
cycle, and what a cycle does to ages, waits and stall counters. CLOCK_CYCLE begins a cycle: it gives each core that holds warps a turn.
A turn tries the next word of every lane set of the core, so that it knows which are ready, and gives the ports; the steps after it issue
what was chosen, the primary port's word first. -/

namespace Sys2Proof.Machine

/-! ### Lane sets and their readiness (R248) -/

/-- The lane stands in a lane set, or in a rendezvous set that is complete. -/
def Warp.standing (w : Warp) (c : Code) (l : Nat) : Bool :=
  let x := w.lane l
  x.live && (match x.park with
    | .no => true
    | .rendezvous _ => w.complete c l
    | _ => false)

/-- The set of a lane: its rendezvous set (R259), or the lanes that stand at its place with its hint state (R248). DESIGN CHOICE: lanes that
a YIELD withholds and lanes that it does not are two sets until the yield ends (R257). -/
def Warp.setOf (w : Warp) (l : Nat) : List Nat :=
  match (w.lane l).park with
  | .rendezvous j => w.subgroup j l
  | _ => (List.range 32).filter (fun m => (w.lane m).live && (w.lane m).park == .no
      && ((w.lane m).yield == 0) == ((w.lane l).yield == 0) && sameSet (w.lane m) (w.lane l))

/-- A lane's place in the vote: original PC, then the PC of the code it runs (R249, R297). -/
def Lane.place (x : Lane) : Nat := x.pc.toNat * 2 ^ 64 + x.runPc.toNat

/-- The lane sets of a warp, the withheld ones among them, lowest PC first. -/
def Warp.sets (w : Warp) (c : Code) : List (List Nat) :=
  sortBy (fun ls => (w.lane (ls.headD 0)).place)
    (((List.range 32).filter (fun l => w.standing c l && (w.setOf l).head? == some l)).map w.setOf)

/-- The first lane of a set: the lanes of a set agree on whether it is withheld or held. -/
def Warp.leadOf (w : Warp) (ls : List Nat) : Lane := w.lane (ls.headD 0)

/-- The word a set stands at; 0, which is no instruction, where it cannot be fetched. -/
def State.wordOf (s : State) (w : Warp) (ls : List Nat) : IWord :=
  match s.fetchLane w (w.leadOf ls) with
  | .error _ => 0
  | .ok v => v

/-- Tries the next word of a set as run would issue it, and notes with the set whether it is held, and for which cause; of the trial only
the scratch pages that a held word touches are kept (R173). -/
def State.probeSet (run : State → Out) (k : Nat) (s : State) (ls : List Nat) : State :=
  match s.warp k with
  | none => s
  | some w =>
    let w0 := w.modLanes ls (fun _ x => { x with blocked := 0 })
    let tried := match run { s.setWarp k w0 with cur := { warp := k, lanes := maskOf ls } } with
      | .next t => t
      | _ => s
    let held := match tried.warp k with
      | none => 0
      | some v => if (v.leadOf ls).pc == (w.leadOf ls).pc && (v.leadOf ls).park == (w.leadOf ls).park then (v.leadOf ls).blocked else 0
    ({ s with wgs := if held = 0 then s.wgs else tried.wgs } : State).setWarp k (w0.modLanes ls (fun _ x => { x with blocked := held }))

/-- A warp may be offered to the scheduler: it runs, has its banks again after a resume (R135), and neither a halt of its core nor quiescing stops it; a hint group in progress
completes first (R46, R248, R377, R383). -/
def State.offered (s : State) (w : Warp) : Bool :=
  !w.ended && !w.jig && w.held.isNone && w.reclaim == []
    && (w.lanes.any (fun l => l.live && l.hint.isSome && l.park == .no)
      || (!(s.halted.elem w.core) && !(s.wg w.wg).halted && ((s.wg w.wg).status == .resident || (s.wg w.wg).status == .draining)))

/-- The warps on a core. -/
def State.warpsOn (s : State) (c : Nat) : List (Nat × Warp) :=
  s.warps.filter (fun e => e.2.core == c && !e.2.ended && (s.wg e.2.wg).status != .saved)

/-- Tries every lane set of a core. -/
def State.probeCore (run : State → Out) (c : Nat) (s : State) : State :=
  (s.warpsOn c).foldl (fun s e => if s.offered e.2 then (e.2.sets (s.code e.2)).foldl (fun s ls => s.probeSet run e.1 ls) s else s) s

/-- The ready lane sets of a warp, lowest PC first; none while one of its words holds the whole warp (R125). -/
def Warp.ready (w : Warp) (c : Code) : List (List Nat) :=
  if w.lanes.any (fun x => x.live && x.park == .no && decide (9 ≤ x.blocked)) then []
  else (w.sets c).filter (fun ls => (w.leadOf ls).yield == 0 && (w.leadOf ls).blocked == 0)

/-- The age of a set: the greatest of its lanes' (R251). -/
def Warp.ageOf (w : Warp) (ls : List Nat) : Nat := ls.foldl (fun n l => Nat.max n (w.lane l).age) 0

/-- The ready sets that may issue: none begins a hint group while another set's age is 31 or more, but for the promoted set that comes
first (R251). DEDUCED: a warp that the bar would leave no set issues its oldest, the lowest PC first among equals, since every ready warp
issues (R247). -/
def State.eligible (s : State) (w : Warp) : List (List Nat) :=
  let c := s.code w
  let rs := w.ready c
  let first := rs.find? (fun ls => decide (32 ≤ w.ageOf ls))
  match rs.filter (fun ls => majorOf (s.wordOf w ls) != 0x3F || first == some ls
    || !((w.sets c).any (fun q => q != ls && decide (31 ≤ w.ageOf q)))) with
  | [] => (leastBy (fun ls => 2 ^ 64 - w.ageOf ls) rs).toList
  | es => es

/-! ### The choice (R249 to R252) -/

/-- Effective wait (R252). -/
def Warp.effective (w : Warp) : Nat := if 64 ≤ w.wait then w.wait else Nat.min 63 (w.wait + 16 * w.bump)

/-- Keys 1 to 4 of R252, as one number to be greatest: wait of 1,024, priority, effective wait, low slot. -/
def State.rank (s : State) (w : Warp) : Nat :=
  (if 1024 ≤ w.wait then 2 ^ 100 else 0) + (s.prioOf w) * 2 ^ 90 + w.effective % 2 ^ 64 * 2 ^ 20 + (2 ^ 20 - 1 - w.slot)

/-- The warps of a core that can issue, highest rank first, with their eligible sets. -/
def State.contenders (s : State) (c : Nat) : List (Nat × Warp × List (List Nat)) :=
  sortBy (fun e => 2 ^ 128 - s.rank e.2.1) ((s.warpsOn c).filterMap (fun e =>
    if s.offered e.2 && e.2.away == 0 && s.eligible e.2 != [] then some (e.1, e.2, s.eligible e.2) else none))

/-- The hint group in progress on a core: its warp and lane set hold the primary port (R46). -/
def State.groupOn (s : State) (c : Nat) : Option (Nat × Warp × List Nat) :=
  ((s.warpsOn c).filterMap (fun e =>
    if s.offered e.2 then
      ((e.2.sets (s.code e.2)).find? (fun ls => (e.2.leadOf ls).hint.isSome && (e.2.leadOf ls).park == .no)).map (fun ls => (e.1, e.2, ls))
    else none)).head?

/-- What the ports issue in a cycle: key and set of the primary port's word, and of the second port's. -/
structure PortChoice where
  first  : Option (Nat × List Nat) := none
  second : Option (Nat × List Nat) := none
deriving DecidableEq, Repr

/-- A set stands at the instruction of the hint group that another set of its warp has begun, or begins with its next word: it issues at
a later opportunity (R46). -/
def State.awaits (s : State) (w : Warp) (p q : List Nat) : Bool :=
  let a := w.leadOf p
  let n := (w.leadOf q).pc.toNat - a.pc.toNat
  (a.hint.isSome || majorOf (s.wordOf w p) == 0x3F) && decide (a.pc.toNat ≤ (w.leadOf q).pc.toNat ∧ n ≤ 16 ∧ n % 4 = 0)
    && (List.range (n / 4)).all (fun j => match s.fetchAt w (a.pc + BitVec.ofNat 64 (4 * j)) w.handler with
      | .error _ => false
      | .ok v => majorOf v == 0x3F)

/-- A set of a warp goes on the second port beside another set of it (R46, R249, R250). -/
def State.goes (s : State) (w : Warp) (p q : List Nat) : Bool := pairs true (s.wordOf w p) (s.wordOf w q) && !s.awaits w p q

/-- The primary set of the highest-ranked warp, and the set of the same warp beside it: a promoted set that pairs, else the second-lowest
set if that pairs; a promoted set that does not pair takes the primary port, and the lowest set waits (R249, R251). -/
def State.ownSets (s : State) (w : Warp) (rs : List (List Nat)) : Option (List Nat × Option (List Nat)) :=
  match rs with
  | [] => none
  | low :: rest =>
    match rs.find? (fun ls => decide (32 ≤ w.ageOf ls)) with
    | none => some (low, rest.head?.filter (s.goes w low))
    | some p =>
      if p = low then
        some (low, (rest.find? (fun q => decide (32 ≤ w.ageOf q) && s.goes w low q)).orElse (fun _ => rest.head?.filter (s.goes w low)))
      else if s.goes w low p then some (low, some p)
      else some (p, none)

/-- The second port beside a primary word: a set of the same warp, else the lowest set of the next-ranked warp, if it pairs (R249).
DEDUCED: the second port is an opportunity of that warp, so its promoted set, where it has one, stands in for its lowest (R251). -/
def State.besides (s : State) (k : Nat) (w : Warp) (p : List Nat) (own : Option (List Nat)) (others : List (Nat × Warp × List (List Nat))) :
    Option (Nat × List Nat) :=
  match own with
  | some q => some (k, q)
  | none =>
    match others with
    | [] => none
    | (k', w', rs) :: _ =>
      ((rs.find? (fun ls => decide (32 ≤ w'.ageOf ls))).orElse (fun _ => rs.head?)).bind (fun q =>
        if pairs false (s.wordOf w p) (s.wordOf w' q) then some (k', q) else none)

/-- The choice of a core in a cycle: a hint group in progress keeps the primary port, ready or not (R46); else the highest-ranked ready
warp has it (R249). -/
def State.choosePorts (s : State) (c : Nat) : PortChoice :=
  let cs := s.contenders c
  match s.groupOn c with
  | some (k, w, ls) =>
    if (w.leadOf ls).blocked != 0 then {}
    else
      let own := (((cs.find? (fun e => e.1 == k)).map (fun e => e.2.2)).getD []).filter (fun q => q != ls)
      { first := some (k, ls),
        second := s.besides k w ls
          ((own.find? (fun q => decide (32 ≤ w.ageOf q) && s.goes w ls q)).orElse (fun _ => own.head?.filter (s.goes w ls)))
          (cs.filter (fun e => e.1 != k)) }
  | none =>
    match cs with
    | [] => {}
    | (k, w, rs) :: others =>
      match s.ownSets w rs with
      | none => {}
      | some (p, own) => { first := some (k, p), second := s.besides k w p own others }

/-! ### What a cycle counts (R251, R252, R257, R317) -/

/-- Why a warp does not issue: the first stall cause of R317 that applies, by its CSR offset (0 issue-empty to 7 specialisation). -/
def State.cause (s : State) (w : Warp) : Nat :=
  let c := s.code w
  let has := fun (p : Nat → Park → Bool) => (List.range 32).any (fun l => (w.lane l).live && p l (w.lane l).park)
  let held := fun (n : Nat) => (List.range 32).any (fun l => w.standing c l && (w.lane l).blocked != 0 && (w.lane l).blocked % 8 == n + 1)
  if w.jig then 7
  else if has (fun l p => match p with
    | .rendezvous _ => !w.complete c l
    | .watch _ _ _ => true | .backEdge _ => true | .left _ => true | .pool _ => true
    | _ => false) then 5
  else if has (fun _ p => match p with | .joint _ _ _ _ => true | .freed _ _ => true | .timeline _ _ _ _ => true | _ => false) then 4
  else if has (fun _ p => match p with | .message _ _ => true | _ => false) || held 6 then 6
  else if has (fun _ p => match p with | .claim => true | _ => false) || held 3 || w.reclaim != [] then 3
  else if has (fun _ p => match p with | .fence _ => true | .migrating _ => true | _ => false) || held 2 then 2
  else if held 1 then 1
  else 0

/-- Ages and YIELDs of a warp that is given a port (R46, R251, R257): its other ready sets age by one and its yields end. The hint words
of a group are one issue with its instruction, and their cycles no opportunity; but another set that the second port issues beside one ends
the yields. Ages of the sets that issue, and the warp's wait, restart as they issue (`Warp.moveLane`, `Iss.posted`). -/
def Warp.opportunity (w : Warp) (c : Code) (hint : Bool) (first second : List Nat) : Warp :=
  { w with lanes := (List.range 32).map (fun l =>
      let x := w.lane l
      if first.elem l || second.elem l || (hint && second == []) then x
      else if !hint && w.standing c l && x.yield == 0 && x.blocked == 0 then { x with age := x.age + 1 }
      else { x with yield := 0 }) }

/-- A cycle for a warp that is given no port: its wait rises where it is ready; where only a YIELD keeps it from being ready, the next
cycle after it among them, the yield runs down; and a warp that is not ready counts a stall (R252, R257, R317). A withheld cycle counts stalls alone (R396). -/
def State.passed (s : State) (withheld : Bool) (w : Warp) : Warp :=
  let c := s.code w
  let ready := s.offered w && w.away == 0 && w.ready c != []
  if ready then (if withheld then w else { w with wait := w.wait + 1 })
  else
    let w1 := { w with stall := mput 0 w.stall (s.cause w) (mgetD w.stall (s.cause w) 0 + 1) }
    if s.offered w && !withheld then
      { w1 with lanes := (List.range 32).map (fun l =>
          let x := w.lane l
          if w.standing c l && x.blocked == 0 then { x with yield := x.yield - 1 } else x) }
    else w1

/-- Cores that hold a warp, and halted cores: an idle cycle of theirs is no issue-empty cycle of an empty core. -/
def State.occupied (s : State) : List Nat :=
  (sortBy (fun c => c) ((s.warps.filter (fun e => !e.2.ended && (s.wg e.2.wg).status != .saved)).map (fun e => e.2.core) ++ s.halted)).eraseDups

/-- Counts a cycle as occupied. -/
def countOccupied (m : SMap Word) (c : Nat) : SMap Word := mput 0 m (c * 16 + 8) (mgetD m (c * 16 + 8) 0 + 1)

/-- The core counters of a turn (R317): the cycle is occupied, and, where the primary port issues nothing, the cause of the warp ranked
highest under keys 2 to 4 counts, unless that warp is ready; no cause counts on a halted core (R377). -/
def State.coreCounts (s : State) (c : Nat) (issuing : Bool) : SMap Word :=
  let m := countOccupied s.coreStall c
  if issuing || s.halted.elem c then m
  else
    match leastBy (fun e => 2 ^ 128 - (s.rank e.2) % 2 ^ 100) (s.warpsOn c) with
    | none => m
    | some e =>
      if s.offered e.2 && e.2.away == 0 && e.2.ready (s.code e.2) != [] then m
      else mput 0 m (c * 16 + s.cause e.2) (mgetD m (c * 16 + s.cause e.2) 0 + 1)

/-- The counts of a turn: every warp of the core is given a port or passed, the post-issue hints of the cycle before are dropped (R47),
and a workgroup's first issue is noted (R380). -/
def State.account (s : State) (c : Nat) (withheld : Bool) (p : PortChoice) : State :=
  let of := fun (q : Option (Nat × List Nat)) (k : Nat) => match q with
    | none => []
    | some (j, ls) => if j == k then ls else []
  let hint := fun (k : Nat) (w : Warp) => of p.first k != [] && majorOf (s.wordOf w (of p.first k)) == 0x3F
  { s with
    warps := s.warps.map (fun e =>
      if e.2.core != c || e.2.ended || (s.wg e.2.wg).status == .saved then e
      else
        let w := if of p.first e.1 != [] || of p.second e.1 != [] then
            e.2.opportunity (s.code e.2) (hint e.1 e.2) (of p.first e.1) (of p.second e.1)
          else if s.halted.elem c then e.2
          else s.passed withheld e.2
        (e.1, if withheld then w else { w with away := 0, bump := 0 })),
    wgs := s.warps.foldl (fun m e => if of p.first e.1 != [] || of p.second e.1 != [] then
        mmod m e.2.wg (fun g => { g with first := some (g.first.getD s.cycle) }) else m) s.wgs,
    coreStall := s.coreCounts c p.first.isSome }

/-! ### Turns -/

/-- A cycle's turn of a core: its sets are tried, the ports given and the cycle counted. While the device throttles, every second cycle
issues nothing (R396); after a trip nothing issues. -/
def State.givePorts (run : State → Out) (c : Nat) (s : State) : State :=
  let s1 := s.probeCore run c
  let withheld := s1.tripped || (s1.throttled && s1.cycle % 2 == 0)
  let p := if withheld then {} else s1.choosePorts c
  let lead := fun (q : Nat × List Nat) => match s1.warp q.1 with
    | none => (0, 0)
    | some w => ((w.leadOf q.2).pc, (w.leadOf q.2).runPc)
  { s1.account c withheld p with
    cur := match p.first with
      | none => s.cur
      | some (k, ls) => { warp := k, lanes := maskOf ls, go := true },
    second := p.second.map (fun q => { warp := q.1, lanes := maskOf q.2, pc := (lead q).1, run := (lead q).2 }) }

/-- The second port's word comes to issue after the primary port's: not where the primary word's fault, or its effect, has moved or
ended the set (R365). -/
def State.takeSecond (s : State) (n : Second) : State :=
  let stands : Bool := match s.warp n.warp with
    | none => false
    | some w => !w.ended && w.held.isNone && (lanesOf n.lanes).all (fun l =>
        let x := w.lane l
        x.live && x.pc == n.pc && x.runPc == n.run && x.park == .no)
  { s with second := none, cur := if stands then { warp := n.warp, lanes := n.lanes, go := true } else s.cur }

/-! ### The cycle -/

/-- A cycle begins: the Benches run, and every core that holds warps has a turn. -/
def State.cycleStep (s : State) : State :=
  { s.benchCycle with cycle := s.cycle + 1, turns := s.occupied }

/-- CLOCK_CYCLE (R317). -/
def execClockCycle (s : State) : Out := .next s.cycleStep

end Sys2Proof.Machine
end

