-- ==== Sys2Proof/Machine/Fetch.lean ====
section
/-! DEFINITION. Fetching the chosen word, and the two rows for what is no instruction (R43, R366). -/

namespace Sys2Proof.Machine

/-- The word the chosen set stands at; none where fetch faults (R366). -/
def State.fetchIssue (s : State) : Option IWord :=
  match s.issue with
  | none => none
  | some i =>
    match s.fetchLane i.w i.lead with
    | .error _ => none
    | .ok v => some v

/-- The walk's effects of that fetch (R330); residual words are fetched without translation (R295). -/
def State.touchIssue (s : State) : State :=
  match s.issue with
  | none => s
  | some i =>
    match i.lead.rpc with
    | some _ => s
    | none =>
      match s.fetchLane i.w i.lead with
      | .error _ => s
      | .ok _ => s.touchFetch i.w i.pc

/-- The payload of an HMOD word that R51 forbids: its bits, or 0, which R51 forbids too, where reserved bits are set; none for any other word. -/
def badModifier (v : IWord) : Option (BitVec 9) :=
  if majorOf v = 0x3F ∧ wordField v 24 2 = 2 then some (if wordField v 9 15 = 0 then BitVec.ofNat 9 v.toNat else 0) else none

/-- ILLEGAL_INSTRUCTION (R43): a word that encodes no instruction faults its lane set; checks 1 to 3. An HMOD word with a payload that R51
forbids is a hint all the same, and the fault comes at its group's instruction (R51, R87). -/
def execIllegalInstruction (v : BitVec 32) (s : State) : Out :=
  match badModifier v with
  | some p => modWord p s
  | none =>
  match s.issue with
  | none => .fault .noWarp
  | some i => .next (i.fault s { cls := 0x01, addr := v.setWidth 64, lanes := i.lanes })

/-- INSTRUCTION_FETCH_FAULT (R366): translation or protection, with ADDR and both PCs at the PC that does not fetch; nothing where
it does. -/
def execInstructionFetchFault (s : State) : Out :=
  match s.issue with
  | none => .fault .noWarp
  | some i =>
    match s.fetchLane i.w i.lead with
    | .ok _ => .next s
    | .error c => .next (s.takeFault i.k { cls := c, addr := i.pc, lanes := i.lanes } i.pc i.pc)

end Sys2Proof.Machine
end

