-- ==== Sys2Proof/Machine/Hub.lean ====
section
/-! DEFINITION. What the units of the hub read and write in memory, node records, ENQ and the device queues (R302, R303, R314 to
R316), and the acknowledgements that end memory operations (R194, R195). -/

namespace Sys2Proof.Machine

/-! ### The hub's accesses -/

/-- On whose behalf the hub works in an address space; it is no core. -/
def hubWho (pasid : Nat) : Who := { core := 512, pasid := pasid, wg := 0, scope := 6 }

/-- n bytes of global memory of an address space for a unit of the hub, which walks and holds no translation. -/
def hubReach (s : State) (pasid va n : Nat) (k : AccKind) (fuel : Nat) : Except Denied Reach :=
  match fuel with
  | 0 => .ok { flats := [] }
  | f + 1 =>
    if n = 0 then .ok { flats := [] }
    else if 2 ^ 56 ≤ va then .error { rank := 10, cls := 0x04 }
    else if apertureOf va ≠ .global then .error { rank := 50, cls := 0x05 }
    else
      let m := Nat.min n (4096 - va % 4096)
      match reachRights { s with tlb := [] } (hubWho pasid) va k with
      | .error d => .error d
      | .ok l =>
        match hubReach s pasid (va + m) (n - m) k f with
        | .error d => .error d
        | .ok q => .ok { flats := (List.range m).map (fun i => leafFlat l va + i) ++ q.flats, vias := { va := va, leaf := l } :: q.vias }

/-- The walks of a hub's access set A, and D where it writes (R330). -/
def State.hubTouch (s : State) (pasid : Nat) (wr : Bool) (vs : List Via) : State :=
  { ({ s with tlb := [] } : State).touchAll (hubWho pasid) wr vs with tlb := s.tlb }

/-- The little-endian number in n bytes of an address space, read at home once the lines' locks are free (R215). -/
def State.hubRead (s : State) (pasid va n : Nat) : Except Denied (State × Nat) :=
  match hubReach s pasid va n .load (n / 4096 + 2) with
  | .error d => .error d
  | .ok r =>
    let t := (s.unlock (linesOf r.flats)).hubTouch pasid false r.vias
    .ok (t, natLE (r.flats.map t.peek))

/-- A write by a unit of the hub through translated flat addresses, under the lines' locks (R215), with the poison its source bytes carry; those of a lost peer are
discarded and logged (R362). -/
def State.hubWrite (s : State) (ps : List (Nat × Byte)) : State :=
  let here := ps.filter (fun p => !s.lostAt p.1)
  let s1 := (linesOf (here.map Prod.fst)).foldl (fun s l => s.homeWrite 32 (here.filter (fun p => p.1 / 128 == l)) l) (s.unlock (linesOf (here.map Prod.fst)))
  match ps.find? (fun p => s.lostAt p.1) with
  | none => s1
  | some p => s1.log p.1

/-! ### Node records (R302, R303) -/

/-- The fields of a NODE in its 128 bytes are in range (R302, R303). -/
def nodeRecordOk (p : Nat) : Bool :=
  let v := bitsOf p 8 4
  bitsOf p 0 8 == 1 && (v == 1 || v == 2) && bitsOf p 14 2 == 0 && bitsOf p 32 32 == 0 && (v == 2 || bitsOf p 16 16 == 0)
    && bitsOf p 128 3 == 0 && bitsOf p 192 32 != 0 && decide (1 ≤ bitsOf p 224 32 ∧ bitsOf p 224 32 ≤ 16384)
    && bitsOf p 256 3 == 0 && bitsOf p 383 1 == 0 && bitsOf p 384 128 == 0
    && (v == 1 || (bitsOf p 512 3 == 0 && decide (bitsOf p 592 3 ≤ 4) && bitsOf p 595 13 == 0 && bitsOf p 608 32 == 0
          && bitsOf p 704 320 == 0))

/-- The node a record describes; a version 1 NODE has no predecessors, successors, split request or cycles. -/
def nodeOfRecord (p rcb pasid : Nat) (source : Word) : Node :=
  let v2 := bitsOf p 8 4 == 2
  { rcb := rcb, pasid := pasid, source := source, kref := BitVec.ofNat 64 (bitsOf p 64 64), argp := BitVec.ofNat 64 (bitsOf p 128 64),
    grid := bitsOf p 192 32, wgsize := bitsOf p 224 15, maddr := BitVec.ofNat 64 (bitsOf p 256 64),
    mval := BitVec.ofNat 64 (bitsOf p 320 64), pred := if v2 then bitsOf p 16 16 else 0,
    succ := if v2 then BitVec.ofNat 64 (bitsOf p 512 64) else 0, nsucc := if v2 then bitsOf p 576 16 else 0,
    l1kib := if v2 then bitsOf p 592 3 else 0, expcyc := if v2 then bitsOf p 640 64 else 0,
    restart := bitsOf p 13 1 == 1, cores := bitsOf p 12 1 == 1 }

/-- The registered kernel KREF names: its record's address in the space pasid, its placement in the space of the region, STATUS 1 (R352). -/
def State.kernelOf (s : State) (pasid space : Nat) (kref : Word) : Option Kernel :=
  match hubReach s pasid kref.toNat 128 .load 2 with
  | .error _ => none
  | .ok r => s.kernels.find? (fun k => some k.kref == r.flats.head? && k.pasid == space && s.num (k.kref + 63) 1 == 1)

/-! ### Device queues (R315, R316) -/

/-- The nodes of a device queue, by the RCB that supplies it. -/
def State.queueOf (s : State) (rcb : Nat) : List Nat := mgetD s.dqueue rcb []
/-- Replaces a device queue. -/
def State.setQueue (s : State) (rcb : Nat) (q : List Nat) : State := { s with dqueue := mput [] s.dqueue rcb q }

/-- A node enters a device queue. -/
def State.enqueueNode (s : State) (rcb : Nat) (n : Node) : State :=
  { (s.setQueue rcb (s.queueOf rcb ++ [s.serial])) with
    nodes := mset s.nodes s.serial { n with status := .queued, order := s.serial }, serial := s.serial + 1 }

/-- RINGWR and RINGRD of an RCB. -/
def State.ringWr (s : State) (rcb : Nat) : Nat := s.num (rcb + 103) 2
/-- RINGRD of an RCB. -/
def State.ringRd (s : State) (rcb : Nat) : Nat := s.num (rcb + 105) 2

/-- What an ENQ does with its record: the status, and the state (R315). -/
def State.placeRecord (s : State) (r : Region) (pasid : Nat) (source : Word) (p : Nat) (spill : Bool) : State × Nat :=
  let empty := s.ringWr r.ringOf == s.ringRd r.ringOf
  let used := (s.ringWr r.ringOf + 65536 - s.ringRd r.ringOf) % 65536
  if (s.queueOf r.ringOf).length < r.dqcap ∧ (!spill ∨ empty) then
    (s.enqueueNode r.ringOf (nodeOfRecord p r.rcb pasid source), 0)
  else if spill ∧ r.ringSize ≠ 0 ∧ used < 2 ^ r.ringSize then
    (({ (s.deviceWrite (r.ring + 128 * (s.ringWr r.ringOf % 2 ^ r.ringSize)) (bytesLE 128 p)) with
          spilled := s.spilled ++ [{ queue := r.ringOf, index := s.ringWr r.ringOf, rcb := r.rcb, pasid := pasid, source := source }] }
        : State).deviceWrite (r.ringOf + 103) (bytesLE 2 (s.ringWr r.ringOf + 1)), 1)
  else (s, 2)

/-- RING_MOVE (R316): the oldest entry of the overflow ring of an RCB enters its device queue, when that has room; then RINGRD
advances. -/
def execRingMove (rcb : Nat) (s : State) : Out :=
  if s.ringWr rcb = s.ringRd rcb ∨ s.rcb rcb 384 16 ≤ (s.queueOf rcb).length then .next s
  else
    match s.spilled.find? (fun (e : Spilled) => e.queue == rcb && e.index == s.ringRd rcb) with
    | none => .next s
    | some e =>
      let p := s.num (s.rcb rcb 320 56 + 128 * (s.ringRd rcb % 2 ^ s.rcb rcb 376 4)) 128
      let s1 := { s with spilled := s.spilled.filter (fun x => x != e) }
      .next ((s1.enqueueNode rcb (nodeOfRecord p e.rcb e.pasid e.source)).deviceWrite (rcb + 105) (bytesLE 2 (s.ringRd rcb + 1)))

/-! ### ENQ (R314, R315) -/

/-- The record an ENQ names by its block sK: the fault of its checks, or the number its 128 bytes hold and what its reading leaves. ADDR of a
poisoned record is its first poisoned byte: DEDUCED from R364's poisoned address. -/
def Iss.enqRecord (i : Iss) (s : State) (k : Nat) (a : Word) : Except FaultInfo (State × Nat) :=
  let va := a.toNat
  let bad := fun (cls : Nat) => ({ cls := cls, addr := a, lanes := i.lanes } : FaultInfo)
  if 2 ^ 56 ≤ va then .error { i.operand s with kind := 7, idx := k }
  else if va % 128 ≠ 0 then .error (bad 0x03)
  else if apertureOf va = .privateMem then .error (bad 0x05)
  else
    match i.reach s 5 (i.lanes.headD 0) a 128 .load with
    | .error d => .error (bad d.cls)
    | .ok r =>
      let t := s.touchAll (i.who s 5) false r.vias
      match r.flats.findIdx? (t.poisonAt i.w.core 2) with
      | some j => .error { bad 0x11 with addr := BitVec.ofNat 64 (va + j) }
      | none => .ok (countReads t [(0, r)], natLE (r.flats.map (t.view i.w.core 2)))

/-- ENQ after its release (R315): the record and its checks, the node's place, the status. -/
def Iss.enqueue (i : Iss) (s : State) (k : Nat) (spill : Bool) : Except FaultInfo (State × Nat) :=
  let a := i.uval s (0x50#7 + BitVec.ofNat 7 k)
  let n := s.nodeOf i.w
  match i.enqRecord s k a with
  | .error f => .error f
  | .ok (s1, p) =>
    if !nodeRecordOk p || bitsOf p 8 4 != 2 || bitsOf p 16 16 != 0
        || (s1.kernelOf n.region.pasid n.region.pasid (BitVec.ofNat 64 (bitsOf p 64 64))).isNone then
      .error { i.operand s with kind := 7, idx := k }
    else .ok (s1.placeRecord n.region n.region.pasid a p spill)

/-- The read of the record has to wait (R173, R212, R215, R218): for a scratch page, for a page that migrates, for the lock of its line, or for
dirty bytes inside its point, which go home first. none where it can be made. -/
def Iss.enqWaits (i : Iss) (s : State) (key : Nat) (a : Word) : Option State :=
  match i.reach s 5 (i.lanes.headD 0) a 128 .load with
  | .error _ => none
  | .ok r =>
    let lines := (linesOf r.flats).filter (fun l => isCached (l * 128))
    if r.flats.any (s.pageAbsent i.w.wg) || lines.any s.locked then some s
    else
      match s.engineWaits key i.w.core (s.nodeOf i.w).region.pasid false r.vias with
      | some t => some t
      | none => if lines.any (s.mustPush i.w.core 2) then some (lines.foldl (fun s l => s.pushTo i.w.core 2 l) s) else none

/-- ENQ (R314, R315): the release first; where it has nothing to wait for, the rest follows at once, else the lanes wait for it. -/
def execEnq (sb : BitVec 5) (spill : BitVec 1) (s : State) : Out :=
  atIssue s (fun i =>
    { uni := if sb = 31 then [] else [0x50#7 + sb.setWidth 7], opOk := sb != 31, block := some sb.toNat,
      legal := i.himm == [] && (i.hint.bind (fun h => h.hmod)).isNone }) (fun i =>
    let a := i.uval s (0x50#7 + sb.setWidth 7)
    if 2 ^ 56 ≤ a.toNat then .bad { i.operand s with kind := 7, idx := sb.toNat }
    else if i.orderWaits s then .hold 2
    else
      let r := s.releaseAction i.k i.w 5
      if r.2 = [] ∧ (i.enqWaits s s.serial a).isNone then
        match i.enqueue s sb.toNat (spill == 1) with
        | .error f => .bad f
        | .ok (s1, st) => i.goOn s1 (fun w => w.setS (sb.toNat + 1) (clean (BitVec.ofNat 64 st)))
      else
        let id := r.1.serial
        .done ((r.1.addOp { id := 0, warp := i.k, core := i.w.core, region := (s.nodeOf i.w).region.rcb,
                            kind := .enq sb.toNat (spill == 1), scope := 5, order := 2, after := r.2 }).modWarp i.k
          (fun w => i.parkLanes w (fun _ => .fence id))))

/-- An ENQ whose release is over acts; its lanes go on, or take its fault. -/
def State.enqStep (s : State) (o : MemOp) (k : Nat) (spill : Bool) : State :=
  match s.warp o.warp with
  | none => s.over o
  | some w =>
    match (List.range 32).filter (fun l => (w.lane l).live && (w.lane l).park == .fence o.id) with
    | [] => s.over o
    | l :: ls =>
      let i : Iss := { k := o.warp, w := w, lanes := l :: ls, led := l, code := s.code w, hint := (w.lane l).hint }
      match i.enqWaits s o.id (i.uval s (0x50#7 + BitVec.ofNat 7 k)) with
      | some t => t
      | none =>
        match i.enqueue (s.engineMade o.id) k spill with
        | .error f => i.fault (s.over o) f
        | .ok (s1, st) =>
          ((s1.over o).modWarp o.warp (fun w => w.setS (k + 1) (clean (BitVec.ofNat 64 st)))).freeFence o.warp o.id

/-! ### Acknowledgements (R194, R195) -/

/-- ACKNOWLEDGEMENT (R194, R195): a write that has taken effect and whose lines' invalidations have been acknowledged ends, and ACKSEQ
takes its tag; a fence, and an ENQ, whose accesses are all acknowledged completes. Nothing where none is due. -/
def execAcknowledgement (op : Nat) (s : State) : Out :=
  match s.opOf op with
  | none => .next s
  | some o =>
    match o.kind with
    | .store => if o.done && !(o.atHome && o.lines.any s.locked) then .next (s.acknowledge o) else .next s
    | .red _ _ => if o.done && !(o.atHome && o.lines.any s.locked) then .next (s.acknowledge o) else .next s
    | .push _ _ => if o.done && !(o.atHome && o.lines.any s.locked) then .next (s.acknowledge o) else .next s
    | .atom _ _ =>
      if o.done && !(o.parts.any (fun p => p.taken)) && !(o.atHome && o.lines.any s.locked) then .next (s.acknowledge o) else .next s
    | .fence => if o.after == [] then .next (s.completeFence o) else .next s
    | .enq k spill => if o.after == [] then .next (s.enqStep o k spill) else .next s
    | _ => .next s

end Sys2Proof.Machine
end

