-- ==== Sys2Proof/Machine/Meters.lean ====
section
/-! DEFINITION. Meter commands and reports (R347 to R350), and the registration of kernels (R60 to R67, R293, R352). -/

namespace Sys2Proof.Machine

/-! ### The command block (R350) -/

/-- A field of the command block at a physical address. -/
def State.cmd (s : State) (a lo n : Nat) : Nat := bitsOf (s.num a 64) lo n

/-- The digests of the set a command names. -/
def State.cmdSet (s : State) (a : Nat) : List (BitVec 512) :=
  (List.range (s.cmd a 32 9)).map (fun i => BitVec.ofNat 512 (s.num (s.cmd a 320 64 + 64 * i) 64))

/-- The command completes with status 2 (R350). -/
def State.cmdBad (s : State) (a : Nat) : Bool :=
  let op := s.cmd a 0 8
  let sets := op == 1 || op == 5
  let recs := op == 4 || op == 5
  a % 64 != 0 || s.cmd a 41 279 != 0 || s.cmd a 26 6 != 0 || op == 0 || decide (5 < op)
    || (!recs && (s.cmd a 448 64 != 0 || s.cmd a 384 64 != 0)) || (!sets && (s.cmd a 320 64 != 0 || s.cmd a 32 9 != 0))
    || (sets && (s.cmd a 32 9 == 0 || decide (256 < s.cmd a 32 9) || decide (¬ (s.cmdSet a).Nodup) || !physOk (s.cmd a 320 64)))
    || (recs && (!physOk (s.cmd a 384 64) || !physOk (s.cmd a 448 64)))

/-- STATUS of a command block. -/
def State.cmdStatus (s : State) (a v : Nat) : State := s.deviceWrite (a + 1) [BitVec.ofNat 8 v]

/-- Serves the oldest command when its OP is one of those given; a bad block completes with status 2. The body answers a status, or none
where the status comes later. Without verified firmware there is no policy core to serve it (R353). DESIGN CHOICE: with 64 reports held, a
CREATE, RESUME or RESTART, each of which emits one, waits; R348 gives REQ its status alone. -/
def meterCommand (ops : List Nat) (s : State) (body : State → Nat → Nat → State × Option Nat) : Out :=
  match s.meterCmds with
  | [] => .next s
  | a :: r =>
    let s1 : State := { s with meterCmds := r }
    if !s.ready then .next s
    else if !physOk a then .next s1
    else if !ops.elem (s.cmd a 0 8) then .next s
    else if s.cmdBad a then .next (s1.cmdStatus a 2)
    else if s.reportsFull && ops != [2] && ops != [3] then .next s
    else
      let x := body s1 a (s.cmd a 16 10)
      match x.2 with
      | none => .next x.1
      | some v => .next (x.1.cmdStatus a v)

/-- A new instance id (R350): the creation count has risen already. -/
def State.newId (s : State) (slot : Nat) : BitVec 128 :=
  (sha3 (bytesLE 64 deviceId.toNat ++ bytesLE 2 slot ++ bytesLE 8 s.creation.toNat)).setWidth 128

/-- The OPs the CREATE row serves: 1, and every OP outside 1 to 5, which is a bad block. -/
def createOps : List Nat := 1 :: 0 :: (List.range 250).map (fun i => i + 6)

/-- A set that a command names is known from then on. -/
def State.addSet (s : State) (ds : List (BitVec 512)) : State :=
  { s with allowedSets := if s.allowedSets.elem ds then s.allowedSets else s.allowedSets ++ [ds] }

/-- The allowed set with a hash that a slot continues (R350): the one this device has had, else an open one of 1 to 256 digests. DESIGN CHOICE
(log entry 10): the record carries the hash alone, so that what the set holds is open where this device has not had it. -/
def State.setOf (s : State) (h : BitVec 512) : List (BitVec 512) :=
  (s.allowedSets.find? (fun ds => allowHash ds == h)).getD (Config.allowedSet h).digests

/-- CREATE (R350). -/
def execCreate (s : State) : Out :=
  meterCommand createOps s (fun s a slot =>
    if (mget s.meters slot).isSome then (s, some 3)
    else
      let s1 : State := { s with creation := s.creation + 1 }
      let m : Meter := { inst := s1.newId slot, allowed := s1.cmdSet a, allowh := allowHash (s1.cmdSet a) }
      ((({ s1 with meters := mset s1.meters slot m } : State).addSet m.allowed).emitReport slot 8 true 0, some 1))

/-- The slot holds a live instance that is not being sealed. -/
def State.liveSlot (s : State) (slot : Nat) : Bool :=
  match mget s.meters slot with
  | none => false
  | some m => !m.sealing

/-- REQ (R348, R350). -/
def execReq (s : State) : Out :=
  meterCommand [2] s (fun s _ slot =>
    if !s.liveSlot slot ∨ s.reportsFull then (s, some 3) else (s.emitReport slot 2 false 0, some 1))

/-- SEAL (R350): nodes bound to the slot are admitted no more; the hand-over follows once none is resident or saved. -/
def execSeal (s : State) : Out :=
  meterCommand [3] s (fun s a slot =>
    if !s.liveSlot slot then (s, some 3)
    else ({ s with meters := mmod s.meters slot (fun m => { m with sealing := true, sealCmd := a }) }, none))

/-- SEAL_HANDOVER (R350): the SEAL report is emitted and the slot freed; nothing while a workgroup bound to it is resident or saved, or
while the metering block has no room for the report. -/
def execSealHandover (slot : Nat) (s : State) : Out :=
  match mget s.meters slot with
  | none => .next s
  | some m =>
    if m.sealing && !s.reportsFull && s.wgs.all (fun g => g.2.status == .ended || ((s.node g.2.node).forWg g.2).region.meter.all (fun b => b.2 != slot)) then
      let s1 := s.emitReport slot 4 false 0
      .next (({ s1 with meters := merase s1.meters slot } : State).cmdStatus m.sealCmd 1)
    else .next s

/-- The body of the report a command names, where its signature and key stand (R347, R350). -/
def State.checkedReport (s : State) (a : Nat) : Option (BitVec 2048) :=
  let r := s.cmd a 384 64
  let body := BitVec.ofNat 2048 (s.num r 256)
  let key := s.bytes (s.cmd a 448 64) 2592
  if sha3 key = body.extractLsb' 0 512 ∧ Config.identity.verify key (bytesLE 64 (sha3 (bytesLE 256 body.toNat)).toNat) (s.bytes (r + 256) 4627)
  then some body else none

/-- RESUME (R350). -/
def execResume (s : State) : Out :=
  meterCommand [4] s (fun s a slot =>
    match (if (mget s.meters slot).isSome then none else s.checkedReport a) with
    | none => (s, some 3)
    | some b =>
      if !b.getLsbD 802 then (s, some 3)
      else
        let h := b.extractLsb' 896 512
        let m : Meter := { inst := b.extractLsb' 512 128, macs := b.extractLsb' 704 96, rbytes := b.extractLsb' 832 64,
                           seq := b.extractLsb' 640 64, allowed := s.setOf h, allowh := h,
                           prevh := sha3 (bytesLE 256 b.toNat) }
        (({ s with meters := mset s.meters slot m } : State).emitReport slot 64 false 0, some 1))

/-- RESTART (R350). -/
def execRestart (s : State) : Out :=
  meterCommand [5] s (fun s a slot =>
    match (if (mget s.meters slot).isSome then none else s.checkedReport a) with
    | none => (s, some 3)
    | some b =>
      let s1 : State := { s with creation := s.creation + 1 }
      let m : Meter := { inst := s1.newId slot, allowed := s1.cmdSet a, allowh := allowHash (s1.cmdSet a),
                         prevh := sha3 (bytesLE 256 b.toNat) }
      ((({ s1 with meters := mset s1.meters slot m } : State).addSet m.allowed).emitReport slot 16 true (b.extractLsb' 512 128), some 1))

/-- The bytes of a report (R347): body, signature, zeros. -/
def reportBytes (body : BitVec 2048) (signed : Nat) : List Byte :=
  let msg := bytesLE 64 (sha3 (bytesLE 256 body.toNat)).toNat
  bytesLE 256 body.toNat ++ Config.identity.sign msg signed ++ List.replicate 237 0

/-- REPORT_WRITE (R348): the oldest held report goes into the ring, then RPTWR advances, and a forced report that waited for room among those
held is emitted; nothing while the ring is full. -/
def execReportWrite (s : State) : Out :=
  match s.reports with
  | [] => .next s
  | r :: rest =>
    let wr := (s.reg 0x38).toNat
    let slots := 2 ^ (s.reg 0x138).toNat
    if !s.enabled ∨ slots ≤ wr - (s.reg 0x40).toNat then .next s
    else
      let s1 := (({ s with reports := rest, signed := s.signed + 1 } : State).deviceWrite ((s.reg 0x130).toNat + 5120 * (wr % slots))
        (reportBytes r.body s.signed)).setReg 0x38 (s.reg 0x38 + 1)
      .next ((mkeys s1.meters).foldl State.force s1)

/-! ### Registration (R62 to R67, R352) -/

/-- Little-endian bytes of an image at an offset. -/
def imgNum (img : List Byte) (o n : Nat) : Nat := natLE ((img.drop o).take n)

/-- The next multiple of 8. -/
def up8 (n : Nat) : Nat := cdiv n 8 * 8

/-- A character of a name (R60). -/
def nameChar (c : Nat) (first : Bool) : Bool :=
  decide (65 ≤ c ∧ c ≤ 90) || decide (97 ≤ c ∧ c ≤ 122) || c == 95 || (!first && decide (48 ≤ c ∧ c ≤ 57))

/-- The NAME field is a name, zero-padded (R60, R63). -/
def nameOk (bs : List Nat) : Bool :=
  let cs := bs.takeWhile (fun c => c != 0)
  decide (1 ≤ cs.length ∧ cs.length ≤ 63) && (bs.drop cs.length).all (fun c => c == 0) && nameChar (cs.headD 0) true
    && cs.all (fun c => nameChar c false)

/-- A list rises strictly. -/
def rises (l : List Nat) : Bool :=
  match l with
  | [] => true
  | [_] => true
  | a :: b :: r => decide (a < b) && rises (b :: r)

/-- The key table of an image: offsets and bounds (R64). -/
def imgKeys (img : List Byte) : List (Nat × List Nat) :=
  (List.range (bitsOf (imgNum img 8 8) 8 5)).map (fun i =>
    let e := imgNum img (imgNum img 48 4 + 8 * i) 8
    (bitsOf e 0 16, (List.range (bitsOf e 16 4)).map (fun b => imgNum img (imgNum img 52 4 + 8 * (bitsOf e 20 8 + b)) 8)))

/-- The relocations of an image: offset and kind (R65). -/
def imgRelocs (img : List Byte) : List (Nat × Nat) :=
  (List.range (imgNum img 44 4)).map (fun i =>
    let e := imgNum img (imgNum img 40 4 + 8 * i) 8
    (bitsOf e 0 32, bitsOf e 32 4))

/-- The image keeps R60 to R65, R293 and the feature level (R63, R352, R391). DESIGN CHOICE, where R63 lists no rejection: an ENTRY that is
not a multiple of 4, or lies at or past CODESIZE, is rejected; so is a key table whose OFFSETs do not rise, and a relocation whose OFFSET is
no multiple of 8 or reaches past the constant segment. DESIGN CHOICE: the bound table, whose size no field gives, holds as many bounds as
the key table's NBOUNDs add up to. -/
def imageOk (img : List Byte) : Bool :=
  let f := imgNum img 8 8
  let args := bitsOf f 16 16
  let nkeys := bitsOf f 8 5
  let keys := imgKeys img
  let keyOff := imgNum img 48 4
  let boundOff := imgNum img 52 4
  let codeOff := imgNum img 24 4
  let codeSize := imgNum img 28 4
  let constOff := imgNum img 32 4
  let constSize := imgNum img 36 4
  let relOff := imgNum img 40 4
  let bounds := (keys.map (fun k => k.2.length)).sum
  let zeros := fun (a b : Nat) => ((img.drop a).take (b - a)).all (fun c => c == 0)
  let entries := (List.range nkeys).map (fun i => imgNum img (keyOff + 8 * i) 8)
  decide (128 ≤ img.length) && imgNum img 0 4 == 0x58463441 && imgNum img 4 2 == 1 && decide (imgNum img 6 1 ≤ 1)
    && [16, 32, 48, 63].elem (imgNum img 7 1) && bitsOf f 3 5 == 0 && bitsOf f 13 3 == 0 && imgNum img 56 8 == 0
    && decide (args ≤ 4096 ∧ args % 8 = 0) && decide (nkeys ≤ 16)
    && decide (imgNum img 12 4 ≤ 65536 ∧ imgNum img 12 4 % 4 = 0) && decide (imgNum img 16 4 ≤ 524288 ∧ imgNum img 16 4 % 4096 = 0)
    && decide (imgNum img 20 4 % 4 = 0 ∧ imgNum img 20 4 < codeSize) && decide (4 ≤ codeSize ∧ codeSize % 4 = 0)
    && nameOk (((img.drop 64).take 64).map (fun c => c.toNat))
    && keyOff == 128 && boundOff == up8 (keyOff + 8 * nkeys) && codeOff == up8 (boundOff + 8 * bounds)
    && constOff == up8 (codeOff + codeSize) && relOff == up8 (constOff + constSize)
    && img.length == relOff + 8 * imgNum img 44 4
    && zeros (codeOff + codeSize) constOff && zeros (constOff + constSize) relOff
    && entries.all (fun e => bitsOf e 28 36 == 0 && decide (bitsOf e 16 4 ≤ 8) && decide (bitsOf e 20 8 + bitsOf e 16 4 ≤ bounds))
    && rises (keys.map Prod.fst)
    && keys.all (fun k => decide (k.1 % 8 = 0 ∧ k.1 + 8 ≤ args) && rises k.2
        && (k.2 == [] || (decide (k.1 + 16 ≤ args) && !(keys.any (fun q => q.1 == k.1 + 8)))))
    && (imgRelocs img).all (fun r => decide (r.1 % 8 = 0 ∧ r.1 + 8 ≤ constSize) && decide (r.2 ≤ 1))
    && (List.range (imgNum img 44 4)).all (fun i => bitsOf (imgNum img (relOff + 8 * i) 8) 36 28 == 0)

/-- The bytes of a range of an address space that translate, whatever their rights; none where a page does not. -/
def walkBytes (s : State) (pasid va n fuel : Nat) : Option (List Nat × List Via) :=
  match fuel with
  | 0 => some ([], [])
  | f + 1 =>
    if n = 0 then some ([], [])
    else if 2 ^ 56 ≤ va ∨ apertureOf va ≠ .global then none
    else
      let m := Nat.min n (4096 - va % 4096)
      match walk s 4 pasid va, walkBytes s pasid (va + m) (n - m) f with
      | .ok l, some r => some ((List.range m).map (fun i => leafFlat l va + i) ++ r.1, { va := va, leaf := l } :: r.2)
      | _, _ => none

/-- The kernel an image describes, placed as its record says. -/
def imageKernel (img : List Byte) (kref pasid codeVa constVa : Nat) : Kernel :=
  let f := imgNum img 8 8
  { kref := kref, pasid := pasid, codeVa := codeVa, constVa := constVa, codeSize := imgNum img 28 4, constSize := imgNum img 36 4,
    entry := imgNum img 20 4, named := imgNum img 7 1, args := bitsOf f 16 16, priv := imgNum img 12 4, scratch := imgNum img 16 4,
    restart := bitsOf f 0 1 == 1, eager := bitsOf f 1 1 == 1, coresident := bitsOf f 2 1 == 1, digest := sha3 img, keys := imgKeys img,
    code := (List.range (imgNum img 28 4 / 4)).map (fun i => BitVec.ofNat 32 (imgNum img (imgNum img 24 4 + 4 * i) 4)),
    const := (img.drop (imgNum img 32 4)).take (imgNum img 36 4), relocs := (imgRelocs img).map Prod.fst }

/-- The constant segment after its relocations (R65). -/
def relocated (img : List Byte) (k : Kernel) : List Byte :=
  (imgRelocs img).foldl (fun bs r =>
    bs.take r.1 ++ bytesLE 8 (imgNum bs r.1 8 + (if r.2 = 0 then k.codeVa else k.constVa)) ++ bs.drop (r.1 + 8)) k.const

/-- STATUS of a registration record. -/
def State.recStatus (s : State) (a v : Nat) : State :=
  ({ s with kernels := if v = 1 then s.kernels else s.kernels.filter (fun k => k.kref != a) } : State).deviceWrite (a + 63) [BitVec.ofNat 8 v]

/-- REGISTRATION (R352): the oldest record is checked, its image measured, copied and relocated, and its STATUS written. -/
def execRegistration (s : State) : Out :=
  match s.regCmds with
  | [] => .next s
  | a :: rest =>
    let s1 : State := { s with regCmds := rest }
    let f := fun (lo n : Nat) => bitsOf (s.num a 128) lo n
    if !s.enabled then .next s
    else if !physOk a then .next s1
    else if a % 128 ≠ 0 ∨ f 468 36 ≠ 0 ∨ f 440 8 ≠ 0 ∨ f 376 8 ≠ 0 ∨ f 288 32 ≠ 0 ∨ f 248 8 ≠ 0 ∨ f 0 192 ≠ 0 ∨ f 320 12 ≠ 0 ∨ f 384 12 ≠ 0
        ∨ f 256 32 = 0 then .next (s1.recStatus a 4)
    else
      let pasid := f 448 20
      match walkBytes s1 pasid (f 192 56) (f 256 32) (f 256 32 / 4096 + 2) with
      | none => .next (s1.recStatus a 3)
      | some (ia, iv) =>
        let s0 := s1.hubTouch pasid false iv
        let img := ia.map s0.peek
        let s2 := s0.deviceWrite (a + 64) (bytesLE 64 (sha3 img).toNat)
        if !imageOk img then .next (s2.recStatus a 2)
        else
          let k := imageKernel img a pasid (f 320 56) (f 384 56)
          match walkBytes s2 pasid k.codeVa k.codeSize (k.codeSize / 4096 + 2), walkBytes s2 pasid k.constVa k.constSize (k.constSize / 4096 + 2) with
          | some (ca, cv), some (da, dv) =>
            let s3 := ((s2.hubTouch pasid true cv).hubTouch pasid true dv).hubWrite
              (ca.zip (k.code.flatMap (fun w => bytesLE 4 w.toNat)) ++ da.zip (relocated img k))
            .next (({ s3 with kernels := s3.kernels.filter (fun x => x.kref != a) ++ [k] } : State).recStatus a 1)
          | _, _ => .next (s2.recStatus a 3)

end Sys2Proof.Machine
end

