-- ==== Sys2Proof/Machine/Queues.lean ====
section
/-! DEFINITION. Host queues: doorbells, queue control blocks, packets, WAITs, the pending table, and the completion of nodes (R235,
R299 to R305). -/

namespace Sys2Proof.Machine

/-! ### Queue control blocks (R300) -/

/-- A field of the QCB at a physical address: bits lo to lo + n - 1. -/
def State.qcb (s : State) (q lo n : Nat) : Nat := bitsOf (s.num q 64) lo n
/-- RDIDX. -/
def State.rdIdx (s : State) (q : Nat) : Nat := s.qcb q 160 32
/-- WRIDX. -/
def State.wrIdx (s : State) (q : Nat) : Nat := s.qcb q 128 32
/-- Writes RDIDX. -/
def State.setRdIdx (s : State) (q v : Nat) : State := s.deviceWrite (q + 20) (bytesLE 4 v)
/-- Writes WRIDX. -/
def State.setWrIdx (s : State) (q v : Nat) : State := s.deviceWrite (q + 16) (bytesLE 4 v)
/-- Writes STATE. -/
def State.setQState (s : State) (q v : Nat) : State :=
  let b := s.num (q + 7) 1
  s.deviceWrite (q + 7) [BitVec.ofNat 8 (b / 128 * 128 + v % 4 * 32 + b % 32)]

/-- The QCB is well formed (R300). -/
def State.qcbOk (s : State) (q : Nat) : Bool :=
  s.qcb q 248 264 == 0 && s.qcb q 124 4 == 0 && s.qcb q 52 9 == 0 && s.qcb q 16 16 == 0 && s.qcb q 64 7 == 0
    && decide ((s.wrIdx q + 2 ^ 32 - s.rdIdx q) % 2 ^ 32 ≤ 2 ^ (s.qcb q 120 4 + 4))

/-- How a probe of the table ends. -/
inductive Probe where
  | found (q : Nat) | empty | more
deriving DecidableEq, Repr

/-- Probes i, i + 1, … of the table for a queue, n of them (R300). -/
def State.probe (s : State) (pasid qnum i n : Nat) : Probe :=
  match n with
  | 0 => .more
  | k + 1 =>
    let m := (s.reg 0x108).toNat
    let q := (s.reg 0x100).toNat + 64 * (((pasid * 0x9E3779B1 + qnum) % 2 ^ 32 / 2 ^ (32 - m) + i) % 2 ^ m)
    if s.qcb q 63 1 = 0 then .empty
    else if s.qcb q 32 20 = pasid ∧ s.qcb q 0 16 = qnum then .found q
    else s.probe pasid qnum (i + 1) k

/-- A queue, wherever it lies in the table; every slot is probed at most once. -/
def State.findQueue (s : State) (pasid qnum : Nat) : Option Nat :=
  match s.probe pasid qnum 0 (2 ^ (s.reg 0x108).toNat) with
  | .found q => some q
  | .empty => none
  | .more => none

/-! ### Hardware slots (R301) -/

/-- The queue that has waited longest takes a slot that has become free. -/
def State.fillSlot (s : State) : State :=
  match s.queueWait with
  | [] => s
  | q :: r =>
    if s.slots.length < 128 then ({ s with slots := s.slots ++ [{ qcb := q }], queueWait := r } : State).setQState q 1 else s

/-- A queue gives up its slot. -/
def State.dropSlot (s : State) (q : Nat) : State := ({ s with slots := s.slots.filter (fun x => x.qcb != q) } : State).fillSlot

/-- The parked queue is the one of a QCB. -/
def ParkedWait.isOf (e : ParkedWait) (s : State) (q : Nat) : Bool := e.pasid == s.qcb q 32 20 && e.qnum == s.qcb q 0 16

/-- A queue enters STATE 3: it is logged, and read no further. -/
def State.queueError (s : State) (q : Nat) : State :=
  ({ (s.setQState q 3).log q with parked := s.parked.filter (fun e => !e.isOf s q), queueWait := s.queueWait.filter (fun x => x != q) }
    : State).dropSlot q

/-- A queue with unread packets takes a slot, or waits for one; a malformed QCB enters STATE 3 (R300, R301). -/
def State.startQueue (s : State) (q : Nat) : State :=
  if s.qcb q 61 2 = 3 then s
  else if !s.qcbOk q then s.queueError q
  else if s.rdIdx q = s.wrIdx q ∨ s.slots.any (fun x => x.qcb == q) ∨ s.queueWait.elem q ∨ s.parked.any (fun e => e.isOf s q) then s
  else ({ s with queueWait := s.queueWait ++ [q] } : State).fillSlot

/-- A walk has found the doorbell's queue. -/
def State.ring (s : State) (q : Nat) (v : Word) : State := (s.setWrIdx q (bitsOf v.toNat 16 32)).startQueue q

/-- DOORBELL (R299, R300): the front end walks the table; a doorbell that is malformed, comes before service or names no queue is
discarded and logged; one that 8 probes do not settle goes to the policy core. -/
def execDoorbell (pasid : BitVec 20) (v : BitVec 64) (s : State) : Out :=
  if v.toNat / 2 ^ 48 ≠ 0 ∨ !s.enabled then .next (s.eventOpen 3)
  else
    match s.probe pasid.toNat (bitsOf v.toNat 0 16) 0 8 with
    | .found q => .next (s.ring q v)
    | .empty => .next (s.eventOpen 3)
    | .more => .next { s with walks := s.walks ++ [(pasid.toNat, v)] }

/-- QCB_FIRMWARE_WALK (R300): the policy core goes on with the oldest walk passed to it, from the ninth probe on, until a slot ends it. -/
def execQcbFirmwareWalk (s : State) : Out :=
  match s.walks with
  | [] => .next s
  | (pasid, v) :: r =>
    let s1 := { s with walks := r }
    match s1.probe pasid (bitsOf v.toNat 0 16) 8 (2 ^ (s.reg 0x108).toNat) with
    | .found q => .next (s1.ring q v)
    | _ => .next (s1.eventOpen 3)

/-! ### The pending table and its credits (R305) -/

/-- Entries of the pending table in use: held nodes and early credits. -/
def State.pending (s : State) : Nat := (s.nodes.filter (fun e => e.2.status == .held)).length + s.credits.length

/-- A node proceeds to admission. -/
def State.nodeReady (s : State) (k : Nat) : State :=
  ({ s with serial := s.serial + 1 } : State).modNode k (fun n => { n with status := .ready, pred := 0, order := s.serial })

/-- n credits are discarded, each one logged. -/
def State.dropCredits (s : State) (n : Nat) : State :=
  match n with
  | 0 => s
  | k + 1 => (s.eventOpen 3).dropCredits k

/-- The early credits of a packet. -/
def State.creditOf (s : State) (pasid qnum index : Nat) : Option Credit :=
  s.credits.find? (fun c => c.pasid == pasid && c.qnum == qnum && c.index == index)

/-- One successor entry of a completing node: none where it needs a new entry of the pending table and has to wait, for room or, with room
false, for an earlier credit that waits. -/
def State.placeCredit (s : State) (room : Bool) (pasid : Nat) (e : Word) : Option State :=
  let qnum := bitsOf e.toNat 0 16
  let index := bitsOf e.toNat 16 32
  if e.toNat / 2 ^ 48 ≠ 0 then some (s.dropCredits 1)
  else
    match s.nodes.find? (fun n => n.2.status == .held && n.2.pasid == pasid && n.2.packet == some (qnum, index)) with
    | some n => some (if n.2.pred ≤ 1 then s.nodeReady n.1 else s.modNode n.1 (fun x => { x with pred := x.pred - 1 }))
    | none =>
      match s.findQueue pasid qnum with
      | none => some (s.dropCredits 1)
      | some q =>
        if 2 ^ 31 ≤ (index + 2 ^ 32 - s.rdIdx q) % 2 ^ 32 then some (s.dropCredits 1)
        else
          match s.creditOf pasid qnum index with
          | some _ => some { s with credits := s.credits.map (fun (c : Credit) =>
              if c.pasid == pasid && c.qnum == qnum && c.index == index then { c with count := c.count + 1 } else c) }
          | none =>
            if !room ∨ 4096 ≤ s.pending then none
            else some { s with credits := s.credits ++ [{ pasid := pasid, qnum := qnum, index := index, count := 1 }] }

/-- Places successor entries in order, those that need no new entry of a full table past those that do: the state and the entries left. -/
def State.placeCredits (s : State) (room : Bool) (pasid : Nat) (es : List Word) : State × List Word :=
  match es with
  | [] => (s, [])
  | e :: r =>
    match s.placeCredit room pasid e with
    | none =>
      let x := s.placeCredits false pasid r
      (x.1, e :: x.2)
    | some t => t.placeCredits room pasid r

/-- Places the entries of the completing nodes in their order: the state and what is left of each. -/
def State.placeLists (s : State) (room : Bool) (ls : List (Nat × Nat × List Word)) : State × List (Nat × Nat × List Word) :=
  match ls with
  | [] => (s, [])
  | (k, pasid, es) :: r =>
    let x := s.placeCredits room pasid es
    let y := x.1.placeLists (room && x.2 == []) r
    (y.1, (k, pasid, x.2) :: y.2)

/-! ### Packets (R301 to R304) -/

/-- The next packet of a queue, by its slot's 128 bytes; none where its page does not translate or lacks R. -/
def State.packetOf (s : State) (q : Nat) : Option (State × Nat × Nat) :=
  let va := s.qcb q 64 56 + 128 * (s.rdIdx q % 2 ^ (s.qcb q 120 4 + 4))
  match s.hubRead (s.qcb q 32 20) va 128 with
  | .error _ => none
  | .ok (t, p) => some (t, p, va)

/-- The packet is a version 2 NODE with predecessors that needs a new entry of a full pending table (R305). -/
def State.tableFull (s : State) (q p : Nat) : Bool :=
  nodeRecordOk p && bitsOf p 8 4 == 2 && bitsOf p 16 16 != 0 && (s.creditOf (s.qcb q 32 20) (s.qcb q 0 16) (s.rdIdx q)).isNone
    && decide (4096 ≤ s.pending)

/-- The slot can be served: it is not at a WAIT, and the table has room for its packet. -/
def State.servable (s : State) (x : QSlot) : Bool :=
  !x.waiting && (match s.packetOf x.qcb with
    | none => true
    | some (_, p, _) => !s.tableFull x.qcb p)

/-- The queue of a slot whose turn it is: slots are served round-robin, the first that can be served first (R301). -/
def State.turn (s : State) (slot : Nat) : Option Nat :=
  match s.slots[slot]? with
  | none => none
  | some x => if s.servable x && (s.slots.take slot).all (fun y => !s.servable y) then some x.qcb else none

/-- The early credits of a packet leave the table; those of a packet that takes none are discarded (R305). -/
def State.useCredits (s : State) (q : Nat) (takes : Bool) : State :=
  match s.creditOf (s.qcb q 32 20) (s.qcb q 0 16) (s.rdIdx q) with
  | none => s
  | some c =>
    let s1 : State := { s with credits := s.credits.filter (fun x => x != c) }
    if takes then s1 else s1.dropCredits c.count

/-- RDIDX has advanced: the slot goes to the end of the round, or back to the pool with STATE 0 (R301). -/
def State.nextTurn (s : State) (q : Nat) : State :=
  if s.rdIdx q = s.wrIdx q then (s.setQState q 0).dropSlot q
  else { s with slots := s.slots.filter (fun x => x.qcb != q) ++ [{ qcb := q }] }

/-- A packet has been parsed. -/
def State.parsed (s : State) (q : Nat) (takes : Bool) : State :=
  let s1 := s.useCredits q takes
  (s1.setRdIdx q (s1.rdIdx q + 1)).nextTurn q

/-- The header of a packet is well formed for its TYPE (R302). -/
def headerOk (p : Nat) : Bool :=
  let v := bitsOf p 8 4
  decide (bitsOf p 0 8 ≤ 2) && (v == 1 || v == 2) && bitsOf p 14 2 == 0 && bitsOf p 32 32 == 0
    && (bitsOf p 16 16 == 0 || (v == 2 && bitsOf p 0 8 == 1))

/-- Serves a slot whose next packet is of the kind want; a packet that cannot be read, or whose header is malformed, counts as a NOP's
turn and puts its queue in STATE 3 (R300, R302). -/
def serve (slot want : Nat) (s : State) (body : State → Nat → Nat → Nat → State) : Out :=
  match s.turn slot with
  | none => .next s
  | some q =>
    if !s.qcbOk q then (if want = 0 then .next (s.queueError q) else .next s)
    else
      match s.packetOf q with
      | none => if want = 0 then .next (s.queueError q) else .next s
      | some (t, p, va) =>
        if !headerOk p then (if want = 0 then .next (t.queueError q) else .next s)
        else if bitsOf p 0 8 = want then .next (body t q p va) else .next s

/-- NOP (R302). -/
def execNop (slot : Nat) (s : State) : Out := serve slot 0 s (fun t q _ _ => t.parsed q false)

/-- NODE (R303, R305): held while predecessors are missing, else on to admission. -/
def execNode (slot : Nat) (s : State) : Out :=
  serve slot 1 s (fun t q p va =>
    if !nodeRecordOk p then t.queueError q
    else
      let pasid := t.qcb q 32 20
      let qnum := t.qcb q 0 16
      let n : Node := { nodeOfRecord p (t.qcb q 192 56) pasid (BitVec.ofNat 64 va) with packet := some (qnum, t.rdIdx q) }
      let early := match t.creditOf pasid qnum (t.rdIdx q) with | none => 0 | some c => c.count
      let k := t.serial
      let t1 := ({ t with serial := t.serial + 1 } : State).parsed q (n.pred != 0)
      if n.pred ≤ early then
        (({ t1 with nodes := mset t1.nodes k n }).nodeReady k).dropCredits (if n.pred = 0 then 0 else early - n.pred)
      else { t1 with nodes := mset t1.nodes k { n with pred := n.pred - early } })

/-- How a read of a WAIT's doubleword ends (R304). -/
inductive WaitRead where
  | broken | absent | value (v : Nat) (s : State)

/-- The read of a WAIT's doubleword in an address space. -/
def State.waitRead (s : State) (pasid addr : Nat) : WaitRead :=
  match (if addr < 2 ^ 56 ∧ apertureOf addr = .global then walk s 4 pasid addr else .error .broken) with
  | .error .notPresent => .absent
  | .error .broken => .broken
  | .ok _ =>
    match s.hubRead pasid addr 8 with
    | .error _ => .broken
    | .ok (t, v) => .value v t

/-- A WAIT at the head of its queue reads its doubleword (R304). -/
def State.tryWait (s : State) (q p : Nat) : State :=
  match s.waitRead (s.qcb q 32 20) (bitsOf p 64 64) with
  | .broken => s.queueError q
  | .absent => (({ s with parked := s.parked ++ [{ qcb := q, pasid := s.qcb q 32 20, qnum := s.qcb q 0 16, addr := bitsOf p 64 64,
                                                   due := s.cycle + 2 ^ 20 }] } : State).setQState q 2).dropSlot q
  | .value v t =>
    if v = bitsOf p 128 64 then t.parsed q false
    else if 2 ^ 63 ≤ v then t.queueError q
    else { t with slots := t.slots.map (fun (x : QSlot) =>
      if x.qcb == q then { x with waiting := true, due := false, since := t.cycle } else x) }

/-- WAIT (R304). -/
def execWait (slot : Nat) (s : State) : Out :=
  serve slot 2 s (fun t q p _ => if bitsOf p 64 3 ≠ 0 ∨ bitsOf p 192 320 ≠ 0 then t.queueError q else t.tryWait q p)

/-- WAIT_REREAD (R304): every 4,096 cycles, or after a mirror write to its line; nothing before. -/
def execWaitReread (slot : Nat) (s : State) : Out :=
  match s.slots[slot]? with
  | none => .next s
  | some x =>
    if x.waiting && (x.due || decide (x.since + 4096 ≤ s.cycle)) then
      match s.packetOf x.qcb with
      | none => .next (s.queueError x.qcb)
      | some (t, p, _) => .next (t.tryWait x.qcb p)
    else .next s

/-- WAIT_PARKED_REWALK (R304): the policy core walks the address of a parked WAIT once a covering invalidation has been counted or 2^20
cycles have passed; where that succeeds, the queue re-enters through the walk of R300, and is gone where that finds it no more. Nothing
before. -/
def execWaitParkedRewalk (qcb : Nat) (s : State) : Out :=
  match s.parked.find? (fun e => e.qcb == qcb && decide (e.due ≤ s.cycle)) with
  | none => .next s
  | some e =>
    let gone : State := { s with parked := s.parked.filter (fun x => x != e) }
    match s.waitRead e.pasid e.addr, s.findQueue e.pasid e.qnum with
    | .absent, _ => .next { s with parked := s.parked.map (fun x => if x == e then { e with due := s.cycle + 2 ^ 20 } else x) }
    | _, none => .next (gone.eventOpen 3)
    | .broken, some q => .next (gone.queueError q)
    | .value _ _, some q => .next ((if s.qcb q 61 2 = 2 then gone.setQState q 0 else gone).startQueue q)

/-! ### Completion of a node (R235) -/

/-- Every workgroup of the node has ended, and so has all engine work of theirs; nothing of it is left to place. -/
def State.nodeOver (s : State) (k : Nat) : Bool :=
  let n := s.node k
  n.status == .placed && decide (n.grid ≤ n.next) && n.flushed == []
    && s.wgs.all (fun g => g.2.node != k || (g.2.status == .ended && g.2.cores == []))

/-- A release by dispatch at system scope (R235): the dirty bytes of every cache go home. -/
def State.publish (s : State) : State :=
  let s1 := s.l1.foldl (fun s e => e.2.foldl (fun s l => s.pushL1 e.1 l.idx) s) s
  s1.cc.foldl (fun s e => e.2.foldl (fun s l => s.sendHome e.1 l.idx) s) s1

/-- The mirror word (R235): the value with bit 63 set after a fault; skipped and logged where it cannot be written. WAITs on its line
read again (R304). -/
def State.mirror (s : State) (n : Node) : State :=
  if n.maddr = 0 then s
  else
    match hubReach s n.pasid n.maddr.toNat 8 .store 2 with
    | .error _ => s.log n.source.toNat
    | .ok r =>
      let v := n.mval.toNat + (if n.faulted then 2 ^ 63 else 0)
      let line := r.flats.headD 0 / 128
      let t := (s.hubTouch n.pasid true r.vias).hubWrite (r.flats.zip (bytesLE 8 v))
      let on := fun (q : Nat) => match s.packetOf q with
        | none => false
        | some (_, p, _) =>
          match hubReach s (s.qcb q 32 20) (bitsOf p 64 64) 8 .load 2 with
          | .error _ => false
          | .ok w => w.flats.headD 0 / 128 == line
      { t with slots := t.slots.map (fun (x : QSlot) => if x.waiting && on x.qcb then { x with due := true } else x) }

/-- A node that is over leaves the device: its argument copy's pages return, and its workgroups are forgotten (R337). -/
def State.forget (s : State) (k : Nat) : State :=
  let s1 := s.freePages 0 k
  { s1 with nodes := merase s1.nodes k, wgs := s1.wgs.filter (fun g => g.2.node != k),
            crediting := s1.crediting.filter (fun e => e.1 != k) }

/-- NODE_COMPLETE (R235, R305): the node's writes are released, successors take their credits in order, then the mirror word is written; the
credits that need an entry of the full pending table wait, behind those of earlier nodes, and so does the mirror write. Nothing while the
node is not over. -/
def execNodeComplete (node : Nat) (s : State) : Out :=
  let n := s.node node
  let place := fun (t : State) =>
    let r := t.placeLists true t.crediting
    let u := { r.1 with crediting := r.2 }
    if r.2.any (fun e => e.1 == node && e.2.2 == []) then (u.mirror n).forget node else u
  if !s.nodeOver node then .next s
  else if s.crediting.any (fun e => e.1 == node) then .next (place s)
  else
    let p := s.publish
    match p.hubRead n.pasid n.succ.toNat (8 * n.nsucc) with
    | .error _ => .next (((p.log n.succ.toNat).mirror n).forget node)
    | .ok (t, v) =>
      .next (place { t with crediting := t.crediting
        ++ [(node, n.pasid, (List.range n.nsucc).map (fun i => BitVec.ofNat 64 (bitsOf v (64 * i) 64)))] })

end Sys2Proof.Machine
end

