-- ==== Sys2Proof/Machine/Residual.lean ====
section
/-! DEFINITION. Residual code (R286 to R292): static values, folding, branch resolution, unrolling, and the words and map that come
of them. Words are named by their index in the code section. -/

namespace Sys2Proof.Machine

/-! ### Words of the original code -/

/-- What the Jig is given: the code, and what ULDA and ULDK read statically. -/
structure JigIn where
  words  : List Nat
  entry  : Nat
  args   : Nat
  /-- key offset and value after class rounding (R293) -/
  keys   : List (Nat × Word)
  const  : List Byte
  relocs : List Nat
deriving DecidableEq, Repr

/-- Word i. -/
def JigIn.at (j : JigIn) (i : Nat) : Nat := j.words.getD i 0
/-- MAJ of word i. -/
def JigIn.maj (j : JigIn) (i : Nat) : Nat := j.at i / 2 ^ 26
/-- Word i encodes an instruction. -/
def JigIn.ok (j : JigIn) (i : Nat) : Bool :=
  match decode (BitVec.ofNat 32 (j.at i)) with
  | .ok _ => true
  | .error _ => false
/-- Word i is a hint word (R45). -/
def JigIn.hint (j : JigIn) (i : Nat) : Bool := decide (i < j.words.length) && j.maj i == 0x3F

/-- The first word of the hint group that ends at word i. -/
def JigIn.head (j : JigIn) (i : Nat) : Nat :=
  match i with
  | 0 => 0
  | k + 1 => if j.hint k then j.head k else k + 1

/-- The hint words of word i's group. -/
def JigIn.hints (j : JigIn) (i : Nat) : List Nat := (List.range (i - j.head i)).map (fun k => j.at (j.head i + k))

/-- The HIMM payloads of word i's group. -/
def JigIn.himms (j : JigIn) (i : Nat) : List (BitVec 24) :=
  ((j.hints i).filter (fun w => bitsOf w 24 2 == 0)).map (fun w => BitVec.ofNat 24 w)

/-- A LOOP word, and the index of its last body word. -/
def JigIn.loop (j : JigIn) (i : Nat) : Option Nat :=
  if j.ok i && decide (i < j.words.length) && j.maj i == 0x28 then some (i + bitsOf (j.at i) 5 12) else none

/-- The LOOP words. -/
def JigIn.loops (j : JigIn) : List Nat := (List.range j.words.length).filter (fun i => (j.loop i).isSome)

/-- The hint words of the group pass R43, and none is an HMOD or the END of a LOOP, whose back edge would clear its state (R47); himm says
whether the instruction takes a HIMM. -/
def JigIn.groupOk (j : JigIn) (i : Nat) (himm : Bool) : Bool :=
  (List.range (i - j.head i)).all (fun k => j.ok (j.head i + k) && !j.loops.any (fun l => j.loop l == some (j.head i + k))) && (j.hints i).all (fun w => bitsOf w 24 2 != 2)
    && decide ((j.himms i).length ≤ 2) && decide (((j.hints i).filter (fun w => bitsOf w 24 2 == 1)).length ≤ 1)
    && (himm || j.himms i == [])

/-- A signed field as an index relative to word i; none where it leaves the code. -/
def JigIn.target (j : JigIn) (i n : Nat) : Option Nat :=
  let t : Int := i + (BitVec.ofNat n (j.at i % 2 ^ n)).toInt
  if 0 ≤ t ∧ t < j.words.length then some t.toNat else none

/-- The direct target of a BR, BRN, CALL, BRUZ or BRUNZ word. -/
def JigIn.branch (j : JigIn) (i : Nat) : Option (Option Nat) :=
  if !j.ok i then none
  else if j.maj i = 0x20 then some (j.target i 21)
  else if j.maj i = 0x21 then some (j.target i 17)
  else none

/-- A direct target lies inside the group of word i, past a word of it that satisfies a condition. -/
def JigIn.passes (j : JigIn) (i : Nat) (q : Nat → Bool) : Bool :=
  (List.range j.words.length).any (fun k => match j.branch k with
    | some (some t) => decide (t ≤ i) && (List.range (t - j.head i)).any (fun h => q (j.at (j.head i + h)))
    | _ => false)

/-- A direct target skips a HIMM of word i's group: the lanes that come that way have no such immediate. DEDUCED (log entry 38): by R286
such a word keeps its meaning for both. -/
def JigIn.entered (j : JigIn) (i : Nat) : Bool := j.himms i != [] && j.passes i (fun w => bitsOf w 24 2 == 0)

/-- The original word that a word which replaces a group stands for (R295): the group's first, or the instruction where a direct target
lies past the first. -/
def JigIn.label (j : JigIn) (i : Nat) : Nat := if j.passes i (fun _ => true) then i else j.head i

/-! ### Folding (R287, R289) -/

/-- The value a word folds to, from the static values of uniform registers: UALU, UIMM, ULDA and ULDK with S = 1. -/
def JigIn.fold (j : JigIn) (i : Nat) (env : Nat → Option Word) : Option (Nat × Word) :=
  let w := j.at i
  let m := j.maj i
  let h := j.himms i
  let src := fun (a : Nat) =>
    if a = 0x70 then some (0 : Word) else if a = 0x7B then some 1
    else if a = 0x7C then (if h = [] then none else some (himmValue h (if m = 0x11 then none else some (BitVec.ofNat 10 w))))
    else if 0x50 ≤ a ∧ a < 0x70 then env (a - 0x50) else none
  let a := bitsOf w 13 7
  let d := bitsOf w 20 5
  if !(j.ok i) || j.entered i || bitsOf w 25 1 != 1 || decide (j.words.length ≤ i) then none
  else if m = 0x11 then
    let b := bitsOf w 6 7
    if !j.groupOk i (a == 0x7C || b == 0x7C) then none
    else
      match src a, src b with
      | some x, some y =>
        (match w % 64 with
         | 0 => some (d, fnAdd x y) | 1 => some (d, fnSub x y) | 2 => some (d, fnMul x y) | 3 => some (d, fnMin x y)
         | 4 => some (d, fnMax x y) | 5 => some (d, fnAnd x y) | 6 => some (d, fnOr x y) | 7 => some (d, fnShl x y)
         | 8 => some (d, fnShr x y) | 9 => some (d, flagWord (isEq x y)) | 10 => some (d, flagWord (isLt x y))
         | 11 => some (d, flagWord (isLtu x y)) | 12 => some (d, fnDivu x y) | _ => none)
      | _, _ => none
  else if m = 0x12 then
    let v := himmValue h (some (BitVec.ofNat 10 w))
    if !j.groupOk i true then none
    else
      match src a with
      | none => none
      | some x =>
        (match bitsOf w 10 3 with
         | 0 => some (d, fnAdd x v) | 1 => some (d, fnAnd x v)
         | 2 => if v.toNat < 64 then some (d, x <<< v.toNat) else none
         | 3 => if v.toNat < 64 then some (d, x >>> v.toNat) else none
         | 4 => some (d, flagWord (isEq x v)) | 5 => some (d, flagWord (isLt x v)) | _ => none)
  else if m = 0x13 then
    if !j.groupOk i true then none
    else
      match src a with
      | none => none
      | some x =>
        let o : Int := (x.toNat : Int) + 8 * (match h with
          | [] => ((w % 1024 : Nat) : Int)
          | h => (himmValue h (some (BitVec.ofNat 10 w))).toInt)
        if o < 0 ∨ o % 8 ≠ 0 then none
        else if bitsOf w 10 3 = 0 then
          (if o.toNat + 8 ≤ j.args then (mget j.keys o.toNat).map (fun v => (d, v)) else none)
        else if bitsOf w 10 3 = 1 then
          (if o.toNat + 8 ≤ cdiv j.const.length 8 * 8 ∧ !j.relocs.elem o.toNat then
            some (d, BitVec.ofNat 64 (natLE ((List.range 8).map (fun k => j.const.getD (o.toNat + k) 0)))) else none)
        else none
  else none

/-- The instruction word of the group that starts at word i. -/
def JigIn.tail (j : JigIn) (i fuel : Nat) : Nat :=
  match fuel with
  | 0 => i
  | f + 1 => if j.hint i then j.tail (i + 1) f else i

/-- The launch prefix from word i on: where it ends, and the uniform registers it leaves (R288). -/
def JigIn.prefix (j : JigIn) (i : Nat) (env : SMap Word) (fuel : Nat) : Nat × SMap Word :=
  match fuel with
  | 0 => (i, env)
  | f + 1 =>
    let k := j.tail i j.words.length
    match j.fold k (fun r => some (mgetD env r 0)) with
    | none => (i, env)
    | some (d, v) => j.prefix (k + 1) (mput 0 env d v) f

/-! ### Static values and edges (R288, R290) -/

/-- What the Jig has found: where the prefix ends, the registers it leaves, the folded words, the resolved branches with their chosen
successors, the words that edges reach, and the words kept. -/
structure JigPlan where
  start    : Nat
  init     : SMap Word
  folded   : SMap Word := []
  resolved : SMap Nat := []
  reached  : List Nat := []
  kept     : List Nat := []
deriving DecidableEq, Repr

/-- The register word i writes, if it is one of the kinds R288 lists. -/
def JigIn.writes (j : JigIn) (i : Nat) : Option Nat :=
  let w := j.at i
  if !j.ok i then none
  else
    match j.maj i with
    | 0x11 => some (bitsOf w 20 5)
    | 0x12 => some (bitsOf w 20 5)
    | 0x13 => some (bitsOf w 20 5)
    | 0x14 => some (bitsOf w 20 5)
    | 0x35 => if bitsOf w 25 1 = 0 then some (bitsOf w 8 5) else none
    | 0x36 => some (bitsOf w 21 5 + 1)
    | 0x3A => some (bitsOf w 21 5)
    | _ => none

/-- LAND words. -/
def JigIn.lands (j : JigIn) : List Nat := (List.range j.words.length).filter (fun i => j.at i == 0x8BFE1C03)
/-- Words that follow a CALL or CALLI. -/
def JigIn.returns (j : JigIn) : List Nat :=
  (List.range j.words.length).filter (fun i => match i with
    | 0 => false
    | k + 1 => j.ok k && ((j.maj k == 0x20 && bitsOf (j.at k) 21 2 == 2) || (j.maj k == 0x22 && j.at k % 64 == 1)))

/-- The control edges out of word i (R288), a resolved branch keeping its chosen one (R290). An HMOD falls through whatever its payload:
one that R51 forbids faults at its group's instruction. -/
def JigIn.edges (j : JigIn) (p : JigPlan) (i : Nat) : List Nat :=
  let w := j.at i
  let back := (j.loops.filter (fun l => j.loop l == some i)).flatMap (fun l => [l + 1, i + 1])
  let own :=
    match mget p.resolved i with
    | some c => [c]
    | none =>
      if !j.ok i && !(j.hint i && bitsOf w 24 2 == 2) then []
      else
        match j.maj i with
        | 0x20 => (match j.branch i with | some (some t) => [t] | _ => [])
            ++ (if bitsOf w 23 3 = 0 && bitsOf w 21 2 != 1 then [] else [i + 1])
        | 0x21 => (match j.branch i with | some (some t) => [t] | _ => []) ++ [i + 1]
        | 0x22 => (match w % 64 with
          | 0 => j.lands
          | 1 => j.lands
          | 2 => j.returns
          | _ => [i + 1])
        | 0x23 => if w % 64 = 2 then [] else [i + 1]
        | 0x24 => if w % 64 = 0 then j.lands else [i + 1]
        | 0x28 => (match j.loop i with | some e => [i + 1, e + 1] | none => [i + 1])
        | 0x29 => if bitsOf w 18 3 = 0 then
            (j.loops.filter (fun l => bitsOf (j.at l) 24 2 == bitsOf w 21 2)).filterMap (fun l => (j.loop l).map (fun e => e + 1))
              ++ (if bitsOf w 23 3 = 0 then [] else [i + 1])
          else [i + 1]
        | 0x38 => if bitsOf w 24 2 = 2 then [] else [i + 1]
        | _ => [i + 1]
  (own ++ back).filter (fun t => decide (t < j.words.length))

/-- The words that edges reach from a list of words without passing the word avoid. -/
def JigIn.reach (j : JigIn) (p : JigPlan) (avoid : Nat) (seen todo : List Nat) (fuel : Nat) : List Nat :=
  match fuel with
  | 0 => seen
  | f + 1 =>
    match todo with
    | [] => seen
    | i :: r =>
      if seen.elem i || i == avoid then j.reach p avoid seen r f
      else j.reach p avoid (i :: seen) (j.edges p i ++ r) f

/-- Enough fuel: every word is put on the list once for each edge. -/
def JigIn.fuel (j : JigIn) : Nat := (j.words.length + 2) * (j.words.length + 4)

/-- The words reached from word i. -/
def JigIn.from' (j : JigIn) (p : JigPlan) (i avoid : Nat) : List Nat :=
  j.reach p avoid [] (if i < j.words.length then [i] else []) j.fuel

/-- The words kept whatever edges reach them: LAND (R290) and the SYS words (R290, R373). -/
def JigIn.always (j : JigIn) (i : Nat) : Bool := j.at i == 0x8BFE1C03 || (j.ok i && j.maj i == 0x38)

/-- The words kept: those reached from the entry, LAND and SYS words, the END of every LOOP kept (R290); not the prefix. -/
def JigIn.keeps (j : JigIn) (p : JigPlan) (r : List Nat) : List Nat :=
  let ends := (j.loops.filter (fun l => r.elem l)).filterMap j.loop
  (List.range j.words.length).filter (fun i =>
    (r.elem i || j.always i || ends.elem i) && !(decide (j.entry ≤ i ∧ i < p.start)))

/-- The static value of a uniform register at word i (R288). -/
def JigIn.static (j : JigIn) (p : JigPlan) (i r : Nat) : Option Word :=
  match p.kept.filter (fun k => j.writes k == some r) with
  | [] => some (mgetD p.init r 0)
  | [d] =>
    match mget p.folded d with
    | none => none
    | some v => if d ≠ i ∧ !((j.from' p p.start d).elem i) then some v else none
  | _ => none

/-- The HIMM words and the field for an immediate of a 10-bit field (R57); none where it needs more than two. -/
def splitImm (v : Word) : Option (List Nat × Nat) :=
  let n := v.toInt
  if -512 ≤ n ∧ n < 512 then some ([], v.toNat % 1024)
  else if -(2 ^ 33) ≤ n ∧ n < 2 ^ 33 then some ([v.toNat / 2 ^ 10 % 2 ^ 24], v.toNat % 1024)
  else if -(2 ^ 57) ≤ n ∧ n < 2 ^ 57 then some ([v.toNat / 2 ^ 34 % 2 ^ 24, v.toNat / 2 ^ 10 % 2 ^ 24], v.toNat % 1024)
  else none

/-- A branch leaves the body of a LOOP that holds it (R277, R290). -/
def JigIn.leavesLoop (j : JigIn) (i t : Nat) : Bool :=
  j.loops.any (fun l => match j.loop l with
    | none => false
    | some e => decide (l < i ∧ i ≤ e) && !(decide (l < t ∧ t ≤ e)))

/-- The chosen successor of a BRUZ or BRUNZ word that is resolved (R290). -/
def JigIn.resolves (j : JigIn) (p : JigPlan) (i : Nat) : Option Nat :=
  if j.ok i && j.maj i == 0x21 && bitsOf (j.at i) 25 1 == 1 && !j.entered i then
    let c := bitsOf (j.at i) 18 7
    let v := if c = 0x70 then some (0 : Word) else if c = 0x7B then some 1
      else if c = 0x7C then (if j.himms i = [] then none else some (himmValue (j.himms i) none))
      else if 0x50 ≤ c ∧ c < 0x70 then j.static p i (c - 0x50) else none
    match v, j.branch i with
    | some v, some (some t) =>
      if !j.groupOk i (c == 0x7C) || j.leavesLoop i t then none
      else some (if (v == 0) == (bitsOf (j.at i) 17 1 == 0) then t else i + 1)
    | _, _ => none
  else none

/-- What the edges of a plan reach, and the words it keeps. -/
def JigIn.settle (j : JigIn) (p : JigPlan) : JigPlan :=
  let r := j.from' p j.entry j.words.length
  { p with reached := r, kept := j.keeps p r }

/-- One round: words folded and branches resolved under the values found so far. -/
def JigIn.round (j : JigIn) (p : JigPlan) : JigPlan :=
  let folded := p.kept.filterMap (fun i => match j.fold i (j.static p i) with
    | none => none
    | some (_, v) => if (splitImm v).isSome then some (i, v) else none)
  let resolved := p.kept.filterMap (fun i => (j.resolves p i).map (fun c => (i, c)))
  j.settle { p with folded := folded, resolved := resolved }

/-- Rounds until nothing changes. -/
def JigIn.rounds (j : JigIn) (p : JigPlan) (fuel : Nat) : JigPlan :=
  match fuel with
  | 0 => p
  | f + 1 => let q := j.round p; if q = p then p else j.rounds q f

/-- The plan of a kernel for its keys. -/
def JigIn.plan (j : JigIn) : JigPlan :=
  let pre := j.prefix j.entry [] j.words.length
  j.rounds (j.settle { start := pre.1, init := pre.2 }) (2 * j.words.length + 2)

/-! ### Emission (R289 to R292, R295) -/

/-- A residual word before its place is known. -/
structure Item where
  word : Nat
  orig : Nat
  ins  : Bool := false
  wrap : Bool := false
  copy : Option (Nat × Nat) := none
  /-- the original word its displacement or END names -/
  goal   : Option Nat := none
deriving DecidableEq, Repr

/-- The word is the END of a LOOP that stays one; unrolled LOOPs are given. -/
def JigIn.isEnd (j : JigIn) (p : JigPlan) (unrolled : List Nat) (i : Nat) : Bool :=
  j.loops.any (fun l => p.kept.elem l && !unrolled.elem l && j.loop l == some i)

/-- A word kept is emitted: not the END of an unrolled LOOP that no edge reaches, which only a LOOP that stays one needs (R290). -/
def JigIn.emits (j : JigIn) (p : JigPlan) (unrolled : List Nat) (i : Nat) : Bool :=
  p.kept.elem i && (p.reached.elem i || j.always i || j.isEnd p unrolled i)

/-- The instruction whose group hint word i belongs to is replaced, so that its hint words go. -/
def JigIn.hintGoes (j : JigIn) (p : JigPlan) (i : Nat) : Bool :=
  let k := j.tail i j.words.length
  (mget p.folded k).isSome || (mget p.resolved k).isSome

/-- The items of word i, words after it given as they are emitted (R289, R290). -/
def JigIn.emit (j : JigIn) (p : JigPlan) (unrolled : List Nat) (i : Nat) (rest : List Item) : List Item :=
  let w := j.at i
  let plain : Item := { word := w, orig := i }
  if !j.emits p unrolled i then rest
  else if j.hint i && j.hintGoes p i then rest
  else
    match mget p.folded i with
    | some v =>
      (match splitImm v with
       | none => plain :: rest
       | some (hs, f) =>
         let ws := hs.map (fun h => 0xFC000000 + h) ++ [0x480E0000 + bitsOf w 20 5 * 2 ^ 20 + f]
         ws.map (fun x => { word := x, orig := j.label i, ins := true }) ++ rest)
    | none =>
      match mget p.resolved i with
      | some c =>
        let gone := decide (i < c) && rest.all (fun x => decide (c ≤ x.orig))
        if gone then (if j.isEnd p unrolled i then { word := 0x8BFE1C03, orig := j.label i } :: rest else rest)
        else { word := 0x80000000, orig := j.label i, ins := true, goal := some c } :: rest
      | none =>
        match j.branch i with
        | some t => { plain with goal := t } :: rest
        | none => plain :: rest

/-- The items of some words in order, before the items that follow them. -/
def JigIn.emitAll (j : JigIn) (p : JigPlan) (unrolled : List Nat) (is : List Nat) (rest : List Item) : List Item :=
  is.foldr (fun i rest => j.emit p unrolled i rest) rest

/-- The static count of a LOOP word whose hint group is in order. -/
def JigIn.count (j : JigIn) (p : JigPlan) (l : Nat) : Option Word :=
  let c := bitsOf (j.at l) 17 7
  if !j.groupOk l (c == 0x7C) then none
  else if c = 0x70 then some 0 else if c = 0x7B then some 1
  else if c = 0x7C then (if j.himms l = [] || j.entered l then none else some (himmValue (j.himms l) none))
  else if 0x50 ≤ c ∧ c < 0x70 then j.static p l (c - 0x50) else none

/-- The body of a LOOP as items. -/
def JigIn.body (j : JigIn) (p : JigPlan) (unrolled : List Nat) (l : Nat) : List Item :=
  match j.loop l with
  | none => []
  | some e => j.emitAll p unrolled ((List.range (e - l)).map (fun k => l + 1 + k)) []

/-- A LOOP is unrolled (R291). DEDUCED (log entry 38): not one whose END is a hint word, since a copy's next word would take the hint, where
the back edge clears it (R47, R286). -/
def JigIn.unrolls (j : JigIn) (p : JigPlan) (l : Nat) : Option Nat :=
  match j.loop l, j.count p l with
  | some e, some c =>
    let w := j.at l
    let is := (List.range (e - l)).map (fun k => l + 1 + k)
    let items := j.body p [l] l
    if p.kept.elem l && w % 2 == 1 && bitsOf w 1 1 == 0 && bitsOf w 2 3 == 0 && decide (1 ≤ c.toNat ∧ c.toNat ≤ 16)
        && decide (1 ≤ items.length ∧ items.length ≤ 256) && decide (c.toNat * items.length ≤ 4093)
        && is.all (fun i => !j.ok i || (!([0x28, 0x20, 0x22, 0x23, 0x24, 0x29].elem (j.maj i))
          && (j.maj i != 0x21 || (mget p.resolved i).isSome || (j.resolves p i).isSome)))
        && !j.hint e
    then some c.toNat else none
  | _, _ => none

/-- All items: unrolled LOOPs become wrappers, other LOOPs with a static count take it as a constant (R291). -/
def JigIn.items (j : JigIn) (p : JigPlan) (unrolled : List Nat) (i fuel : Nat) : List Item :=
  match fuel with
  | 0 => []
  | f + 1 =>
    if j.words.length ≤ i then []
    else
      let k := j.tail i j.words.length
      match (if p.kept.elem k then j.loop k else none) with
      | some e =>
        let lv := bitsOf (j.at k) 24 2
        let c := j.count p k
        let sched := ((List.range (k - i)).filter (fun h => bitsOf (j.at (i + h)) 24 2 == 1)).map (fun h =>
          ({ word := j.at (i + h), orig := i + h } : Item))
        if unrolled.elem k then
          let n := (c.getD 1).toNat
          let copies := (List.range n).flatMap (fun q => (j.body p unrolled k).map (fun x => { x with copy := some (lv, q) }))
          sched ++ [{ word := 0xFC000000 + n, orig := if sched = [] then i else k, ins := true, wrap := true },
              { word := 0xA0000000 + lv * 2 ^ 24 + 0x7C * 2 ^ 17 + 1, orig := k, wrap := true, goal := some e }]
            ++ copies ++ j.items p unrolled (e + 1) f
        else
          let own := (List.range (k - i)).map (fun h => ({ word := j.at (i + h), orig := i + h } : Item))
          let base := j.at k - bitsOf (j.at k) 17 7 * 2 ^ 17
          let keep := own ++ [{ word := j.at k, orig := k, goal := some e }]
          let head :=
            match c with
            | none => keep
            | some v =>
              if v = 0 then sched ++ [{ word := base + 0x70 * 2 ^ 17, orig := k, goal := some e }]
              else if v = 1 then sched ++ [{ word := base + 0x7B * 2 ^ 17, orig := k, goal := some e }]
              else if -(2 ^ 47) ≤ v.toInt ∧ v.toInt < 2 ^ 47 then
                let hs := if -(2 ^ 23) ≤ v.toInt ∧ v.toInt < 2 ^ 23 then [v.toNat % 2 ^ 24] else [v.toNat / 2 ^ 24 % 2 ^ 24, v.toNat % 2 ^ 24]
                sched ++ hs.map (fun h => ({ word := 0xFC000000 + h, orig := if sched = [] then i else k, ins := true } : Item))
                  ++ [{ word := base + 0x7C * 2 ^ 17, orig := k, goal := some e }]
              else keep
          head ++ j.items p unrolled (k + 1) f
      | none => j.emitAll p unrolled ((List.range (Nat.min (k + 1) j.words.length - i)).map (fun h => i + h))
          (j.items p unrolled (k + 1) f)

/-- The place of the first item from a position on that satisfies a condition. -/
def placeOf (is : List Item) (q : Item → Bool) (n : Nat) : Option Nat :=
  match is with
  | [] => none
  | x :: r => if q x then some n else placeOf r q (n + 1)

/-- The place of the last item that satisfies a condition. -/
def lastPlace (is : List Item) (q : Item → Bool) (n : Nat) : Option Nat :=
  match is with
  | [] => none
  | x :: r =>
    match lastPlace r q (n + 1) with
    | some k => some k
    | none => if q x then some n else none

/-- An item at its place: displacement or END filled in; none where it does not fit or names no residual word (R292). A word of a copy keeps
to its copy. -/
def Item.place (all : List Item) (x : Item) (n : Nat) : Option Nat :=
  match x.goal with
  | none => some x.word
  | some t =>
    if x.word / 2 ^ 26 = 0x28 then
      match lastPlace all (fun y => decide (y.orig ≤ t)) 0 with
      | none => none
      | some e => if n < e ∧ e - n ≤ 4095 then some (x.word - bitsOf x.word 5 12 * 32 + (e - n) * 32) else none
    else
      match placeOf all (fun y => decide (t ≤ y.orig) && y.copy == x.copy) 0 with
      | none => none
      | some e =>
        let b := if x.word / 2 ^ 26 = 0x20 then 21 else 17
        let d : Int := (e : Int) - n
        if -((2 ^ (b - 1) : Nat) : Int) ≤ d ∧ d < ((2 ^ (b - 1) : Nat) : Int) then
          some (x.word - x.word % 2 ^ b + (BitVec.ofInt b d).toNat)
        else none

/-- The map entry of an item (R295). -/
def Item.entry (x : Item) : Word :=
  BitVec.ofNat 64 (4 * x.orig + (match x.copy with
    | none => 0
    | some (lv, c) => c * 2 ^ 31 + 2 ^ 35 + lv * 2 ^ 36) + (if x.wrap then 2 ^ 38 else 0) + (if x.ins then 2 ^ 39 else 0))

/-- What the Jig makes: words, map, registers, and where a launch starts. -/
structure Residual where
  words  : List IWord
  map    : List Word
  init   : SMap Word
  start  : Nat
  origin : Nat
deriving DecidableEq, Repr

/-- A direct branch from outside into the body of an unrolled LOOP: no residual word stands for its target (R292). -/
def JigIn.strays (j : JigIn) (unrolled : List Nat) (x : Item) : Bool :=
  x.copy.isNone && x.word / 2 ^ 26 != 0x28 && (match x.goal with
    | none => false
    | some t => unrolled.any (fun l => match j.loop l with
      | none => false
      | some e => decide (l < t ∧ t ≤ e)))

/-- The residual code with some LOOPs unrolled, where it meets R292: sizes, ENDs and displacements, and a residual word for the target of
every direct branch: none stands for a word of the prefix, nor, for a branch from outside, for one of an unrolled body. -/
def JigIn.layout (j : JigIn) (p : JigPlan) (unrolled : List Nat) : Option Residual :=
  let all := j.items p unrolled 0 (j.words.length + 1)
  let ws := ((List.range all.length).zip all).map (fun e => e.2.place all e.1)
  let inPrefix := all.any (fun x => match x.goal with
    | some t => decide (j.entry ≤ t ∧ t < p.start)
    | none => false)
  if ws.any (fun w => w.isNone) || all.any (j.strays unrolled) || inPrefix || decide (4 * j.words.length < all.length) || decide (16384 < all.length) then none
  else
    some { words := ws.map (fun w => BitVec.ofNat 32 (w.getD 0)), map := all.map Item.entry, init := p.init,
           start := (placeOf all (fun x => decide (p.start ≤ x.orig)) 0).getD all.length, origin := p.start }

/-- Undoes unrolls, the last made first, until the limits hold (R292). -/
def JigIn.fit (j : JigIn) (p : JigPlan) (unrolled : List Nat) (fuel : Nat) : Option Residual :=
  match j.layout p unrolled with
  | some r => some r
  | none =>
    match fuel, unrolled with
    | _, [] => none
    | 0, _ => none
    | f + 1, us => j.fit p us.dropLast f

/-- The residual code of a kernel for its keys; none for an unspecialisable kernel (R292). -/
def JigIn.residual (j : JigIn) : Option Residual :=
  if (List.range j.words.length).any (fun i => j.branch i == some none || (match j.loop i with
      | some e => decide (j.words.length ≤ e)
      | none => false)) then none
  else
    let p := j.plan
    let us := j.loops.filter (fun l => (j.unrolls p l).isSome)
    j.fit p us us.length

/-- The instruction carries a mark that lets the Jig act: S or UN (R35). -/
def marked : Instr → Bool
  | .uadd m _ _ _ | .usub m _ _ _ | .umul m _ _ _ | .umin m _ _ _ | .umax m _ _ _ | .uand m _ _ _ | .uor m _ _ _ | .ushl m _ _ _
  | .ushr m _ _ _ | .uceq m _ _ _ | .uclt m _ _ _ | .ucltu m _ _ _ | .udivu m _ _ _ | .uaddi m _ _ _ | .uandi m _ _ _
  | .ushli m _ _ _ | .ushri m _ _ _ | .uceqi m _ _ _ | .uclti m _ _ _ | .ulda m _ _ _ | .uldk m _ _ _ | .bruz m _ _
  | .brunz m _ _ => m == 1
  | .loop _ _ _ _ _ u => u == 1
  | _ => false

/-- A kernel with no keys and no marks: its residual code is the original word for word, and every PC of it is both residual and
original (the runs of R320, R400 and R404). -/
def Kernel.plain (k : Kernel) : Bool :=
  k.keys == [] && k.code.all (fun w => match decode w with
    | .ok i => !marked i
    | .error _ => true)

end Sys2Proof.Machine
end

