-- ==== Sys2Proof/Machine/Launch.lean ====
section
/-! DEFINITION. Regions and admission (R306 to R308, R334 to R337, R341), argument copies (R293, R308), and the Jig's cache (R294 to
R297). -/

namespace Sys2Proof.Machine

/-! ### Sizes of a workgroup (R30, R310, R174) -/

/-- The resident limit: warps of a kernel on a core (R30). -/
def Kernel.limit (k : Kernel) : Nat := Nat.min 32 (1536 / (k.named + 16))
/-- Warps of a workgroup. -/
def Node.warps (n : Node) : Nat := cdiv n.wgsize 32
/-- Cores of a workgroup. -/
def Node.coreCount (n : Node) : Nat := cdiv n.warps n.kernel.limit
/-- Warps on its last core. -/
def Node.remainder (n : Node) : Nat := n.warps - (n.coreCount - 1) * n.kernel.limit
/-- Scratch pages of a workgroup. -/
def Node.scratchPages (n : Node) : Nat := n.coreCount * (n.kernel.scratch / 4096)
/-- Pages of a private base. -/
def Node.privPages (n : Node) : Nat := cdiv (n.warps * 32 * n.kernel.priv) 4096
/-- Pages of an argument copy. -/
def Kernel.argPages (k : Kernel) : Nat := cdiv k.args 4096

/-- Room under a limit whose all-ones value sets none. -/
def under (limit ones need : Nat) : Bool := limit == ones || decide (need ≤ limit)

/-- Workgroups of a node that a cluster holds on the cores of b of its Benches: further full cores for each, and last cores that several
share (R30, R310). -/
def Node.heldOn (n : Node) (b : Nat) : Nat :=
  let per := Nat.max 1 (Nat.min (n.kernel.limit / n.remainder) (if n.kernel.scratch = 0 then 32 else 524288 / n.kernel.scratch))
  (((List.range (32 * 4 * b + 1)).reverse).find? (fun w => decide (w * (n.coreCount - 1) + cdiv w per ≤ 4 * b))).getD 0

/-- One more cluster for each number of Benches in all: the most workgroups it and those before it hold. -/
def heldMore (per best : List Nat) : List Nat :=
  (List.range best.length).map (fun b => ((List.range 5).map (fun i => if i ≤ b then best.getD (b - i) 0 + per.getD i 0 else 0)).foldl Nat.max 0)

/-- Workgroups of a node that the device's 32 clusters hold at once on the cores of at most b Benches (R306, R310): those of one lie in one
cluster. -/
def Node.heldBy (n : Node) (b : Nat) : Nat :=
  ((List.range 32).foldl (fun best _ => heldMore ((List.range 5).map n.heldOn) best) (List.replicate (b + 1) 0)).getD b 0

/-- n workgroups of a node fit the unused budgets of an RCB (R306): their pages, their count, and Benches for the cores they take, of which
those of one workgroup lie in one cluster. -/
def State.budgetHolds (s : State) (n : Node) (count a : Nat) : Bool :=
  under (s.rcb a 176 16) 0xFFFF count && under (s.rcb a 192 32) 0xFFFFFFFF (count * n.scratchPages)
    && (s.rcb a 160 8 == 0xFF || decide (count ≤ n.heldBy (s.rcb a 160 8)))

/-! ### Admission (R306) -/

/-- The kernel and region of a node, and the reasons for which admission rejects it (R306, R394). -/
def State.judge (s : State) (n : Node) : Node × List Nat :=
  match s.rcbChain n.rcb 8 with
  | none => (n, [5])
  | some chain =>
    if !(chain.all s.rcbOk && s.prioOk chain) then (n, [5])
    else
      let r := s.regionOf chain
      let m := { n with region := r }
      let base := (if (rootOf s r.pasid).isNone then [6] else []) ++ (if chain.any (fun a => s.rcb a 568 2 == 1) then [9] else [])
        ++ (if (s.bindings (s.rcb (s.supplier chain 6) 448 56)).isNone then [8] else [])
      match s.kernelOf n.pasid r.pasid n.kref with
      | none => (m, 1 :: base)
      | some k =>
        let q := { m with kernel := k }
        (q, base ++ (if 16 < q.coreCount then [2] else []) ++ (if chain.all (s.budgetHolds q 1) then [] else [3])
          ++ (if (q.cores || k.coresident) && !(chain.all (s.budgetHolds q q.grid)) then [4] else [])
          ++ (if s.rcb r.arenaOf 640 32 < k.argPages + q.privPages then [7] else []))

/-- A rejected node completes at once as faulted, and the host is told why (R306, R394). -/
def State.reject (s : State) (k reason : Nat) : State :=
  let n := s.node k
  (s.event 6 (eventBody n.source.toNat reason)).modNode k (fun x =>
    { x with faulted := true, next := x.grid, status := .placed, kernel := {} })

/-- Which reason an event names when more than one holds is not said: an open choice among them. -/
def State.rejectFor (s : State) (k : Nat) (reasons : List Nat) : State :=
  match reasons with
  | [] => s
  | [r] => s.reject k r
  | r :: rs => ({ s with free := s.free + 1 } : State).reject k ((r :: rs).getD ((Config.freeWord s.free).toNat % (rs.length + 1)) r)

/-- A node enters the pool; from here on it is launched, and its constant segment write-protected (R65). -/
def State.enterPool (s : State) (k : Nat) : State :=
  let n := s.node k
  let c := (n.region.pasid, n.kernel.constVa, n.kernel.constSize)
  ({ s with constants := if n.kernel.constSize = 0 ∨ s.constants.elem c then s.constants else s.constants ++ [c] }.modNode k
    (fun n => { n with status := .pooled })).heads

/-! ### The argument copy (R293, R308) -/

/-- Little-endian doubleword of a list of bytes. -/
def dwordAt (bs : List Byte) (o : Nat) : Nat := natLE ((bs.drop o).take 8)

/-- Replaces a doubleword of a list of bytes. -/
def setDword (bs : List Byte) (o v : Nat) : List Byte := bs.take o ++ bytesLE 8 v ++ bs.drop (o + 8)

/-- Class rounding of an argument block (R293). -/
def classRound (keys : List (Nat × List Nat)) (bs : List Byte) : List Byte :=
  keys.foldl (fun bs k =>
    match k.2 with
    | [] => bs
    | bounds =>
      let x := dwordAt bs k.1
      setDword (setDword bs (k.1 + 8) x) k.1 ((bounds.find? (fun b => decide (x ≤ b))).getD x)) bs

/-- The node whose argument copy takes pages from a page on: the first that waits for one and fits there (R308, R337). -/
def State.nextCopy (s : State) (page : Nat) : Option (Nat × Node) :=
  leastBy (fun (e : Nat × Node) => e.2.order)
    (s.nodes.filter (fun e => e.2.status == .copying && s.pagesFree e.2.region.arenaOf false page e.2.kernel.argPages))

/-- ARGUMENT_COPY (R308): the copy is taken into the private arena from a page on, classes are rounded, and the node enters the pool;
a copy that faults rejects it. Nothing where no node takes those pages. -/
def execArgumentCopy (page : Nat) (s : State) : Out :=
  match s.nextCopy page with
  | none => .next s
  | some (k, n) =>
    let va := page * 4096
    match hubReach s n.pasid n.argp.toNat n.kernel.args .load 3, hubReach s n.region.pasid va n.kernel.args .store 3 with
    | .ok a, .ok b =>
      let s0 := s.hubTouch n.pasid false a.vias
      let bs := classRound n.kernel.keys (a.flats.map s0.peek)
      let bad := (a.flats.zip b.flats).filter (fun p => s0.isPoison p.1)
      let s1 := (s0.hubTouch n.region.pasid true b.vias).hubWrite (b.flats.zip bs)
      let s2 := bad.foldl (fun s p => s.poisonRange p.2 1) s1
      .next (((s2.takePages n.region.arenaOf false page n.kernel.argPages 0 k).modNode k (fun x =>
        { x with argCopy := va, keys := n.kernel.keys.map (fun e => BitVec.ofNat 64 (dwordAt bs e.1)) })).enterPool k)
    | _, _ => .next (s.reject k 10)

/-! ### The Jig's cache (R294 to R296) -/

/-- The cache key of a node (R294); the feature level is 1 (R391). -/
def Node.jigKey (n : Node) : BitVec 512 :=
  sha3 (bytesLE 64 n.kernel.digest.toNat ++ n.keys.flatMap (fun v => bytesLE 8 v.toNat) ++ [1])

/-- The identity of residual code (R294): over the kernel digest and the cache key. -/
def residualIdentity (digest key : BitVec 512) : BitVec 512 := sha3 (bytesLE 64 digest.toNat ++ bytesLE 64 key.toNat)

/-- What the Jig is given for a node. -/
def Node.jigIn (n : Node) : JigIn :=
  { words := n.kernel.code.map (fun w => w.toNat), entry := n.kernel.entry / 4, args := n.kernel.args,
    keys := (n.kernel.keys.map Prod.fst).zip n.keys, const := n.kernel.const, relocs := n.kernel.relocs }

/-- Every page of the code section translates in the node's space and grants X (R295). -/
def State.codeRuns (s : State) (n : Node) : Bool :=
  match hubReach s n.region.pasid n.kernel.codeVa n.kernel.codeSize .fetch (n.kernel.codeSize / 4096 + 2) with
  | .error _ => false
  | .ok _ => true

/-- A word that reads a key or a constant of a node would fault, for a page or for poison, so that the Jig may not fold it (R184, R286,
R289). -/
def State.keysFault (s : State) (n : Node) : Bool :=
  ([(n.argCopy, n.kernel.args), (n.kernel.constVa, n.kernel.constSize)].filter (fun b => b.2 != 0)).any (fun b =>
    match hubReach s n.region.pasid b.1 b.2 .load (b.2 / 4096 + 2) with
    | .error _ => true
    | .ok r => r.flats.any s.isPoison)

/-- Bytes an entry takes of the arena: its words, then its map. -/
def JigEntry.size (e : JigEntry) : Nat := cdiv (4 * e.words.length) 8 * 8 + 8 * e.map.length

/-- The code and map of an entry may lie at a base (R296). -/
def State.jigFits (s : State) (base size : Nat) : Bool :=
  let lo := (s.reg 0x120).toNat
  decide (base % 4096 = 0) && decide (lo ≤ base ∧ base + size ≤ lo + (s.reg 0x128).toNat)
    && s.jigCache.all (fun e => !e.special || decide (base + size ≤ e.base ∨ e.base + e.size ≤ base))

/-- Some base fits: the arena's start, or the first multiple of 4,096 past an entry. -/
def State.jigRoom (s : State) (size : Nat) : Bool :=
  ((s.reg 0x120).toNat :: (s.jigCache.filter (fun e => e.special)).map (fun e => cdiv (e.base + e.size) 4096 * 4096)).any
    (fun b => s.jigFits b size)

/-- Entries that workgroups use are pinned. -/
def State.pinned (s : State) (e : JigEntry) : Bool := s.nodes.any (fun n => n.2.jig == some e.id)

/-- Evicts least recently used entries that are not pinned, until one of a size has a place; none where that cannot be (R296). -/
def State.evictFor (s : State) (size fuel : Nat) : Option State :=
  if s.jigCache.length < 4096 && (size == 0 || s.jigRoom size) then some s
  else
    match fuel with
    | 0 => none
    | f + 1 =>
      match leastBy (fun (e : JigEntry) => e.used) (s.jigCache.filter (fun e => !s.pinned e)) with
      | none => none
      | some e => ({ s with jigCache := s.jigCache.filter (fun x => x.id != e.id) } : State).evictFor size f

/-- The code a node runs is chosen at its dispatch (R296): an entry, the original code, or what a job makes; die is that of its first
workgroup. DEDUCED (log entry 38): a node with poison, or a page that grants no read, among its arguments or constants runs the original
code, which faults there (R286). -/
def State.chooseJig (s : State) (k die : Nat) : State :=
  let n := s.node k
  if n.jigChosen then s
  else
    let set := fun (s : State) (j : Option Nat) (w : Bool) =>
      s.modNode k (fun n => { n with jigChosen := true, jig := j, jigWait := w })
    if !s.codeRuns n || s.keysFault n then set s none false
    else
      match s.jigCache.find? (fun e => e.key == n.jigKey) with
      | some e =>
        set { s with jigCache := s.jigCache.map (fun (x : JigEntry) => if x.id == e.id then { x with used := s.serial } else x),
                     serial := s.serial + 1 } (if e.special then some e.id else none) false
      | none =>
        if s.jigJobs.any (fun j => j.key == n.jigKey) then set s none (!n.kernel.eager)
        else if (s.evictFor 0 4097).isNone then set s none false
        else set { s with jigJobs := s.jigJobs ++ [{ id := s.serial, key := n.jigKey, kernel := n.kernel, keys := n.keys, die := die }],
                          serial := s.serial + 1 } none (!n.kernel.eager)

/-- A lane before its first issue: at the entry, or where the residual code starts (R289, R297). -/
def startLane (n : Node) (e : Option JigEntry) (x : Lane) : Lane :=
  match e with
  | none => { x with pc := BitVec.ofNat 64 (n.kernel.codeVa + n.kernel.entry), rpc := none }
  | some e =>
    match e.map[e.start]? with
    | none => { x with pc := BitVec.ofNat 64 (n.kernel.codeVa + 4 * e.origin), rpc := none }
    | some m => { x with pc := BitVec.ofNat 64 (n.kernel.codeVa + origOf m), rpc := some (BitVec.ofNat 64 (e.base + 4 * e.start)) }

/-- A warp before its first issue takes its lanes' PCs and the registers the launch prefix leaves (R24, R289). -/
def startWarp (n : Node) (e : Option JigEntry) (w : Warp) : Warp :=
  { w with jig := false, lanes := w.lanes.map (startLane n e),
           s := match e with
             | none => []
             | some e => e.init.map (fun p => (p.1, clean p.2)) }

/-- Nodes that wait for a job's key go on with what came of it. -/
def State.jigDone (s : State) (key : BitVec 512) (e : Option JigEntry) : State :=
  let ks := (s.nodes.filter (fun x => x.2.jigWait && x.2.jigKey == key)).map Prod.fst
  let s1 := ks.foldl (fun s k => s.modNode k (fun n => { n with jigWait := false, jig := e.map (fun x => x.id) })) s
  { s1 with warps := s1.warps.map (fun x =>
      if x.2.jig && ks.elem (s1.wg x.2.wg).node then (x.1, startWarp (s1.node (s1.wg x.2.wg).node) e x.2) else x) }

/-- The entry a job makes at a base. -/
def State.jigEntry (s : State) (j : JigJob) (base : Nat) : JigEntry :=
  let none' : JigEntry := { id := s.serial, key := j.key, special := false, used := s.serial }
  if j.kernel.plain then none'
  else
    match ({ kernel := j.kernel, keys := j.keys } : Node).jigIn.residual with
    | none => none'
    | some r => { id := s.serial, key := j.key, ident := residualIdentity j.kernel.digest j.key, words := r.words, map := r.map, base := base, init := r.init, start := r.start,
                  origin := r.origin, used := s.serial }

/-- JIG_JOB_DONE (R292, R296): the entry is made, its code and map lie in the arena from a base on, and waiting warps begin; without
room the nodes run the original code. Nothing where there is no such job, or the base is no place for it. -/
def execJigJobDone (job base : Nat) (s : State) : Out :=
  match s.jigJobs.find? (fun j => j.id == job) with
  | none => .next s
  | some j =>
    let s1 : State := { s with jigJobs := s.jigJobs.filter (fun x => x.id != job), serial := s.serial + 1 }
    let e := s.jigEntry j base
    match s1.evictFor (if e.special then e.size else 0) 4097 with
    | none => .next (s1.jigDone j.key none)
    | some s2 =>
      if !e.special then .next (({ s2 with jigCache := s2.jigCache ++ [e] } : State).jigDone j.key none)
      else if !s2.jigFits base e.size then .next s
      else
        let code := e.words.flatMap (fun w => bytesLE 4 w.toNat)
        let s3 := (s2.deviceWrite base code).deviceWrite (base + cdiv code.length 8 * 8) (e.map.flatMap (fun m => bytesLE 8 m.toNat))
        .next (({ s3 with jigCache := s3.jigCache ++ [e] } : State).jigDone j.key (some e))

end Sys2Proof.Machine
end

