-- ==== Sys2Proof/Machine/Place.lean ====
section
/-! DEFINITION. Placement of workgroups (R14, R18, R24, R30, R174, R309 to R313, R336). -/

namespace Sys2Proof.Machine

/-! ### What a core holds (R30, R310, R311) -/

/-- The warps that take register-file space on a core: one that has ended does until its loads have returned (R258). -/
def State.onCore (s : State) (c : Nat) : List Warp :=
  (s.warps.filter (fun e => e.2.core == c && (s.wg e.2.wg).present && (!e.2.ended || s.readsOf e.1 != []))).map Prod.snd

/-- Register-file bytes in use on a core (R30). -/
def State.regUse (s : State) (c : Nat) : Nat := ((s.onCore c).map (fun w => ((s.nodeOf w).kernel.named + 16) * 256)).sum

/-- Scratch bytes in use on a core. -/
def State.scratchUse (s : State) (c : Nat) : Nat := (s.wgs.map (fun e => if e.2.present then mgetD e.2.cores c 0 else 0)).sum

/-- A core holds a workgroup. -/
def State.occupiedBy (s : State) (c : Nat) : Bool := s.wgs.any (fun e => e.2.present && (mget e.2.cores c).isSome)

/-- The L1 KiB a core has once a node's workgroup is on it (R14, R311). -/
def State.splitFor (s : State) (n : Node) (c : Nat) : Nat :=
  if s.occupiedBy c then mgetD s.split c 128
  else if n.kernel.scratch ≤ (640 - (128 + 64 * n.l1kib)) * 1024 then 128 + 64 * n.l1kib
  else 128

/-- A core's register file, warp slots and scratchpad hold k more warps of a node (R310). -/
def State.coreRoom (s : State) (n : Node) (k c : Nat) : Bool :=
  decide ((s.onCore c).length + k ≤ 32) && decide (s.regUse c + k * ((n.kernel.named + 16) * 256) ≤ 393216)
    && decide (s.scratchUse c + n.kernel.scratch ≤ (640 - s.splitFor n c) * 1024)

/-- The Benches budgets have room for a workgroup's cores (R336). -/
def State.benchRoom (s : State) (n : Node) (cores : List Nat) : Bool :=
  let used := s.benchesUsed n.region.rcb s.serial
  let new := ((benchesOf cores).filter (fun b => !used.elem b)).length
  n.region.chain.all (fun a => under (s.rcb a 160 8) 0xFF (s.rcb a 560 8 + new))

/-- The counts of workgroups and scratch pages have room (R336); a saved workgroup's pages are counted already. -/
def State.countRoom (s : State) (n : Node) (pages : Nat) : Bool :=
  n.region.chain.all (fun a => under (s.rcb a 176 16) 0xFFFF (s.rcb a 544 16 + 1)
    && under (s.rcb a 192 32) 0xFFFFFFFF (s.rcb a 512 32 + pages))

/-- A core from which a draining workgroup of the node keeps further ones (R382). -/
def State.drained (s : State) (k c : Nat) : Bool :=
  s.wgs.any (fun e => e.2.node == k && e.2.status == .draining && (mget e.2.cores c).isSome)

/-! ### Choosing cores (R310) -/

/-- The lowest-numbered cores that take m warps each, n of them, after those chosen. -/
def State.takeCores (s : State) (k : Nat) (n : Node) (m left : Nat) (chosen cands : List Nat) : Option (List Nat) :=
  match left, cands with
  | 0, _ => some chosen
  | _, [] => none
  | l + 1, c :: r =>
    if !chosen.elem c && s.coreRoom n m c && !s.drained k c && s.benchRoom n (chosen ++ [c]) then
      s.takeCores k n m l (chosen ++ [c]) r
    else s.takeCores k n m (l + 1) chosen r

/-- The cores of a cluster that take a workgroup, in order of its warps. -/
def State.coresIn (s : State) (k : Nat) (n : Node) (cluster : Nat) : Option (List Nat) :=
  let cs := (List.range 16).map (fun i => cluster * 16 + i)
  match s.takeCores k n n.kernel.limit (n.coreCount - 1) [] cs with
  | none => none
  | some full => s.takeCores k n n.remainder 1 full cs

/-- The clusters in the order in which dispatch tries them for a node: its mask, from the one after the last; those that a blocking
node of the same or a higher priority holds are left out (R310, R313). -/
def State.clusters (s : State) (k : Nat) (n : Node) : List Nat :=
  let first := match mget s.lastCluster n.region.rcb with | none => 0 | some c => c + 1
  let barred := fun (c : Nat) => s.pool.any (fun e =>
    e.1 != k && e.2.blocking && decide (n.region.prio ≤ e.2.region.prio) && e.2.region.cmask.getLsbD c)
  ((List.range 32).map (fun i => (first + i) % 32)).filter (fun c => n.region.cmask.getLsbD c && !barred c)

/-- The cores of the first cluster that takes a workgroup. -/
def State.coresFor (s : State) (k : Nat) (n : Node) : Option (List Nat) :=
  if s.countRoom n n.scratchPages then (s.clusters k n).findSome? (s.coresIn k n) else none

/-! ### Admission (R306, R316) -/

/-- One workgroup of a device-queued node has room in its budgets (R316): else it stays in its queue. Where no Bench is left, cores at
Benches that its region uses already have to take it (R336). -/
def State.roomFor (s : State) (k : Nat) (n : Node) : Bool :=
  let q := (s.judge n).1
  s.countRoom q q.scratchPages
    && (q.region.chain.all (fun a => under (s.rcb a 160 8) 0xFF (s.rcb a 560 8 + 1)) || (s.coresFor k q).isSome)

/-- The node admission takes next: in ready order, device-queued nodes in queue order; nodes of a region wait behind one whose argument
copy waits (R306, R308, R316). -/
def State.nextAdmission (s : State) : Option Nat :=
  let ready := s.nodes.filter (fun e => e.2.status == .ready
    || (e.2.status == .queued && s.dqueue.any (fun q => q.2.head? == some e.1) && (s.roomFor e.1 e.2 || (s.judge e.2).2 != [])))
  let free := ready.filter (fun e => s.nodes.all (fun x => x.2.status != .copying || x.2.rcb != e.2.rcb))
  (leastBy (fun (e : Nat × Node) => e.2.order) free).map Prod.fst

/-- ADMISSION (R306): the next ready node takes an admission number, and is rejected, or goes on to its argument copy or the pool. -/
def execAdmission (s : State) : Out :=
  match s.nextAdmission with
  | none => .next s
  | some k =>
    let j := s.judge (s.node k)
    let s1 : State := { s with admitted := s.admitted + 1, serial := s.serial + 1,
                               dqueue := (s.dqueue.map (fun q => (q.1, q.2.filter (fun x => x != k)))).filter (fun q => q.2 != []) }
    let s2 := s1.modNode k (fun _ => { j.1 with number := s1.admitted, order := s.serial, status := .copying })
    match j.2 with
    | [] => if j.1.kernel.args = 0 then .next (s2.enterPool k) else .next s2
    | rs => .next (s2.rejectFor k rs)

/-! ### A new workgroup -/

/-- The lowest free warp slots of a core. -/
def State.freeSlots (s : State) (c n : Nat) : List Nat :=
  ((List.range 32).filter (fun i => !((s.onCore c).any (fun w => w.slot == i)))).take n

/-- The %wg a node places next: a flushed one, or the next of its grid (R309, R387). -/
def Node.nextWg (n : Node) : Option Nat :=
  match leastBy (fun (i : Nat) => i) n.flushed with
  | some i => some i
  | none => if n.next < n.grid then some n.next else none

/-- Warp i of a new workgroup on a core (R18, R24). -/
def newWarp (n : Node) (wg core slot i : Nat) : Warp :=
  { wg := wg, core := core, slot := slot, index := i, levels := noLevels, privlim := BitVec.ofNat 64 n.kernel.priv,
    lanes := (List.range 32).map (fun l => { tid := 32 * i + l, live := decide (32 * i + l < n.wgsize) }) }

/-- A workgroup of a node is placed on cores with its private base at a page (R174, R310, R311, R336). -/
def State.makeWg (s : State) (k idx : Nat) (cores : List Nat) (page : Nat) : State :=
  let s0 := s.sweepEnded.chooseJig k (cores.headD 0 / 128)
  let n := s0.live (s0.node k)
  let r := n.region
  let g := s0.serial
  let pages := n.privPages
  let split := cores.foldl (fun m c => mput 128 m c (s0.splitFor n c)) s0.split
  let terms := if r = (s0.node k).region then none else some r
  let wgv : Wg := { node := k, terms := terms, index := idx, size := n.wgsize, privBase := if pages = 0 then 0 else page * 4096, order := g,
                    cores := cores.foldl (fun m c => mset m c n.kernel.scratch) [] }
  let e := match n.jig with
    | none => none
    | some id => s0.jigCache.find? (fun e => e.id == id)
  let ws := (List.range n.warps).map (fun i => (i, cores.getD (i / n.kernel.limit) 0))
  let warps := ws.map (fun p =>
    let nth := (ws.filter (fun q => q.2 == p.2 && decide (q.1 < p.1))).length
    let w := newWarp n g p.2 ((s0.freeSlots p.2 n.warps).getD nth 0) p.1
    (g + 1 + p.1, if n.jigWait then { w with jig := true } else startWarp n e w))
  let s1 : State := { s0 with split := split, wgs := mset s0.wgs g wgv, warps := s0.warps ++ warps, serial := g + 1 + n.warps,
                              lastCluster := mset s0.lastCluster n.region.rcb (cores.headD 0 / 16) }
  let s2 := s1.budget g 1 true
  let s3 := if pages = 0 then s2 else s2.takePages n.region.arenaOf false page pages 1 g
  (s3.modNode k (fun n =>
    let m := if n.flushed.elem idx then { n with flushed := n.flushed.filter (fun i => i != idx) } else { n with next := idx + 1 }
    { m with head := none, blocking := false, status := if m.flushed = [] ∧ m.grid ≤ m.next then .placed else .pooled })).heads

/-! ### Placement (R309, R312, R386) -/

/-- A saved workgroup of a node has its cores again: room there, in the budgets, no workgroup of the node that drains on them (R382), and no
blocking node on its cluster (R313, R386). -/
def State.resumes (s : State) (k : Nat) (n : Node) (g : Nat) : Bool :=
  let w := s.wg g
  let per := fun (c : Nat) => (s.warps.filter (fun e => e.2.wg == g && e.2.core == c)).length
  w.status == .saved && w.cores.all (fun c => s.coreRoom n (per c.1) c.1 && !s.drained k c.1) && s.benchRoom n (mkeys w.cores) && s.countRoom n 0
    && (s.clusters k n).elem ((mkeys w.cores).headD 0 / 16)

/-- A node's next workgroup can be placed: its cores; a saved one of the node goes first (R309, R386). -/
def State.placeable (s : State) (k : Nat) (n : Node) : Option (List Nat) :=
  if s.savedOf k != [] || n.nextWg.isNone then none
  else if n.privPages != 0 && !s.someRun n.region.arenaOf false n.privPages then none
  else s.coresFor k n

/-- A first page for a private base: the page given where it is free, else the lowest free run. -/
def State.privPage (s : State) (n : Node) (page : Nat) : Option Nat :=
  let a := n.region.arenaOf
  if n.privPages = 0 then some 0
  else if s.pagesFree a false page n.privPages then some page
  else ((s.arenaBounds a false).1 :: (s.arenas.map (fun x => x.2.2.1 + x.2.2.2.1))).find? (fun f => s.pagesFree a false f n.privPages)

/-- Places the workgroups of a node that are still unplaced, all of them or none (R312). -/
def State.placeAll (s : State) (k page fuel : Nat) : Option State :=
  match fuel with
  | 0 => none
  | f + 1 =>
    let n := s.live (s.node k)
    match n.nextWg with
    | none => some s
    | some i =>
      match s.coresFor k n, s.privPage n page with
      | some cs, some p => (s.makeWg k i cs p).placeAll k (p + n.privPages) f
      | _, _ => none

/-- The node places its next workgroup, or a CORESIDENT node all of them, with a private base at a page; none where it cannot. -/
def State.tryPlace (s : State) (k page : Nat) : Option State :=
  let n := s.live (s.node k)
  match s.placeable k n, n.nextWg with
  | some cs, some i =>
    if n.cores || n.kernel.coresident then s.placeAll k page (n.grid + 1)
    else some (s.makeWg k i cs page)
  | _, _ => none

/-- A node of the pool can place a workgroup: its first saved one, on the cores it left, else the next of its grid (R309, R386). -/
def State.canPlace (s : State) (k : Nat) (n : Node) : Bool :=
  match s.savedOf k with
  | g :: _ => s.resumes k n g
  | [] => (s.placeable k n).isSome && (!(n.cores || n.kernel.coresident) || (s.placeAll k 0 (n.grid + 1)).isSome)

/-- The node whose turn it is: the one that dispatch is placing, until its next workgroup does not fit, else the first of the pool that can
place one (R309). -/
def State.nextPlaced (s : State) : Option (Nat × Node) :=
  match s.pool.find? (fun e => s.placing == some e.1 && s.canPlace e.1 e.2) with
  | some e => some e
  | none => s.pool.find? (fun e => s.canPlace e.1 e.2)

/-- The saved workgroup that is placed next (R386). -/
def State.nextResumed (s : State) : Option Nat :=
  match s.nextPlaced with
  | none => none
  | some (k, _) => (s.savedOf k).head?

/-- PLACE_WORKGROUP (R309 to R312): the next workgroup of the node whose turn it is, its private base from a page on; nothing where no node
can place one, a saved one comes first, or the pages are not free. -/
def execPlaceWorkgroup (page : Nat) (s : State) : Out :=
  match s.nextPlaced with
  | none => .next { s with placing := none }
  | some (k, n) =>
    if s.savedOf k ≠ [] ∨ n.privPages ≠ 0 ∧ !s.pagesFree n.region.arenaOf false page n.privPages then .next s
    else .next { ((s.tryPlace k page).getD s) with placing := some k }

end Sys2Proof.Machine
end

