-- ==== Sys2Proof/Machine/Preempt.lean ====
section
/-! DEFINITION. Pre-emption (R240, R313, R379 to R388): the choice among drain, save and flush, the save area, resume, and blocking
nodes. -/

namespace Sys2Proof.Machine

/-! ### The choice (R379 to R382) -/

/-- The banks a warp owns: member, relative index, and the physical bank's first byte (R135). -/
def Warp.ownedBanks (w : Warp) : List (Nat × Nat × Nat) :=
  (List.range w.claim.count).flatMap (fun j =>
    if w.claim.gone.getLsbD j then []
    else (List.range w.claim.gang).map (fun m => (m, j, bankFlat (memberOf w.claim.bench m) ((w.claim.banks.getD m []).getD j 0) 0)))

/-- The warps of a workgroup, in order. -/
def State.warpList (s : State) (g : Nat) : List Warp :=
  sortBy (fun (w : Warp) => w.index) ((s.warps.filter (fun e => e.2.wg == g)).map Prod.snd)

/-- Bytes of a warp record (R384). -/
def recordBytes (named : Nat) : Nat := 2816 + 256 * (named + 16)

/-- The save size B of a workgroup (R384). -/
def State.saveSize (s : State) (g : Nat) : Nat :=
  let w := s.wg g
  let ws := s.warpList g
  1536 + 576 * w.cores.length + ws.length * recordBytes (s.node w.node).kernel.named
    + 147456 * (ws.flatMap Warp.ownedBanks).length + 4096 * w.pages

/-- Room for a workgroup's save: its area suffices, or its arena has a run (R380). -/
def State.saveRoom (s : State) (g : Nat) : Bool :=
  let pages := cdiv (s.saveSize g) 4096
  (match (s.wg g).saveArea with
   | none => false
   | some a => decide (pages ≤ a.2)) || s.someRun (s.arenaFor (s.wg g)) true pages

/-- Cycles since the workgroup's first warp first issued. -/
def State.elapsed (s : State) (g : Nat) : Nat :=
  match (s.wg g).first with
  | none => 0
  | some c => s.cycle - c

/-- The ways offered, each with its latency and cost (R380): 0 drain, 1 save, 2 flush. -/
def State.ways (s : State) (g : Nat) : List (Nat × Nat × Nat) :=
  let n := s.node (s.wg g).node
  let e := s.elapsed g
  let l := 64 + cdiv (s.saveSize g) 512
  (if n.expcyc ≠ 0 ∧ e < n.expcyc then [(0, n.expcyc - e, n.expcyc - e)] else [])
    ++ (if s.saveRoom g then [(1, l, 2 * l)] else [])
    ++ (if n.restart || n.kernel.restart then [(2, 64, e)] else [])

/-- The way taken under a bound (R381): least cost among those that meet it, else least latency; ties to drain, save, flush. -/
def chooseWay (ws : List (Nat × Nat × Nat)) (bound : Nat) : Option Nat :=
  match leastBy (fun w => w.2.2) (ws.filter (fun w => decide (w.2.1 ≤ bound))) with
  | some w => some w.1
  | none => (leastBy (fun w => w.2.1) ws).map Prod.fst

/-- The choice for a workgroup with a pending request, or a draining one whose time is over; without a way it runs on and the request
waits (R381, R382). -/
def State.choose (s : State) (g : Nat) : State :=
  match (s.wg g).request with
  | none => s
  | some bound =>
    match chooseWay (s.ways g) bound with
    | none => s.modWg g (fun x => { x with status := .resident })
    | some 0 => s.modWg g (fun x => { x with status := .draining })
    | some 1 => s.modWg g (fun x => { x with status := .saving })
    | some _ => s.modWg g (fun x => { x with status := .flushing })

/-- A pre-emption request (R379): ignored where the workgroup already drains, saves or flushes, or has a request that waits for a way
(R381). -/
def State.requestWg (s : State) (bound g : Nat) : State :=
  if (s.wg g).status == .resident && (s.wg g).cores != [] && (s.wg g).request.isNone then (s.modWg g (fun x => { x with request := some bound })).choose g else s

/-- DRAIN_EXPIRY (R382): a draining workgroup that has reached EXPCYC is decided again without drain; nothing before. -/
def execDrainExpiry (wg : Nat) (s : State) : Out :=
  if (s.wg wg).status == .draining && decide ((s.node (s.wg wg).node).expcyc ≤ s.elapsed wg) then .next (s.choose wg) else .next s

/-! ### Blocking nodes (R313) -/

/-- The node could place with some workgroups gone from their cores, their budgets and their private pages: one workgroup, or all of a
CORESIDENT node (R312). -/
def State.placesWithout (s : State) (k : Nat) (gs : List Nat) : Bool :=
  let t := gs.foldl (fun s g => ((s.budget g (-1) true).freePages 1 g).modWg g (fun x => { x with cores := [] })) s
  t.canPlace k (t.live (t.node k))

/-- The workgroups asked to leave for a node, in order, until it could place; none where all of them gone would not let it. -/
def State.victims (s : State) (k : Nat) (taken cands : List Nat) : List Nat :=
  if s.placesWithout k taken then taken
  else
    match cands with
    | [] => []
    | g :: r => s.victims k (taken ++ [g]) r

/-- Those of them that hold what the node needs: without any one of them it could not place. Of several that would do for one another the
order of R313 keeps the first. -/
def State.needed (s : State) (k : Nat) (gs : List Nat) : List Nat :=
  gs.foldr (fun g kept => if s.placesWithout k (gs.takeWhile (fun x => x != g) ++ kept) then kept else g :: kept) []

/-- Resident workgroups of lower effective priority that hold something the node could need: cores on the clusters of its mask, a budget of
a region on its chain, or private pages of its arena. Lowest priority first, the most recently placed first (R313). -/
def State.lower (s : State) (n : Node) : List Nat :=
  let prio := fun (g : Wg) => ((s.node g.node).forWg g).region.prio
  (sortBy (fun (e : Nat × Wg) => prio e.2 * 2 ^ 128 + (2 ^ 128 - 1 - e.2.order))
    (s.wgs.filter (fun e => e.2.present && e.2.status != .ended && decide (prio e.2 < n.region.prio)
      && (e.2.cores.any (fun c => n.region.cmask.getLsbD (c.1 / 16))
          || ((s.node e.2.node).forWg e.2).region.chain.any (fun a => n.region.chain.elem a)
          || s.arenas.any (fun a => a.1 == n.region.arenaOf && a.2.2.2.2.1 == 1 && a.2.2.2.2.2 == e.1))))).map Prod.fst

/-- NODE_BLOCKING (R313): a node that has stood at the head of its priority for 65,536 cycles blocks, and asks for the workgroups in its
way to be pre-empted, which it does again while it blocks; nothing before. -/
def execNodeBlocking (node : Nat) (s : State) : Out :=
  match mget s.nodes node with
  | none => .next s
  | some n =>
    match n.head with
    | none => .next s
    | some c =>
      if s.cycle < c + 65536 then .next s
      else
        let s1 := s.modNode node (fun x => { x with blocking := true })
        let m := s1.live n
        .next ((s1.needed node (s1.victims node [] (s1.lower m))).foldl (State.requestWg · m.region.pbound) s1)

/-! ### Quiescing (R383) -/

/-- Nothing of a workgroup is under way that quiescing lets complete: hint groups, accesses, selected array operations and those that
a drain waits for, drains, copies, chains, faults not yet delivered, banks not yet taken again. -/
def State.quiet (s : State) (g : Nat) : Bool :=
  (s.warps.filter (fun e => e.2.wg == g)).all (fun e =>
      (e.2.ended || (e.2.held.isNone && e.2.reclaim == [] && !(e.2.lanes.any (fun l => l.live && l.hint.isSome && l.park == .no))))
        && !(s.ops.any (fun o => o.warp == e.1)))
    && !(s.arrays.any (fun o => o.wg == g && o.chosen != [])) && !(s.drains.any (fun d => d.wg == g))
    && !(s.copies.any (fun c => c.wg == g)) && !(s.chains.any (fun c => c.wg == g)) && s.cur.go == false

/-- Pools close and regroup, waiting claims are withdrawn, accesses held for a migration are given up. -/
def State.quiesce (s : State) (g : Nat) : State :=
  let s1 := (s.wg g).pools.foldl (fun s p => s.formPool g p) s
  (s1.warpsOf g).foldl State.cancelWaits s1

/-- A lane as a save leaves it: at its resume PC; parked lanes wait again after the resume, which counts as a PARK's wake (R256, R386). -/
def Lane.saved (l : Lane) : Lane :=
  let x := l.rested
  { x with hint := none, age := 0, yield := 0, blocked := 0,
           park := match x.park with
             | .left k => .left k
             | .backEdge k => .backEdge k
             | .watch a t _ => .watch a t true
             | _ => .no }

/-! ### The save area (R384, R385) -/

/-- n doublewords, little-endian. -/
def dwords (vs : List Nat) : List Byte := vs.flatMap (fun v => bytesLE 8 v)

/-- The bits of a list of registers that are poisoned. -/
def poisonMap (vs : List RVal) : Nat := ((List.range vs.length).zip vs).foldl (fun m e => if e.2.poison then m + 2 ^ e.1 else m) 0

/-- The named registers of a lane by physical number. -/
def Lane.named (l : Lane) (n : Nat) : List RVal := (List.range n).map (fun i => mgetD l.regs i {})
/-- The queue of a lane, q0 to q15. -/
def Lane.entries (l : Lane) : List RVal := (List.range 16).map (fun i => l.queue.getD i {})
/-- s0 to s31. -/
def Warp.uniforms (w : Warp) : List RVal := (List.range 32).map (fun i => mgetD w.s i {})

/-- The lane doubleword (R384). -/
def Lane.dword (l : Lane) : Nat :=
  l.tid % 2 ^ 14 + l.guards.toNat / 2 % 128 * 2 ^ 14 + (if l.live then 2 ^ 21 else 0) + (if l.park = .no then 0 else 2 ^ 22)

/-- A withdrawn operation names its banks by relative index; 8 where the claim that had the bank is over (R135, R157). -/
def ArrayOp.relative (o : ArrayOp) (c : Claim) : ArrayOp :=
  { o with banks := ((List.range o.banks.length).zip o.banks).map (fun e =>
      (c.kept.find? (fun j => (c.banks.getD e.1 []).getD j 8 == e.2)).getD 8) }

/-- An entry of the saved command queue (R384). DESIGN CHOICE (log entry 39): the handle with, in place of its MCMASK, from bit 112 on the kind
(0 MWL, 1 MMS, 2 MZERO, 3 MWR), the relative bank, Z and the low ten bits of its timeline number. -/
def ArrayOp.entry (o : ArrayOp) (c : Claim) : BitVec 128 :=
  let kind := if o.imm.isSome then (if o.z then 2 else 3) else if o.a.isSome then 1 else 0
  let bank := ((o.relative c).banks.headD 0) % 8
  BitVec.setWidth 128 ((o.a.getD o.w).extractLsb' 0 112) ||| (BitVec.ofNat 128 (kind + bank * 4 + (if o.z then 32 else 0) + o.tlnum % 1024 * 64) <<< 112)

/-- A warp record (R384); q is its saved command queue, parked the lanes as they stood. -/
def warpRecord (w : Warp) (named : Nat) (parked : List Lane) (q : List ArrayOp) : List Byte :=
  dwords (parked.map (fun l => l.resume.runPc.toNat)) ++ dwords (parked.map Lane.dword)
    ++ dwords (w.uniforms.map (fun v => v.bits.toNat))
    ++ (List.range 16).flatMap (fun i => bytesLE 16 (mgetD w.t i 0).toNat)
    ++ (List.range 16).flatMap (fun i => bytesLE 32 (mgetD w.d i 0).toNat)
    ++ dwords ((List.range 4).flatMap (fun k => (List.range 8).map (fun f => (levelField (w.level k) f (w.level k).index.toNat).toNat)))
    ++ dwords [w.k1, w.k2, w.k3, w.claim.word.toNat, w.flags.toNat, w.amax.toNat, if w.amaxnan then 1 else 0, w.ackseq.toNat,
        w.msgdst.toNat, w.privlim.toNat, if w.handler then 1 else 0, poisonMap w.uniforms, 0, 0, 0, 0]
    ++ (List.range 4).flatMap (fun m => match w.latch with
        | none => dwords [0, 0, 0, 0]
        | some l => if m < l.gang then bytesLE 16 l.handle.toNat ++ dwords [l.slot.getD 0, 1] else dwords [0, 0, 0, 0])
    ++ (List.range 16).flatMap (fun i => match q[i]? with
        | none => bytesLE 16 0
        | some o => bytesLE 16 (o.entry w.claim).toNat)
    ++ w.lanes.flatMap (fun l => dwords [poisonMap (l.named named), poisonMap l.entries])
    ++ w.lanes.flatMap (fun l => dwords ((l.named named ++ l.entries).map (fun v => v.bits.toNat)))

/-- A timeline context in the workgroup header. -/
def Timeline.words (t : Timeline) : List Nat := [t.issued, t.completed, t.faultnum]

/-- An entry of the engine fault store in the workgroup header. -/
def FsEntry.words (e : FsEntry) : List Nat :=
  [e.cls, e.addr.toNat, (e.jaddr.map (fun j => 2 * j + 1)).getD 0, (e.tl.map (fun t => 2 * t.1 + 1)).getD 0, (e.tl.map (fun t => t.2)).getD 0,
   e.opc.toNat, e.rpc.toNat]

/-- Bytes filled up with zeros to a length. -/
def padTo (n : Nat) (bs : List Byte) : List Byte := bs.take n ++ List.replicate (n - bs.length) 0

/-- The workgroup header and the core records. -/
def Wg.saveHead (g : Wg) : List Byte :=
  padTo 1536 (dwords (g.copyTl.words ++ g.matTl.words ++ g.chainTl.words ++ g.faults.flatMap FsEntry.words))
    ++ g.cores.flatMap (fun c =>
      let ms := (g.messages.filter (fun m => m.1 == c.1)).map (fun m => m.2.1.toNat)
      padTo 576 (dwords (ms.length :: ms)))

/-- Messages of a region on a core, taken with the workgroup when no other of the region stays there (R240): up to 64. -/
def State.takeMessages (s : State) (g : Nat) : State :=
  let w := s.wg g
  let rcb := (s.node w.node).region.rcb
  w.cores.foldl (fun s c =>
    if s.wgs.any (fun e => e.1 != g && e.2.present && (s.node e.2.node).region.rcb == rcb && (mget e.2.cores c.1).isSome) then s
    else
      let mine := fun (m : Message) => m.dst == c.1 && m.region == rcb
      let ms := ((s.fifo ++ s.transit).filter mine).take 64
      { s.modWg g (fun x => { x with messages := x.messages ++ ms.map (fun m => (c.1, m.value, m.poison)) }) with
        fifo := ms.foldl (fun f m => f.erase m) s.fifo,
        transit := (ms.drop (s.fifo.filter mine).length).foldl (fun f m => f.erase m) s.transit }) s

/-- Moves blocks of bytes one after another to addresses from a on. -/
def State.moveOut (s : State) (a n : Nat) (srcs : List Nat) : State :=
  match srcs with
  | [] => s
  | b :: r => (s.moveBytes b a n).moveOut (a + n) n r

/-- Banks go back to their rings without their warps' claims ending (R135). -/
def State.lendBanks (s : State) (k : Nat) (w : Warp) : State :=
  (List.range w.claim.gang).foldl (fun s m =>
    (List.range w.claim.count).foldl (fun s j =>
      if w.claim.gone.getLsbD j then s
      else s.returnBank k (memberOf w.claim.bench m) ((w.claim.banks.getD m []).getD j 0)) s) s

/-- The save of a workgroup whose work is quiet, into an area at a page: absent scratch comes back first, then everything is written
(R383, R384). -/
def State.saveTo (s : State) (g page pages : Nat) : State :=
  let s0 := ((s.wg g).absent.foldl (fun s e => s.refill g e) s).quiesce g
  let s1 := s0.takeMessages g
  let w := s1.wg g
  let ks := s1.warpsOf g
  let named := (s1.node w.node).kernel.named
  let queueOf := fun (k : Nat) => s1.arrays.filter (fun o => o.warp == k)
  let ws := sortBy (fun (e : Nat × Warp) => e.2.index) (s1.warps.filter (fun e => e.2.wg == g))
  let saved := ws.map (fun e => (e.1, { e.2 with lanes := e.2.lanes.map Lane.saved }, e.2.lanes))
  let a := page * 4096
  let records := a + 1536 + 576 * w.cores.length
  let s2 := s1.deviceWrite a w.saveHead
  let s3 := s2.deviceWrite records (saved.flatMap (fun e => warpRecord e.2.1 named e.2.2 (queueOf e.1)))
  let banks := (ws.flatMap (fun e => e.2.ownedBanks)).map (fun b => b.2.2)
  let bankAt := records + ws.length * recordBytes named
  let s4 := s3.moveOut bankAt bankBytes banks
  let scratchAt := bankAt + banks.length * bankBytes
  let s5 := s4.moveOut scratchAt 4096 (w.pageList.map (fun e => scratchFlat g (e.1 * 2 ^ 31 + e.2 * 4096)))
  let out := s5.arrays.filter (fun o => ks.elem o.warp)
  let s6 := ({ s5 with withdrawn := s5.withdrawn ++ out.map (fun o => o.relative ((s5.warp o.warp).getD {}).claim),
                       arrays := s5.arrays.filter (fun o => !ks.elem o.warp) } : State).arraysGone (out.map (fun o => o.id))
  let s7 := (ws.foldl (fun s e => s.lendBanks e.1 e.2) s6).clearRange (scratchFlat g 0) 1099511627776
  let s8 := saved.foldl (fun s e => s.setWarp e.1 e.2.1) (s7.budget g (-1) false)
  { s8.modWg g (fun x => { x with status := .saved, saveArea := some (page, pages), scratchAt := scratchAt, absent := x.pageList,
                                  touched := [], request := none, retry := false, halted := x.halted || x.cores.any (fun c => s.halted.elem c.1) }) with
    benches := s8.benches.map (fun (e : Nat × Bench) => (e.1, match e.2.latched with
      | some (k, _) => if ks.elem k then { e.2 with latched := none } else e.2
      | none => e.2)) }.resplit.heads

/-- SAVE (R384): a workgroup chosen to be saved, once quiet, goes into its save area; a new area starts at a page. Where the arena has
lost its room the choice is made again. Nothing where it is not due or the pages are not free. -/
def execSave (wg page : Nat) (s : State) : Out :=
  let g := s.wg wg
  if g.status != .saving || !s.quiet wg then .next s
  else
    let pages := cdiv (s.saveSize wg) 4096
    match g.saveArea with
    | some a => if pages ≤ a.2 then .next (s.saveTo wg a.1 a.2) else .next (fresh g pages)
    | none => .next (fresh g pages)
where
  /-- A save into a new area. -/
  fresh (g : Wg) (pages : Nat) : State :=
    let arena := s.arenaFor g
    if !s.someRun arena true pages then s.choose wg
    else if s.pagesFree arena true page pages then ((s.takePages arena true page pages 2 wg).saveTo wg page pages)
    else s

/-! ### Resume (R386) -/

/-- The banks of a resumed warp are claimed again, ahead of the claims that wait at its members (R135, R386). at' is where the save area
holds its first bank: bank by bank, and for each the members. -/
def State.reclaim (s : State) (k at' : Nat) (w : Warp) : State :=
  if w.claim.kept = [] then s
  else
    let back := fun (x : Nat) => match s.warp x with | none => false | some v => v.reclaim != []
    (List.range w.claim.gang).foldl (fun s m =>
      let b := memberOf w.claim.bench m
      let x := s.bench b
      s.setBench b { x with waiting := x.waiting.takeWhile back ++ k :: x.waiting.dropWhile back })
      (s.modWarp k (fun v => { v with reclaim := (List.range w.claim.gang).map (fun m => (m, at' + m * bankBytes)) }))

/-- A register is poisoned again where its bytes in the save area have been (R385). -/
def repoison (s : State) (at' : Nat) (v : RVal) : RVal := if s.rangePoison at' 8 then { v with poison := true } else v

/-- Poison in the save area where a warp's record holds per-warp state: PCs, lane doublewords, handles, descriptors, loop levels, CSRs, latches,
command queue and poison maps; or, where the workgroup's header is poisoned, its timelines and fault store (R384, R385, R390). -/
def State.recordBroken (s : State) (area record : Nat) : Bool :=
  s.rangePoison area 1536 || s.rangePoison record 512 || s.rangePoison (record + 768) 2048

/-- A warp comes back: its record's poisoned granules poison what is restored from them; waits, ages and stall counters start anew. -/
def State.restoreWarp (s : State) (named record slot : Nat) (w : Warp) : Warp :=
  let rs := fun (at' : Nat) (vs : List RVal) => ((List.range vs.length).zip vs).map (fun e => repoison s (at' + 8 * e.1) e.2)
  let sparse := fun (vs : List RVal) => ((List.range vs.length).zip vs).filter (fun e => e.2 != {})
  { w with
    slot := slot, wait := 0, bump := 0, away := 0, stall := [],
    s := sparse (rs (record + 512) w.uniforms),
    lanes := ((List.range 32).zip w.lanes).map (fun e =>
      let at' := record + 2816 + 8 * (named + 16) * e.1
      { e.2 with regs := sparse (rs at' (e.2.named named)),
                 queue := (rs (at' + 8 * named) e.2.entries).take e.2.queue.length }) }

/-- The saved messages as they come back: poisoned where they were, or where their bytes in the core records are now (R385). -/
def Wg.restoredMessages (g : Wg) (s : State) (rcb : Nat) : List Message :=
  let area := (g.saveArea.getD (0, 0)).1 * 4096
  ((List.range g.cores.length).zip (mkeys g.cores)).flatMap (fun c =>
    let ms := g.messages.filter (fun m => m.1 == c.2)
    ((List.range ms.length).zip ms).map (fun m =>
      ({ dst := c.2, src := c.2, region := rcb, value := m.2.2.1,
         poison := m.2.2.2 || s.rangePoison (area + 1536 + 576 * c.1 + 8 + 8 * m.1) 8 } : Message)))

/-- A warp whose per-warp state comes back poisoned raises a data-poison fault that is not recoverable (R385, R390). -/
def State.faultRestored (s : State) (k : Nat) : State :=
  match s.warp k with
  | none => s
  | some w =>
    s.takeFault k { cls := 0x11, lanes := w.live, fatal := true } ((w.lane (w.live.headD 0)).resumePc (s.code w)) (w.lane (w.live.headD 0)).runPc

/-- RESUME_WORKGROUP (R386): a saved workgroup whose turn it is in the pool is placed again on its cores, and its state restored; nothing
where its turn has not come: its node's cores or budgets have no room, or another goes first. DESIGN CHOICE (log entry 66): its messages go
back into their FIFOs behind what stands there, past the 64 entries of R238 where others have filled them meanwhile (R240). -/
def execResumeWorkgroup (wg : Nat) (s : State) : Out :=
  let g := s.wg wg
  let n := (s.node g.node).forWg g
  if s.nextResumed ≠ some wg then .next s
  else
    let ks := sortBy (fun k => ((s.warp k).getD {}).index) (s.warpsOf wg)
    let named := n.kernel.named
    let records := (g.saveArea.getD (0, 0)).1 * 4096 + 1536 + 576 * g.cores.length
    let split := g.cores.foldl (fun m c => mput 128 m c.1 (s.splitFor n c.1)) s.split
    let bankAt := records + ks.length * recordBytes named
    let s1 := ks.foldl (fun s k =>
      let w := (s.warp k).getD {}
      let i := (ks.takeWhile (fun x => x != k)).length
      let nth := ((ks.take i).filter (fun x => ((s.warp x).getD {}).core == w.core)).length
      (s.setWarp k (s.restoreWarp named (records + i * recordBytes named) ((s.freeSlots w.core ks.length).getD nth 0) w)).reclaim k
        (bankAt + ((ks.take i).flatMap (fun x => ((s.warp x).getD {}).ownedBanks)).length * bankBytes) w)
      { s with split := split }
    let s3 : State := { s1 with withdrawn := s1.withdrawn.filter (fun o => o.wg != wg),
                                arrays := s1.arrays ++ s1.withdrawn.filter (fun o => o.wg == wg),
                                fifo := s1.fifo ++ g.restoredMessages s n.region.rcb }
    let s4 := ((s3.budget wg 1 false).modWg wg (fun x => { x with status := .resident, messages := [] })).bankTurns
    let s5 : State := { (s4.modNode g.node (fun x => { x with head := none, blocking := false })).heads with placing := some g.node }
    let area := (g.saveArea.getD (0, 0)).1 * 4096
    .next (((List.range ks.length).zip ks).foldl (fun t e =>
      if s.recordBroken area (records + e.1 * recordBytes named) then t.faultRestored e.2 else t) s5)

/-! ### Flush (R387) -/

/-- The operations of a workgroup that wait for a Bench, or for their turn in a bank, are discarded without effect (R383). -/
def State.dropQueues (s : State) (wg : Nat) : State :=
  ({ s with arrays := s.arrays.filter (fun o => o.wg != wg) } : State).arraysGone ((s.arrays.filter (fun o => o.wg == wg)).map (fun o => o.id))

/-- FLUSH (R387): a workgroup chosen to be flushed, once quiet, gives everything back and is unplaced again; nothing before. -/
def execFlush (wg : Nat) (s : State) : Out :=
  if (s.wg wg).status != .flushing || !s.quiet wg then .next s
  else
    let s1 := s.quiesce wg
    let ks := s1.warpsOf wg
    let g := s1.wg wg
    let rcb := (s1.node g.node).region.rcb
    let others := fun (c : Nat) => s1.wgs.any (fun e => e.1 != wg && e.2.present && (s1.node e.2.node).region.rcb == rcb
      && (mget e.2.cores c).isSome)
    let gone := fun (m : Message) => m.region == rcb && (mget g.cores m.dst).isSome && !others m.dst
    let s2 := ks.foldl (fun s k => s.endClaim k) (s1.dropQueues wg)
    let s3 := (((s2.budget wg (-1) true).freePages 1 wg).freePages 2 wg).freeScratch wg
    let s4 : State := { s3 with warps := s3.warps.filter (fun e => e.2.wg != wg), wgs := merase s3.wgs wg,
                                fifo := s3.fifo.filter (fun m => !gone m), transit := s3.transit.filter (fun m => !gone m) }
    .next ((s4.modNode g.node (fun n => { n with flushed := insertNat g.index n.flushed, status := .pooled })).resplit.heads)

end Sys2Proof.Machine
end

