-- ==== Sys2Proof/Machine/Host.lean ====
section
/-! DEFINITION. What reaches the device from outside: translation invalidations (R332), the BAR0 registers (R391 to R394), BAR2
(R355), the links (R354, R357 to R362), errors the links and the scrub find (R243, R389, R390), reset and limits (R395, R396). -/

namespace Sys2Proof.Machine

/-! ### Translation invalidations (R332) -/

/-- A request is well formed: reserved bits 0, LOGN at most 44. -/
def invOk (v : BitVec 128) : Bool :=
  (v.extractLsb' 84 44 == 0) && (v.extractLsb' 56 8 == 0) && (v.extractLsb' 8 4 == 0) && decide ((v.extractLsb' 0 6).toNat ≤ 44)

/-- The request names the address space. -/
def invSpace (v : BitVec 128) (pasid : Nat) : Bool := v.getLsbD 6 || (v.extractLsb' 64 20).toNat == pasid

/-- The request's range overlaps 2^size bytes from page number vpn at that size. -/
def invCovers (v : BitVec 128) (size vpn : Nat) : Bool :=
  let lo := (v.extractLsb' 12 44).toNat * 4096
  v.getLsbD 7 || (decide (lo < (vpn + 1) * 2 ^ size) && decide (vpn * 2 ^ size < lo + 2 ^ ((v.extractLsb' 0 6).toNat + 12)))

/-- The request removes a held translation: a leaf, unless it is global and ALLP = 0; a walker's non-leaf entry. -/
def invRemoves (v : BitVec 128) (t : TlbEntry) : Bool :=
  invSpace v t.pasid && invCovers v t.size t.vpn && (t.level == 2 || v.getLsbD 6 || !t.leaf.getLsbD 4)

/-- INVALIDATION_REQUEST (R332): a malformed one is discarded and logged; one of the 64 that the register holds removes the translations
it covers. While 64 are pending the hub gives the host no credit, and none arrives. -/
def execInvalidationRequest (v : BitVec 64) (s : State) : Out :=
  let q : BitVec 128 := v ++ s.invLow
  if !invOk q then .next (s.log 0x18)
  else if 64 ≤ s.invReqs.length then .next s
  else .next { s with tlb := s.tlb.filter (fun t => !invRemoves q t), invReqs := s.invReqs ++ [(q, s.serial)] }

/-- Accesses through a translation the request covers that were under way at its submission are not all acknowledged. An access that is
held for a migrating page has not translated (R218). -/
def State.invWaits (s : State) (v : BitVec 128) (before : Nat) : Bool :=
  s.ops.any (fun o => decide (o.id < before) && invSpace v o.pasid && o.pages.any (fun p => invCovers v p.1 p.2))

/-- A cached line has been accessed through a page of the request: one whose translation, of whatever size, the request removes. -/
def Line.covered (v : BitVec 128) (l : Line) : Bool := l.users.any (fun u => invSpace v u.pasid && invCovers v u.size u.page)

/-- The lines of some caches that the request covers, with their core or cluster. -/
def coveredLines (v : BitVec 128) (cs : SMap (List Line)) : List (Nat × Line) :=
  cs.flatMap (fun e => (e.2.filter (Line.covered v)).map (fun l => (e.1, l)))

/-- The dirty bytes of the lines the request covers go to their home: the stores that left them have translated through it. -/
def State.pushCovered (s : State) (v : BitVec 128) : State :=
  let s1 := (coveredLines v s.l1).foldl (fun s e => s.pushL1 e.1 e.2.idx) s
  (coveredLines v s1.cc).foldl (fun s e => s.sendHome e.1 e.2.idx) s1

/-- A line the request covers is locked at its home: what went there is not acknowledged yet (R215). -/
def State.invLocked (s : State) (v : BitVec 128) : Bool := (coveredLines v s.l1 ++ coveredLines v s.cc).any (fun e => s.locked e.2.idx)

/-- The address of a parked WAIT lies in the request's range (R304). -/
def ParkedWait.covered (v : BitVec 128) (e : ParkedWait) : Bool := invSpace v e.pasid && invCovers v 3 (e.addr / 8)

/-- The leaves below a page table that stands at a physical address: the virtual address of each and the leaf, for the entries that memory
lists (R327, R328). -/
def State.leavesOf (s : State) (table level va left : Nat) : List (Nat × Leaf) :=
  match left with
  | 0 => []
  | k + 1 =>
    let size := 57 - 9 * level
    let is := ((s.mem.filter (fun c => decide (table ≤ c.1 ∧ c.1 < table + 8 * 2 ^ (if level = 1 then 8 else 9)))).map
      (fun c => (c.1 - table) / 8)).eraseDups
    is.flatMap (fun i =>
      let e := BitVec.ofNat 64 (s.num (table + 8 * i) 8)
      if !e.getLsbD 0 then []
      else if e.getLsbD 7 then [(va + i * 2 ^ size, { entry := e, size := size, addr := some (table + 8 * i) })]
      else s.leavesOf (frameOf e) (level + 1) (va + i * 2 ^ size) k)

/-- The address spaces that a request names, of those whose page tables memory lists. -/
def State.invSpaces (s : State) (v : BitVec 128) : List Nat :=
  let base := (s.reg 0x110).toNat
  ((s.mem.filter (fun c => decide (base ≤ c.1 ∧ c.1 < base + 8 * 2 ^ (s.reg 0x118).toNat))).map (fun c => (c.1 - base) / 8)).eraseDups.filter
    (invSpace v)

/-- What the device learns of migrating pages where an invalidation completes (R218): of a covered page with MIG = 1 its old frame; one that
has been noted and has MIG = 0 now has moved. -/
def State.seeMigrations (s : State) (v : BitVec 128) : State :=
  (s.invSpaces v).foldl (fun s p => match rootOf s p with
    | none => s
    | some r => ((s.leavesOf r 1 0 5).filter (fun e => invCovers v e.2.size (e.1 / 2 ^ e.2.size))).foldl
        (fun s e => (s.noteMig p e.1 e.2).carried p e.1 e.2) s) s

/-- INVALIDATION_COMPLETE (R332, R304): once the accesses before the oldest request are over, the dirty bytes they left go home; when these
are acknowledged the request is counted in INVDONE, the parked WAITs it covers are walked again, and pages that migrate are noted or move
(R218). Nothing while it waits. -/
def execInvalidationComplete (s : State) : Out :=
  match s.invReqs with
  | [] => .next s
  | (v, before) :: r =>
    if s.invWaits v before || s.invLocked v then .next s
    else if before ≠ 0 then .next { s.pushCovered v with invReqs := (v, 0) :: r }
    else
      .next ((({ s with invReqs := r, parked := s.parked.map (fun e => if e.covered v then { e with due := 0 } else e) } : State).setReg 0x20
        (s.reg 0x20 + 1)).seeMigrations v)

/-! ### Registers (R391 to R394) -/

/-- A base register names memory over an extent (R392). -/
def baseOk (base : Word) (extent : Nat) (deviceOnly : Bool) : Bool :=
  let b := base.toNat
  decide (b < 2 ^ 52) && (if b < hostBase then decide (b + extent ≤ deviceBytes) else !deviceOnly && decide (b + extent ≤ 2 * hostBase))

/-- The initialisation registers hold values within the table of R392. -/
def State.initOk (s : State) : Bool :=
  let n := fun (o : Nat) => (s.reg o).toNat
  decide (6 ≤ n 0x108 ∧ n 0x108 ≤ 16) && n 0x100 % (64 * 2 ^ n 0x108) == 0 && baseOk (s.reg 0x100) (64 * 2 ^ n 0x108) false
    && decide (4 ≤ n 0x118 ∧ n 0x118 ≤ 20) && n 0x110 % 8 == 0 && baseOk (s.reg 0x110) (8 * 2 ^ n 0x118) false
    && n 0x120 % 0x200000 == 0 && n 0x128 % 0x200000 == 0 && decide (0x200000 ≤ n 0x128 ∧ n 0x128 ≤ 0x1000000000)
    && baseOk (s.reg 0x120) (n 0x128) true
    && decide (2 ≤ n 0x138 ∧ n 0x138 ≤ 12) && n 0x130 % 128 == 0 && baseOk (s.reg 0x130) (5120 * 2 ^ n 0x138) false
    && decide (4 ≤ n 0x148 ∧ n 0x148 ≤ 16) && n 0x140 % 128 == 0 && baseOk (s.reg 0x140) (128 * 2 ^ n 0x148) false

/-- ENABLE (R392): a write of 1 starts service, or is refused and sets DEVSTAT[4]; other values, and a device in service, take nothing. -/
def execEnable (v : BitVec 64) (s : State) : Out :=
  if v ≠ 1 ∨ s.enabled ∨ !s.ready then .next s
  else if s.initOk then .next { s with enabled := true, refused := false }
  else .next { s with refused := true }

/-- ERRCNT (R393): a write of any value clears both counts of the domain. -/
def execErrcnt (domain : BitVec 3) (s : State) : Out := .next (s.setReg (0x2100 + 8 * domain.toNat) 0)

/-- CONGEST (R391): a write of any value clears the count. -/
def execCongest (_v : BitVec 64) (s : State) : Out := .next (s.setReg 0x2200 0)

/-- EVLOST (R391, R394): a write of any value clears the count. -/
def execEvlost (_v : BitVec 64) (s : State) : Out := .next (s.setReg 0x160 0)

/-- DEVSTAT (R391). -/
def State.devstat (s : State) : Word :=
  BitVec.ofNat 64 (s.booted.toNat + 2 * s.ready.toNat + 4 * s.throttled.toNat + 8 * s.tripped.toNat + 16 * s.refused.toNat)

/-- The write-only registers (R391). -/
def writeOnly (off : Nat) : Bool := [0x0, 0x10, 0x18, 0x28, 0x30, 0x170].elem off

/-- What a BAR0 register reads as (R391): a write-only register is given no value to read, and reads 0 as an unnamed offset does. -/
def State.barRead (s : State) (off : Nat) : Word :=
  if off = 0x2000 then 1 else if off = 0x2008 then s.devstat else if writeOnly off then 0 else s.reg off

/-- An entry of the export table is malformed (R361). -/
def exportBad (lo hi : Word) : Bool :=
  (hi.extractLsb' 19 45 != 0) || (lo.extractLsb' 40 21 != 0) || (lo.extractLsb' 19 13 != 0) || hi.extractLsb' 0 19 == 0
    || decide (393216 < (lo.extractLsb' 0 19).toNat + (hi.extractLsb' 0 19).toNat)

/-- A write of a doubleword of the export table: an entry in use that is malformed is logged (R361). -/
def State.writeExport (s : State) (off : Nat) (v : Word) : State :=
  let t := s.setReg off v
  let lo := t.reg (off / 16 * 16)
  if lo.getLsbD 63 && exportBad lo (t.reg (off / 16 * 16 + 8)) then t.log off else t

/-- The initialisation registers (R391). -/
def isInit (off : Nat) : Bool := decide (0x100 ≤ off ∧ off ≤ 0x148)

/-- Registers that hold what is written (R391): RPTRD, EVRD, DBGEN. -/
def holdsWrite (off : Nat) : Bool := off == 0x40 || off == 0x158 || decide (0x2300 ≤ off ∧ off ≤ 0x2318)

/-- A Col port, down until it has trained. -/
def State.port (s : State) (p : Nat) : ColPort := mgetD s.ports p {}

/-- The ports of the route to a peer (R358). -/
def State.routePorts (s : State) (peer : Nat) : List Nat := (List.range 24).filter (fun p => (s.reg (0x800 + 8 * peer)).getLsbD p)

/-- Every port of the route to a peer has been down for 2^20 cycles (R362). -/
def State.routeDown (s : State) (peer : Nat) : Bool :=
  s.routePorts peer != [] && (s.routePorts peer).all (fun p => (s.port p).rate == 0 && decide ((s.port p).since + 2 ^ 20 ≤ s.cycle))

/-- A write of an entry of the route table (R358): a route that leads over another port again is lost no longer (R362). -/
def State.writeRoute (s : State) (off : Nat) (v : Word) : State :=
  let t := s.setReg off v
  if t.routeDown ((off - 0x800) / 8) then t else { t with lost := t.lost.filter (fun p => p != (off - 0x800) / 8) }

/-- REGISTER_WRITE (R391): a doubleword written to BAR0; registers with an effect of their own have it, an initialisation register in
service logs the write, and read-only and unnamed offsets ignore it. -/
def execRegisterWrite (off : BitVec 16) (v : BitVec 64) (s : State) : Out :=
  let o := off.toNat
  if o % 8 ≠ 0 then .next s
  else if o = 0 then execDoorbell 0 v s
  else if o = 0x10 then .next { s with invLow := v }
  else if o = 0x18 then execInvalidationRequest v s
  else if o = 0x28 then .next { s with meterCmds := s.meterCmds ++ [v.toNat] }
  else if o = 0x30 then .next { s with regCmds := s.regCmds ++ [v.toNat] }
  else if isInit o then (if s.enabled then .next (s.log o) else .next (s.setReg o v))
  else if o = 0x160 then execEvlost v s
  else if o = 0x170 then execEnable v s
  else if holdsWrite o then .next (s.setReg o v)
  else if 0x800 ≤ o ∧ o < 0x1000 then .next (s.writeRoute o v)
  else if 0x1000 ≤ o ∧ o < 0x1400 then .next (s.writeExport o v)
  else if 0x2100 ≤ o ∧ o < 0x2140 then execErrcnt (BitVec.ofNat 3 ((o - 0x2100) / 8)) s
  else if o = 0x2200 then execCongest v s
  else .next s

/-! ### BAR2 and Col (R355, R361) -/

/-- A write from outside arrives at home (R355, R361); bytes of the queue table free the early credits of the queues they rewrite (R305). -/
def State.outsideWrite (s : State) (pa : Nat) (bs : List Byte) : State :=
  let first := (s.reg 0x100).toNat
  let hit := fun (c : Credit) => match s.findQueue c.pasid c.qnum with
    | none => false
    | some q => decide (first ≤ q ∧ pa < q + 64 ∧ q < pa + bs.length)
  (if s.enabled then { s with credits := s.credits.filter (fun c => !hit c) } else s).deviceWrite pa bs

/-- A read from outside at home waits for the locks of its lines (R215), and answers the bytes. -/
def State.outsideRead (s : State) (pa n : Nat) : State :=
  { s.unlock (linesOf ((List.range n).map (fun i => pa + i))) with hostRead := s.bytes pa n }

/-- HOST_BAR2_ACCESS (R355, R395): a read answers the bytes at home, a write is one of system scope there; beyond device memory or the size
of BAR2 (R354), and where boot failed, the access completes with Unsupported Request, which answers nothing. -/
def execHostBar2Access (wr : Bool) (pa bytes : Nat) (data : BitVec 512) (s : State) : Out :=
  if !s.booted ∨ deviceBytes < pa + bytes ∨ s.bar2 * 2 ^ 30 < pa + bytes then .next { s with hostRead := [] }
  else if wr then .next (s.outsideWrite pa ((bytesLE 64 data.toNat).take bytes))
  else .next (s.outsideRead pa bytes)

/-- Some export entry in use lets a peer reach bytes, to read or to write (R361). -/
def State.exported (s : State) (peer pa n : Nat) (rd wr : Bool) : Bool :=
  (List.range 64).any (fun e =>
    let lo := s.reg (0x1000 + 16 * e)
    let hi := s.reg (0x1008 + 16 * e)
    lo.getLsbD 63 && !exportBad lo hi && (lo.extractLsb' 32 8).toNat == peer && (!rd || lo.getLsbD 61) && (!wr || lo.getLsbD 62)
      && decide ((lo.extractLsb' 0 19).toNat * 0x200000 ≤ pa
          ∧ pa + n ≤ ((lo.extractLsb' 0 19).toNat + (hi.extractLsb' 0 19).toNat) * 0x200000))

/-- One atomic or reduction of a peer at home (R191, R192, R361): memory that is poisoned stays as it is. -/
def State.peerRmw (s : State) (pa n aop : Nat) (data e : Word) : State :=
  let old := s.num pa n
  if s.rangePoison pa n then s
  else
    match rmwNew aop (n == 8) (BitVec.ofNat 64 old) data e with
    | none => s
    | some v => s.outsideWrite pa (bytesLE n v.toNat)

/-- COL_INBOUND_REQUEST (R361): served at home inside an entry that gives the rights; refused otherwise, which answers nothing. A RED
carries its functions under RED's own codes. -/
def execColInboundRequest (peer : BitVec 8) (op : BitVec 2) (pa bytes : Nat) (data : BitVec 512) (s : State) : Out :=
  let rmw := decide (2 ≤ op.toNat)
  let aop := (data.extractLsb' 128 4).toNat
  let known := if op = 2 then decide (aop ≤ 8) else aop == 0 || aop == 2 || aop == 8 || (aop == 9 && bytes == 4)
  if !s.exported peer.toNat pa bytes (op != 1) (op != 0) ∨ (rmw ∧ (!known ∨ ¬ (bytes = 4 ∨ bytes = 8) ∨ pa % bytes ≠ 0)) then
    .next { s with hostRead := [] }
  else if op = 0 then .next (s.outsideRead pa bytes)
  else if op = 1 then .next (s.outsideWrite pa ((bytesLE 64 data.toNat).take bytes))
  else
    let t := s.peerRmw pa bytes aop (data.extractLsb' 0 64) (data.extractLsb' 64 64)
    .next (if op = 2 then { t with hostRead := s.bytes pa bytes } else t)

/-! ### Links (R354, R357, R358, R362) -/

/-- The port that packets for a line of a peer take (R358): one of its route, by the line's address; which one is the device's choice. -/
def State.portFor (s : State) (peer line : Nat) : Option Nat :=
  (s.routePorts peer)[Config.portKey line % (s.routePorts peer).length]?

/-- ROUTE_LOST (R362): a route with ports, each of which has been down for 2^20 cycles, is lost; no other is. -/
def execRouteLost (peer : BitVec 8) (s : State) : Out :=
  .next (if s.routeDown peer.toNat then { s with lost := insertNat peer.toNat s.lost } else s)

/-- COL_PORT_TRAIN (R357): the port trains to Col-1 or Col-2; a route over it is lost no longer. -/
def execColPortTrain (port rate : Nat) (s : State) : Out :=
  if port < 24 ∧ (rate = 1 ∨ rate = 2) then
    .next { s with ports := mput {} s.ports port { rate := rate, since := s.cycle },
                   lost := s.lost.filter (fun p => !(s.routePorts p).elem port) }
  else .next s

/-- COL_PORT_DOWN (R362): a port that is up goes down, and its count of cycles starts. -/
def execColPortDown (port : Nat) (s : State) : Out :=
  if (s.port port).rate = 0 then .next s else .next { s with ports := mput {} s.ports port { rate := 0, since := s.cycle } }

/-- PCIE_LINK_TRAIN (R354): the host port trains to a rate in GT/s and a width that it supports. -/
def execPcieLinkTrain (rate width : Nat) (s : State) : Out :=
  if [32, 64, 128].elem rate && [4, 8, 16].elem width then .next { s with pcieRate := rate, pcieWidth := width } else .next s

/-! ### Errors and congestion (R243, R389, R390, R393) -/

/-- A parity check finds an error in a 64-bit granule of a warp (R389, R390): place 128 l + k is named register k of lane l, 64 + k its queue
entry k, which is marked poisoned; 4,096 and above is per-warp state, and the warp raises a data-poison fault that is not recoverable
(R369). One in an entry that is poisoned already is not counted again (R393). -/
def State.parity (s : State) (key place : Nat) : State :=
  match s.warp key with
  | none => s
  | some w =>
    let l := place / 128
    let k := place % 128
    let count := fun (t : State) => t.countError 3 true w.core
    let mark := fun (v : RVal) => { v with poison := true }
    if 4096 ≤ place then
      (let x := w.live.headD 0
       (count s).takeFault key { cls := 0x11, lanes := w.live, fatal := true } ((w.lane x).resumePc (s.code w)) (w.lane x).resume.runPc)
    else if k < 64 then
      (if (mgetD (w.lane l).regs k {}).poison then s
       else count (s.setWarp key (w.modLane l (fun x => { x with regs := mput {} x.regs k (mark (mgetD x.regs k {})) }))))
    else if k < 80 && decide (k - 64 < (w.lane l).queue.length) then
      (if ((w.lane l).queue.getD (k - 64) {}).poison then s
       else count (s.setWarp key (w.modLane l (fun x => { x with queue := setAt x.queue (k - 64) mark }))))
    else s

/-- What a check of R389 finds does (R389, R390, R393): in the networks, Col and PCIe (domains 4 to 6) the retry delivers the flit, and the
failure is counted as corrected; a check of a memory stack, a cache or an SRAM (0 to 2) finds an error at a byte, as a core reads it, that it
corrects and counts, or that poisons its granule; parity (3) finds one in a warp. -/
def State.checkFinds (s : State) (domain unit place : Nat) (uncorrected : Bool) : State :=
  if 4 ≤ domain ∧ domain ≤ 6 then s.countError domain false 0
  else if domain = 3 then s.parity unit place
  else if 6 < domain ∨ (domain ≤ 1) ≠ isCached place then s
  else if uncorrected then s.flawAt unit place domain
  else s.countError domain false place

/-- FLIT_CRC_FAILURE (R389, R390, R393), the event of every check of R389 that another step does not make: of a link's CRC the retry is counted;
where the check of a store finds its error, and whether it can correct it, is open. -/
def execFlitCrcFailure (domain : BitVec 3) (s : State) : Out :=
  let d := domain.toNat
  let v := fun (k : Nat) => Config.freeWord (s.free + k)
  .next (if 4 ≤ d ∧ d ≤ 6 then s.checkFinds d 0 0 false
    else ({ s with free := s.free + 4 } : State).checkFinds d (v 0).toNat ((v 1).toNat * 2 ^ 64 + (v 2).toNat) ((v 3).getLsbD 0))

/-- CONGESTION_EVENT (R12, R243, R391): counted in CONGEST; the first since it was cleared leaves its source and class in CONGSRC. No unit
has a number past the last core's. -/
def execCongestionEvent (unit : BitVec 16) (cls : BitVec 3) (s : State) : Out :=
  let s1 := if s.reg 0x2200 = 0 then s.setReg 0x2208 ((cls ++ unit).setWidth 64) else s
  .next (if 512 ≤ unit.toNat then s else s1.setReg 0x2200 (satInc (s.reg 0x2200)))

/-- PATROL_SCRUB (R390, R393): a granule of device memory is read: corrected, or uncorrectable, when it is poisoned, counted and logged. A
granule that is poisoned already is not counted again. -/
def execPatrolScrub (granule : Nat) (corrected poisoned : Bool) (s : State) : Out :=
  let a := 32 * granule
  if deviceBytes ≤ a then .next s
  else if poisoned then
    (if s.rangePoison a 32 then .next s else .next (((s.poisonGranule a).countError 7 true a).log a))
  else if corrected then .next (s.countError 7 false a)
  else .next s

/-! ### Reset and limits (R395, R396) -/

/-- The bytes outside the device: host memory and that of peers. -/
def isOutside (a : Nat) : Bool := decide (hostBase ≤ a ∧ a < scratchFlat 0 0) || isPeer a

/-- COLD_RESET (R395, R350): every register, CSR and byte of device memory at its reset value, every tag 0; what lies outside the device,
and the creation count, stay. Boot passes only with verified firmware. -/
def execColdReset (verified : Bool) (s : State) : Out :=
  .next { State.reset with
    booted := verified, ready := verified, agenda := s.agenda, creation := s.creation, grants := s.grants, free := s.free,
    signed := s.signed, mem := s.mem.filter (fun c => isOutside c.1), poison := s.poison.filter isOutside }

/-- The regions the device knows: those of its admitted nodes, and those that its other nodes name. -/
def State.regions (s : State) : List Nat :=
  (s.nodes.flatMap (fun e => if e.2.region.chain != [] then e.2.region.chain else (s.rcbChain e.2.rcb 16).getD [])).eraseDups

/-- FUNCTION_LEVEL_RESET (R395): every region ends as FDP 2 would end it, without event records; meter slots and tags stay; admission
numbers, the search for a cluster and the arbiters' turns start again (R142, R310, R367). -/
def execFunctionLevelReset (s : State) : Out :=
  let t := s.regions.foldl State.killRegion s
  .next { t with admitted := 0, lastCluster := [], benches := t.benches.map (fun e => (e.1, { e.2 with served := none })) }

/-- TEMP and POWER are measured, and the device throttles while either exceeds its limit: 105 °C in steps of 0.125 °C, 2,600 W. -/
def State.gauge (s : State) (temp power : Word) : State :=
  { (s.setReg 0x2400 temp).setReg 0x2408 power with throttled := decide (840 < temp.toNat ∨ 2600 < power.toNat) }

/-- The device trips (R396): the event is written, issue stops, and nothing but a power cycle acts from then on. -/
def State.trip (s : State) : State :=
  if s.tripped then s
  else { s.eventOpen 5 with tripped := true, ready := false, cur := { s.cur with go := false }, second := none, turns := [] }

/-- A measurement: above 120 °C the device trips. -/
def State.measure (s : State) (temp power : Word) : State :=
  if 960 < temp.toNat then (s.gauge temp power).trip else s.gauge temp power

/-- THROTTLE_START (R396). -/
def execThrottleStart (temp power : BitVec 64) (s : State) : Out := .next (s.measure temp power)

/-- THROTTLE_END (R396). -/
def execThrottleEnd (temp power : BitVec 64) (s : State) : Out := .next (s.measure temp power)

/-- TRIP (R396): above 120 °C, or below 40 V, issue stops, the event is written, and the device stays in cold reset until power is
cycled. -/
def execTrip (temp : BitVec 64) (supply : Bool) (s : State) : Out :=
  .next (if supply then (s.gauge temp (s.reg 0x2408)).trip else s.measure temp (s.reg 0x2408))

end Sys2Proof.Machine
end

