-- ==== Sys2Proof/Machine/Dispatch.lean ====
section
/-! DEFINITION. The meaning of every instruction: one arm per constructor, each one call. -/

namespace Sys2Proof.Machine

/-- What one step of the device does. -/
def exec (i : Instr) (s : State) : Host.Outcome State Fault Refusal :=
  match i with
  | .add d a b w => Sys2Proof.Machine.execAdd d a b w s
  | .sub d a b w => Sys2Proof.Machine.execSub d a b w s
  | .mul d a b w => Sys2Proof.Machine.execMul d a b w s
  | .mulhu d a b w => Sys2Proof.Machine.execMulhu d a b w s
  | .min d a b w => Sys2Proof.Machine.execMin d a b w s
  | .max d a b w => Sys2Proof.Machine.execMax d a b w s
  | .minu d a b w => Sys2Proof.Machine.execMinu d a b w s
  | .maxu d a b w => Sys2Proof.Machine.execMaxu d a b w s
  | .divu d a b w => Sys2Proof.Machine.execDivu d a b w s
  | .remu d a b w => Sys2Proof.Machine.execRemu d a b w s
  | .and d a b w => Sys2Proof.Machine.execAnd d a b w s
  | .or d a b w => Sys2Proof.Machine.execOr d a b w s
  | .xor d a b w => Sys2Proof.Machine.execXor d a b w s
  | .andn d a b w => Sys2Proof.Machine.execAndn d a b w s
  | .shl d a b w => Sys2Proof.Machine.execShl d a b w s
  | .shr d a b w => Sys2Proof.Machine.execShr d a b w s
  | .sar d a b w => Sys2Proof.Machine.execSar d a b w s
  | .popc d a w => Sys2Proof.Machine.execPopc d a w s
  | .clz d a w => Sys2Proof.Machine.execClz d a w s
  | .ctz d a w => Sys2Proof.Machine.execCtz d a w s
  | .bfx d a b w => Sys2Proof.Machine.execBfx d a b w s
  | .ceq d a b => Sys2Proof.Machine.execCeq d a b s
  | .clt d a b => Sys2Proof.Machine.execClt d a b s
  | .cltu d a b => Sys2Proof.Machine.execCltu d a b s
  | .geq g a b => Sys2Proof.Machine.execGeq g a b s
  | .gne g a b => Sys2Proof.Machine.execGne g a b s
  | .glt g a b => Sys2Proof.Machine.execGlt g a b s
  | .gle g a b => Sys2Proof.Machine.execGle g a b s
  | .gltu g a b => Sys2Proof.Machine.execGltu g a b s
  | .gleu g a b => Sys2Proof.Machine.execGleu g a b s
  | .gand g h j => Sys2Proof.Machine.execGand g h j s
  | .gor g h j => Sys2Proof.Machine.execGor g h j s
  | .gnot g h => Sys2Proof.Machine.execGnot g h s
  | .madW d a b c => Sys2Proof.Machine.execMadW d a b c s
  | .madD d a b c => Sys2Proof.Machine.execMadD d a b c s
  | .shadd d a b c => Sys2Proof.Machine.execShadd d a b c s
  | .bfi d a b c => Sys2Proof.Machine.execBfi d a b c s
  | .addi d a ix => Sys2Proof.Machine.execAddi d a ix s
  | .andi d a ix => Sys2Proof.Machine.execAndi d a ix s
  | .ori d a ix => Sys2Proof.Machine.execOri d a ix s
  | .xori d a ix => Sys2Proof.Machine.execXori d a ix s
  | .shli d a ix => Sys2Proof.Machine.execShli d a ix s
  | .shri d a ix => Sys2Proof.Machine.execShri d a ix s
  | .sari d a ix => Sys2Proof.Machine.execSari d a ix s
  | .ceqi d a ix => Sys2Proof.Machine.execCeqi d a ix s
  | .clti d a ix => Sys2Proof.Machine.execClti d a ix s
  | .geqi g a ix => Sys2Proof.Machine.execGeqi g a ix s
  | .gnei g a ix => Sys2Proof.Machine.execGnei g a ix s
  | .glti g a ix => Sys2Proof.Machine.execGlti g a ix s
  | .sel d a b g => Sys2Proof.Machine.execSel d a b g s
  | .seln d a b g => Sys2Proof.Machine.execSeln d a b g s
  | .fadd d a b => Sys2Proof.Machine.execFadd d a b s
  | .fsub d a b => Sys2Proof.Machine.execFsub d a b s
  | .fmul d a b => Sys2Proof.Machine.execFmul d a b s
  | .fmin d a b => Sys2Proof.Machine.execFmin d a b s
  | .fmax d a b => Sys2Proof.Machine.execFmax d a b s
  | .fabs d a => Sys2Proof.Machine.execFabs d a s
  | .fneg d a => Sys2Proof.Machine.execFneg d a s
  | .frint d a => Sys2Proof.Machine.execFrint d a s
  | .fma d a b c => Sys2Proof.Machine.execFma d a b c s
  | .fms d a b c => Sys2Proof.Machine.execFms d a b c s
  | .fnma d a b c => Sys2Proof.Machine.execFnma d a b c s
  | .dfma d a b c => Sys2Proof.Machine.execDfma d a b c s
  | .hadd2 d a b => Sys2Proof.Machine.execHadd2 d a b s
  | .hmul2 d a b => Sys2Proof.Machine.execHmul2 d a b s
  | .hmin2 d a b => Sys2Proof.Machine.execHmin2 d a b s
  | .hmax2 d a b => Sys2Proof.Machine.execHmax2 d a b s
  | .hfma2 d a b c => Sys2Proof.Machine.execHfma2 d a b c s
  | .dot4 d a b c => Sys2Proof.Machine.execDot4 d a b c s
  | .dadd d a b => Sys2Proof.Machine.execDadd d a b s
  | .dsub d a b => Sys2Proof.Machine.execDsub d a b s
  | .dmul d a b => Sys2Proof.Machine.execDmul d a b s
  | .dmin d a b => Sys2Proof.Machine.execDmin d a b s
  | .dmax d a b => Sys2Proof.Machine.execDmax d a b s
  | .cvtF32S32 d a => Sys2Proof.Machine.execCvtF32S32 d a s
  | .cvtS32F32 d a => Sys2Proof.Machine.execCvtS32F32 d a s
  | .cvtU32F32 d a => Sys2Proof.Machine.execCvtU32F32 d a s
  | .cvtF64F32 d a => Sys2Proof.Machine.execCvtF64F32 d a s
  | .cvtF32F64 d a => Sys2Proof.Machine.execCvtF32F64 d a s
  | .cvtF64S64 d a => Sys2Proof.Machine.execCvtF64S64 d a s
  | .cvtS64F64 d a => Sys2Proof.Machine.execCvtS64F64 d a s
  | .cvtBf16F32 d a => Sys2Proof.Machine.execCvtBf16F32 d a s
  | .cvtF32Bf16 d a => Sys2Proof.Machine.execCvtF32Bf16 d a s
  | .cvtF16F32 d a => Sys2Proof.Machine.execCvtF16F32 d a s
  | .cvtF32F16 d a => Sys2Proof.Machine.execCvtF32F16 d a s
  | .pack2 d a b => Sys2Proof.Machine.execPack2 d a b s
  | .fclt d a b => Sys2Proof.Machine.execFclt d a b s
  | .fcle d a b => Sys2Proof.Machine.execFcle d a b s
  | .fceq d a b => Sys2Proof.Machine.execFceq d a b s
  | .fglt g a b => Sys2Proof.Machine.execFglt g a b s
  | .fgle g a b => Sys2Proof.Machine.execFgle g a b s
  | .fgeq g a b => Sys2Proof.Machine.execFgeq g a b s
  | .fgne g a b => Sys2Proof.Machine.execFgne g a b s
  | .fgun g a b => Sys2Proof.Machine.execFgun g a b s
  | .dglt g a b => Sys2Proof.Machine.execDglt g a b s
  | .ex2 d a r => Sys2Proof.Machine.execEx2 d a r s
  | .lg2 d a r => Sys2Proof.Machine.execLg2 d a r s
  | .rcp d a r => Sys2Proof.Machine.execRcp d a r s
  | .rsq d a r => Sys2Proof.Machine.execRsq d a r s
  | .sqrt d a r => Sys2Proof.Machine.execSqrt d a r s
  | .sinpi d a r => Sys2Proof.Machine.execSinpi d a r s
  | .cospi d a r => Sys2Proof.Machine.execCospi d a r s
  | .tanh d a r => Sys2Proof.Machine.execTanh d a r s
  | .sigm d a r => Sys2Proof.Machine.execSigm d a r s
  | .gelu d a r => Sys2Proof.Machine.execGelu d a r s
  | .qse3 d a => Sys2Proof.Machine.execQse3 d a s
  | .qse5 d a => Sys2Proof.Machine.execQse5 d a s
  | .qse8 d a => Sys2Proof.Machine.execQse8 d a s
  | .dqse3 d a => Sys2Proof.Machine.execDqse3 d a s
  | .dqse5 d a => Sys2Proof.Machine.execDqse5 d a s
  | .dqse8 d a => Sys2Proof.Machine.execDqse8 d a s
  | .uadd sb d a b => Sys2Proof.Machine.execUadd sb d a b s
  | .usub sb d a b => Sys2Proof.Machine.execUsub sb d a b s
  | .umul sb d a b => Sys2Proof.Machine.execUmul sb d a b s
  | .umin sb d a b => Sys2Proof.Machine.execUmin sb d a b s
  | .umax sb d a b => Sys2Proof.Machine.execUmax sb d a b s
  | .uand sb d a b => Sys2Proof.Machine.execUand sb d a b s
  | .uor sb d a b => Sys2Proof.Machine.execUor sb d a b s
  | .ushl sb d a b => Sys2Proof.Machine.execUshl sb d a b s
  | .ushr sb d a b => Sys2Proof.Machine.execUshr sb d a b s
  | .uceq sb d a b => Sys2Proof.Machine.execUceq sb d a b s
  | .uclt sb d a b => Sys2Proof.Machine.execUclt sb d a b s
  | .ucltu sb d a b => Sys2Proof.Machine.execUcltu sb d a b s
  | .udivu sb d a b => Sys2Proof.Machine.execUdivu sb d a b s
  | .uaddi sb d a ix => Sys2Proof.Machine.execUaddi sb d a ix s
  | .uandi sb d a ix => Sys2Proof.Machine.execUandi sb d a ix s
  | .ushli sb d a ix => Sys2Proof.Machine.execUshli sb d a ix s
  | .ushri sb d a ix => Sys2Proof.Machine.execUshri sb d a ix s
  | .uceqi sb d a ix => Sys2Proof.Machine.execUceqi sb d a ix s
  | .uclti sb d a ix => Sys2Proof.Machine.execUclti sb d a ix s
  | .ulda sb d a o => Sys2Proof.Machine.execUlda sb d a o s
  | .uldk sb d a o => Sys2Proof.Machine.execUldk sb d a o s
  | .uld d a o => Sys2Proof.Machine.execUld d a o s
  | .ureadl d a b => Sys2Proof.Machine.execUreadl d a b s
  | .ufirst d a => Sys2Proof.Machine.execUfirst d a s
  | .ld x a m z c o p => Sys2Proof.Machine.execLd x a m z c o p s
  | .st x a m z c o g => Sys2Proof.Machine.execSt x a m z c o g s
  | .atomAdd x a w c o g => Sys2Proof.Machine.execAtomAdd x a w c o g s
  | .atomMin x a w c o g => Sys2Proof.Machine.execAtomMin x a w c o g s
  | .atomMax x a w c o g => Sys2Proof.Machine.execAtomMax x a w c o g s
  | .atomAnd x a w c o g => Sys2Proof.Machine.execAtomAnd x a w c o g s
  | .atomOr x a w c o g => Sys2Proof.Machine.execAtomOr x a w c o g s
  | .atomXor x a w c o g => Sys2Proof.Machine.execAtomXor x a w c o g s
  | .atomExch x a w c o g => Sys2Proof.Machine.execAtomExch x a w c o g s
  | .atomCas x a w c o g => Sys2Proof.Machine.execAtomCas x a w c o g s
  | .atomFadd x a w c o g => Sys2Proof.Machine.execAtomFadd x a w c o g s
  | .redAdd x a w c o g => Sys2Proof.Machine.execRedAdd x a w c o g s
  | .redMax x a w c o g => Sys2Proof.Machine.execRedMax x a w c o g s
  | .redFadd x a w c o g => Sys2Proof.Machine.execRedFadd x a w c o g s
  | .redFadd2 x a c o g => Sys2Proof.Machine.execRedFadd2 x a c o g s
  | .fence c o => Sys2Proof.Machine.execFence c o s
  | .fenceR a c o => Sys2Proof.Machine.execFenceR a c o s
  | .cwb a c => Sys2Proof.Machine.execCwb a c s
  | .cinv a c => Sys2Proof.Machine.execCinv a c s
  | .pref a c => Sys2Proof.Machine.execPref a c s
  | .br g d => Sys2Proof.Machine.execBr g d s
  | .brn g d => Sys2Proof.Machine.execBrn g d s
  | .call g d => Sys2Proof.Machine.execCall g d s
  | .bruz sb c d => Sys2Proof.Machine.execBruz sb c d s
  | .brunz sb c d => Sys2Proof.Machine.execBrunz sb c d s
  | .jmpi a => Sys2Proof.Machine.execJmpi a s
  | .calli a => Sys2Proof.Machine.execCalli a s
  | .ret => Sys2Proof.Machine.execRet s
  | .land => Sys2Proof.Machine.execLand s
  | .park a => Sys2Proof.Machine.execPark a s
  | .yield => Sys2Proof.Machine.execYield s
  | .exit => Sys2Proof.Machine.execExit s
  | .regroup a => Sys2Proof.Machine.execRegroup a s
  | .part k a => Sys2Proof.Machine.execPart k a s
  | .gmask d k => Sys2Proof.Machine.execGmask d k s
  | .vall d a k => Sys2Proof.Machine.execVall d a k s
  | .vany d a k => Sys2Proof.Machine.execVany d a k s
  | .vbal d a k => Sys2Proof.Machine.execVbal d a k s
  | .shfl d a b k => Sys2Proof.Machine.execShfl d a b k s
  | .push d a b k => Sys2Proof.Machine.execPush d a b k s
  | .csum d a k => Sys2Proof.Machine.execCsum d a k s
  | .cmax d a k => Sys2Proof.Machine.execCmax d a k s
  | .cfsum d a k => Sys2Proof.Machine.execCfsum d a k s
  | .cscan d a k => Sys2Proof.Machine.execCscan d a k s
  | .compress d a b m => Sys2Proof.Machine.execCompress d a b m s
  | .expand d a b m => Sys2Proof.Machine.execExpand d a b m s
  | .slideup d a b m => Sys2Proof.Machine.execSlideup d a b m s
  | .slidedn d a b m => Sys2Proof.Machine.execSlidedn d a b m s
  | .loop l c e t r u => Sys2Proof.Machine.execLoop l c e t r u s
  | .lbrk g l => Sys2Proof.Machine.execLbrk g l s
  | .lrd g l a h => Sys2Proof.Machine.execLrd g l a h s
  | .lwr l a => Sys2Proof.Machine.execLwr l a s
  | .adbase k a b => Sys2Proof.Machine.execAdbase k a b s
  | .adcoef k a b => Sys2Proof.Machine.execAdcoef k a b s
  | .adlim k a => Sys2Proof.Machine.execAdlim k a s
  | .adstg k a => Sys2Proof.Machine.execAdstg k a s
  | .macq e => Sys2Proof.Machine.execMacq e s
  | .mrel => Sys2Proof.Machine.execMrel s
  | .mwl t => Sys2Proof.Machine.execMwl t s
  | .mms a k z => Sys2Proof.Machine.execMms a k z s
  | .mrd d a k => Sys2Proof.Machine.execMrd d a k s
  | .mwr d a k => Sys2Proof.Machine.execMwr d a k s
  | .mepi a k e => Sys2Proof.Machine.execMepi a k e s
  | .mzero k => Sys2Proof.Machine.execMzero k s
  | .thbase t a b => Sys2Proof.Machine.execThbase t a b s
  | .thshape t a b => Sys2Proof.Machine.execThshape t a b s
  | .thfmt t a b => Sys2Proof.Machine.execThfmt t a b s
  | .thmc t a => Sys2Proof.Machine.execThmc t a s
  | .cpy sb c t j => Sys2Proof.Machine.execCpy sb c t j s
  | .cpym sb c t j => Sys2Proof.Machine.execCpym sb c t j s
  | .cpyg sb c t j => Sys2Proof.Machine.execCpyg sb c t j s
  | .chain sb ix o => Sys2Proof.Machine.execChain sb ix o s
  | .jinit a b => Sys2Proof.Machine.execJinit a b s
  | .jarv a b c => Sys2Proof.Machine.execJarv a b c s
  | .jexp a b => Sys2Proof.Machine.execJexp a b s
  | .jwait a b c => Sys2Proof.Machine.execJwait a b c s
  | .tlrd e a d => Sys2Proof.Machine.execTlrd e a d s
  | .tlwait e a c => Sys2Proof.Machine.execTlwait e a c s
  | .enq sb p => Sys2Proof.Machine.execEnq sb p s
  | .trap c => Sys2Proof.Machine.execTrap c s
  | .bkpt c => Sys2Proof.Machine.execBkpt c s
  | .eret => Sys2Proof.Machine.execEret s
  | .csrr d n => Sys2Proof.Machine.execCsrr d n s
  | .csrw a n => Sys2Proof.Machine.execCsrw a n s
  | .csrs d a n => Sys2Proof.Machine.execCsrs d a n s
  | .msgs a => Sys2Proof.Machine.execMsgs a s
  | .msgr d => Sys2Proof.Machine.execMsgr d s
  | .metr d a => Sys2Proof.Machine.execMetr d a s
  | .himm h => Sys2Proof.Machine.execHimm h s
  | .hsched p c b a y => Sys2Proof.Machine.execHsched p c b a y s
  | .hmod n c p e m => Sys2Proof.Machine.execHmod n c p e m s
  | .loadReply op flaw stack => Sys2Proof.Machine.execLoadReply op flaw stack s
  | .acknowledgement op => Sys2Proof.Machine.execAcknowledgement op s
  | .homeRequest op => Sys2Proof.Machine.execHomeRequest op s
  | .linePush op => Sys2Proof.Machine.execLinePush op s
  | .invalidation cluster line => Sys2Proof.Machine.execInvalidation cluster line s
  | .eviction level unit line => Sys2Proof.Machine.execEviction level unit line s
  | .pageWalk cluster pasid va wr => Sys2Proof.Machine.execPageWalk cluster pasid va wr s
  | .scratchRefill wg core page => Sys2Proof.Machine.execScratchRefill wg core page s
  | .migrationReplay cluster => Sys2Proof.Machine.execMigrationReplay cluster s
  | .fenceRDrain op => Sys2Proof.Machine.execFenceRDrain op s
  | .messageArrival core => Sys2Proof.Machine.execMessageArrival core s
  | .msgrDelivery core => Sys2Proof.Machine.execMsgrDelivery core s
  | .parkWake warp lane => Sys2Proof.Machine.execParkWake warp lane s
  | .parkTimeout warp lane => Sys2Proof.Machine.execParkTimeout warp lane s
  | .backEdge warp => Sys2Proof.Machine.execBackEdge warp s
  | .regroupPoolTimeout wg core => Sys2Proof.Machine.execRegroupPoolTimeout wg core s
  | .macqGrant bench => Sys2Proof.Machine.execMacqGrant bench s
  | .arbiterSelect bench => Sys2Proof.Machine.execArbiterSelect bench s
  | .mwlComplete op => Sys2Proof.Machine.execMwlComplete op s
  | .mmsComplete op => Sys2Proof.Machine.execMmsComplete op s
  | .drainStart bench => Sys2Proof.Machine.execDrainStart bench s
  | .drainEnd bench => Sys2Proof.Machine.execDrainEnd bench s
  | .chainComplete core => Sys2Proof.Machine.execChainComplete core s
  | .copyBeat op => Sys2Proof.Machine.execCopyBeat op s
  | .jwaitRelease warp lane => Sys2Proof.Machine.execJwaitRelease warp lane s
  | .tlwaitRelease warp lane => Sys2Proof.Machine.execTlwaitRelease warp lane s
  | .handlerEntry warp => Sys2Proof.Machine.execHandlerEntry warp s
  | .killWorkgroup warp => Sys2Proof.Machine.execKillWorkgroup warp s
  | .killNode warp => Sys2Proof.Machine.execKillNode warp s
  | .killRegion warp => Sys2Proof.Machine.execKillRegion warp s
  | .doorbell pasid v => Sys2Proof.Machine.execDoorbell pasid v s
  | .qcbFirmwareWalk => Sys2Proof.Machine.execQcbFirmwareWalk s
  | .nop slot => Sys2Proof.Machine.execNop slot s
  | .node slot => Sys2Proof.Machine.execNode slot s
  | .wait slot => Sys2Proof.Machine.execWait slot s
  | .waitReread slot => Sys2Proof.Machine.execWaitReread slot s
  | .waitParkedRewalk qcb => Sys2Proof.Machine.execWaitParkedRewalk qcb s
  | .admission => Sys2Proof.Machine.execAdmission s
  | .argumentCopy page => Sys2Proof.Machine.execArgumentCopy page s
  | .placeWorkgroup page => Sys2Proof.Machine.execPlaceWorkgroup page s
  | .jigJobDone job base => Sys2Proof.Machine.execJigJobDone job base s
  | .nodeBlocking node => Sys2Proof.Machine.execNodeBlocking node s
  | .drainExpiry wg => Sys2Proof.Machine.execDrainExpiry wg s
  | .save wg page => Sys2Proof.Machine.execSave wg page s
  | .flush wg => Sys2Proof.Machine.execFlush wg s
  | .resumeWorkgroup wg => Sys2Proof.Machine.execResumeWorkgroup wg s
  | .ringMove rcb => Sys2Proof.Machine.execRingMove rcb s
  | .nodeComplete node => Sys2Proof.Machine.execNodeComplete node s
  | .invalidationRequest v => Sys2Proof.Machine.execInvalidationRequest v s
  | .invalidationComplete => Sys2Proof.Machine.execInvalidationComplete s
  | .create => Sys2Proof.Machine.execCreate s
  | .req => Sys2Proof.Machine.execReq s
  | .seal => Sys2Proof.Machine.execSeal s
  | .sealHandover slot => Sys2Proof.Machine.execSealHandover slot s
  | .resume => Sys2Proof.Machine.execResume s
  | .restart => Sys2Proof.Machine.execRestart s
  | .reportWrite => Sys2Proof.Machine.execReportWrite s
  | .registration => Sys2Proof.Machine.execRegistration s
  | .enable v => Sys2Proof.Machine.execEnable v s
  | .errcnt domain => Sys2Proof.Machine.execErrcnt domain s
  | .congest v => Sys2Proof.Machine.execCongest v s
  | .evlost v => Sys2Proof.Machine.execEvlost v s
  | .registerWrite off v => Sys2Proof.Machine.execRegisterWrite off v s
  | .hostBar2Access wr pa bytes data => Sys2Proof.Machine.execHostBar2Access wr pa bytes data s
  | .colInboundRequest peer op pa bytes data => Sys2Proof.Machine.execColInboundRequest peer op pa bytes data s
  | .routeLost peer => Sys2Proof.Machine.execRouteLost peer s
  | .pcieLinkTrain rate width => Sys2Proof.Machine.execPcieLinkTrain rate width s
  | .colPortTrain port rate => Sys2Proof.Machine.execColPortTrain port rate s
  | .congestionEvent unit cls => Sys2Proof.Machine.execCongestionEvent unit cls s
  | .patrolScrub granule corrected poisoned => Sys2Proof.Machine.execPatrolScrub granule corrected poisoned s
  | .coldReset verified => Sys2Proof.Machine.execColdReset verified s
  | .functionLevelReset => Sys2Proof.Machine.execFunctionLevelReset s
  | .throttleStart temp power => Sys2Proof.Machine.execThrottleStart temp power s
  | .throttleEnd temp power => Sys2Proof.Machine.execThrottleEnd temp power s
  | .trip temp supply => Sys2Proof.Machine.execTrip temp supply s
  | .illegalInstruction w => Sys2Proof.Machine.execIllegalInstruction w s
  | .instructionFetchFault => Sys2Proof.Machine.execInstructionFetchFault s
  | .clockCycle => Sys2Proof.Machine.execClockCycle s
  | .debugHaltEnd core => Sys2Proof.Machine.execDebugHaltEnd core s
  | .debuggerAccess wr warp lane reg v => Sys2Proof.Machine.execDebuggerAccess wr warp lane reg v s
  | .colPortDown port => Sys2Proof.Machine.execColPortDown port s
  | .flitCrcFailure domain => Sys2Proof.Machine.execFlitCrcFailure domain s

end Sys2Proof.Machine
end

