-- ==== Sys2Proof/Machine/Launched.lean ====
section
/-! DEFINITION. A launched workgroup of one warp, about to issue a given word: what the launch path leaves (R299 to R310, R352),
reduced to what one issue needs. -/

namespace Sys2Proof.Machine

/-- The virtual address of its code. -/
def probeVa : Nat := 0x5000000000

/-- PASID table, tables and code page: PASID 0 maps one page, readable and executable, A set, at device address 0x200000. -/
def probeTables : List (Nat × Nat) :=
  [(0x100000, 0x101001), (0x101000, 0x102001), (0x102000, 0x103001), (0x103A00, 0x104001), (0x104000, 0x105001),
   (0x105000, 0x2000AB)]

/-- The state with that workgroup, its warp chosen to issue the word w. -/
def State.placeWord (s : State) (w : Nat) : State :=
  let k := s.serial
  let kn : Kernel := { kref := 0x300000, codeVa := probeVa, codeSize := 4096, named := 63 }
  let rg : Region := { rcb := 0x310000 }
  let nd : Node :=
    { rcb := 0x310000, kref := 0x300000, grid := 1, wgsize := 32, status := .placed, number := s.admitted + 1,
      region := rg, kernel := kn, next := 1 }
  let wp : Warp :=
    { wg := k + 1, core := 0, levels := noLevels,
      lanes := (List.range 32).map (fun l => { tid := l, live := true, pc := BitVec.ofNat 64 probeVa }) }
  { s with
    serial := k + 3,
    mem := pokeList (probeTables.foldl (fun m e => pokeList m e.1 (bytesLE 8 e.2)) s.mem) 0x200000 (bytesLE 4 w),
    bar := mput 0 (mput 0 s.bar 0x110 0x100000#64) 0x118 4#64,
    tlb := [], l1 := [], cc := [],
    kernels := kn :: s.kernels,
    nodes := mset s.nodes k nd,
    wgs := mset s.wgs (k + 1) { node := k, size := 32, cores := [(0, 65536)] },
    warps := mset s.warps (k + 2) wp,
    cur := { warp := k + 2, lanes := 0xFFFFFFFF#32, go := true } }

end Sys2Proof.Machine
end

