-- ==== Sys2Proof/Machine/Drive.lean ====
section
/-! DEFINITION. What is in flight and comes due when the agenda is empty, in the order the model takes by default. -/

namespace Sys2Proof.Machine

/-- Starts of runs of pages an arena could give. -/
def State.runStarts (s : State) (rcb : Nat) (save : Bool) : List Nat :=
  (s.arenaBounds rcb save).1 :: (s.arenas.filter (fun a => a.1 == rcb && a.2.1 == save)).map (fun a => a.2.2.1 + a.2.2.2.1)

/-- Faults held through a halt (R378). -/
def State.heldSteps (s : State) : List (State → Out) :=
  (s.warps.filter (fun e => e.2.held.isSome)).flatMap (fun e =>
    [execHandlerEntry e.1, execKillWorkgroup e.1, execKillNode e.1, execKillRegion e.1])

/-- Memory operations in flight, oldest first, and invalidations (R187, R194, R212 to R215). -/
def State.memorySteps (s : State) : List (State → Out) :=
  s.ops.flatMap (fun o =>
    [execLoadReply o.id 0 false, execHomeRequest o.id, execLinePush o.id, execAcknowledgement o.id, execFenceRDrain o.id])
    ++ s.invs.map (fun e => execInvalidation e.1 e.2)

/-- Claims, array operations and drains (R134, R138 to R143, R162). -/
def State.benchSteps (s : State) : List (State → Out) :=
  let waiting := ((s.benches.filter (fun (e : Nat × Bench) => e.2.waiting != [])).map Prod.fst
    ++ s.gangClaims.flatMap (fun (e : Nat × Nat) => (List.range 4).map (fun i => 4 * e.1 + i))).eraseDups
  waiting.map execMacqGrant
    ++ ((s.arrays.flatMap (fun o => o.members)).eraseDups).map execArbiterSelect
    ++ s.arrays.flatMap (fun o => [execMwlComplete o.id, execMmsComplete o.id])
    ++ ((s.drains.flatMap (fun d => d.members)).eraseDups).flatMap (fun b => [execDrainStart b, execDrainEnd b])

/-- Copies, chains and messages (R122, R226, R238, R239). -/
def State.engineSteps (s : State) : List (State → Out) :=
  s.copies.map (fun c => execCopyBeat c.id) ++ ((s.chains.map (fun c => c.core)).eraseDups).map execChainComplete
    ++ ((s.transit.map (fun m => m.dst)).eraseDups).map execMessageArrival
    ++ ((s.fifo.map (fun m => m.dst)).eraseDups).map execMsgrDelivery

/-- Waits of lanes that may end (R224, R234, R256, R265, R272). -/
def State.waitSteps (s : State) : List (State → Out) :=
  s.warps.flatMap (fun e => (List.range 32).flatMap (fun l =>
    if !(e.2.lane l).live then []
    else match (e.2.lane l).park with
      | .joint _ _ _ _ => [execJwaitRelease e.1 l]
      | .freed _ _ => [execJwaitRelease e.1 l]
      | .timeline _ _ _ _ => [execTlwaitRelease e.1 l]
      | .watch _ _ _ => [execParkWake e.1 l, execParkTimeout e.1 l]
      | .backEdge _ => [execBackEdge e.1]
      | _ => []))
    ++ s.wgs.flatMap (fun e => e.2.pools.map (fun p => execRegroupPoolTimeout e.1 p.core))

/-- Queues: walks, packets, WAITs, rings (R299 to R304, R316). -/
def State.queueSteps (s : State) : List (State → Out) :=
  execQcbFirmwareWalk
    :: (List.range s.slots.length).flatMap (fun i => [execNop i, execNode i, execWait i, execWaitReread i])
    ++ s.parked.map (fun e => execWaitParkedRewalk e.qcb)
    ++ ((s.spilled.map (fun e => e.queue)).eraseDups).map execRingMove

/-- Admission, placement and the Jig (R306 to R313, R296). -/
def State.launchSteps (s : State) : List (State → Out) :=
  let copying := s.nodes.filter (fun e => e.2.status == .copying)
  let placing := match s.nextPlaced with
    | none => if s.placing.isSome then [execPlaceWorkgroup 0] else []
    | some (_, n) => if n.privPages = 0 then [execPlaceWorkgroup 0]
      else (s.runStarts n.region.arenaOf false).map execPlaceWorkgroup
  let jigAt := s.reg 0x120 |>.toNat
  let bases := jigAt :: (s.jigCache.filter (fun e => e.special)).map (fun e => cdiv (e.base + e.size) 4096 * 4096)
  execAdmission
    :: copying.flatMap (fun e => (s.runStarts e.2.region.arenaOf false).map execArgumentCopy)
    ++ s.nextResumed.toList.map execResumeWorkgroup
    ++ placing
    ++ s.jigJobs.flatMap (fun j => bases.map (execJigJobDone j.id))

/-- A pre-emption request that waits for a way is decided again, once pages have returned to the save arena (R381); nothing for a workgroup
that is already leaving. -/
def rechoose (g : Nat) (s : State) : Out :=
  .next (if (s.wg g).status == .resident && (s.wg g).retry then (s.modWg g (fun x => { x with retry := false })).choose g else s)

/-- Pre-emption and the end of nodes (R235, R313, R379 to R387). -/
def State.leaveSteps (s : State) : List (State → Out) :=
  s.nodes.map (fun e => execNodeBlocking e.1)
    ++ s.wgs.flatMap (fun e =>
      match e.2.status with
      | .resident => if e.2.request.isSome then [rechoose e.1] else []
      | .draining => [execDrainExpiry e.1]
      | .saving => match e.2.saveArea with
        | some a => execSave e.1 a.1 :: (s.runStarts (s.arenaFor e.2) true).map (execSave e.1)
        | none => (s.runStarts (s.arenaFor e.2) true).map (execSave e.1)
      | .flushing => [execFlush e.1]
      | _ => [])
    ++ s.nodes.map (fun e => execNodeComplete e.1)

/-- Meter commands, reports, registrations, invalidation requests, replays, refills (R173, R218, R332, R348 to R352). -/
def State.hubSteps (s : State) : List (State → Out) :=
  [execCreate, execReq, execSeal, execResume, execRestart] ++ (mkeys s.meters).map execSealHandover
    ++ [execReportWrite, execRegistration, execInvalidationComplete]
    ++ ((s.heldMig.map (fun h => h.cluster)).eraseDups).map execMigrationReplay
    ++ s.wgs.flatMap (fun e => if e.2.status == .ended then [] else
        e.2.touched.map (fun p => execScratchRefill e.1 p.1 p.2))

/-- Routes whose ports have been down long enough (R362). -/
def State.routeSteps (s : State) : List (State → Out) :=
  (s.bar.filter (fun e => decide (0x800 ≤ e.1 ∧ e.1 < 0x1000))).map (fun e => execRouteLost (BitVec.ofNat 8 ((e.1 - 0x800) / 8)))

/-- The first of some steps that is due: the others change nothing. -/
def firstDue (s : State) (fs : List (State → Out)) : Option State :=
  match fs with
  | [] => none
  | f :: r =>
    match f s with
    | .next t => if t = s then firstDue s r else some t
    | .fault _ => firstDue s r
    | .refused _ => firstDue s r

/-- With an empty agenda: the first step in flight that is due, in the order above; else a cycle (R317). After a trip only cycles pass
(R396). -/
def State.drive (s : State) : Out :=
  if s.tripped then execClockCycle s
  else
    match firstDue s (s.heldSteps ++ s.memorySteps ++ s.benchSteps ++ s.engineSteps ++ s.waitSteps ++ s.queueSteps ++ s.launchSteps
        ++ s.leaveSteps ++ s.hubSteps ++ s.routeSteps) with
    | some t => .next t
    | none => execClockCycle s

/-- The event is a cold reset: the power is cycled. -/
def isPowerCycle : Instr → Bool
  | .coldReset _ => true
  | _ => false

/-- Whether the agenda's next entry acts: words issue from the agenda never, and after a trip only a power cycle acts (R396). -/
def State.takes (s : State) (e : Instr) : Bool := !e.isWord && (!s.tripped || isPowerCycle e)

end Sys2Proof.Machine
end

