-- ==== Sys2Proof/Machine/Step.lean ====
section
/-! DEFINITION. One step of the device: the issues the scheduler has chosen, the turns of a cycle, else what the agenda says comes next,
else what is in flight, else a cycle. -/

namespace Sys2Proof.Machine

/-- Issues the chosen set: the word is fetched and decoded, and the instruction executed; a word that encodes none and a fetch that
fails are the two rows ILLEGAL_INSTRUCTION and INSTRUCTION_FETCH_FAULT. -/
def State.issueStep (s : State) : Host.Outcome State Fault Refusal :=
  match s.fetchIssue with
  | none => execInstructionFetchFault s
  | some w =>
    match decode w with
    | .error _ => execIllegalInstruction w s
    | .ok i => exec i s

/-- One step: the word the primary port was given, then the second port's; then the turns of the cores that are left in this cycle; else
the agenda, or what comes due. -/
def step (s : State) : Host.Outcome State Fault Refusal :=
  if s.cur.go then ({ s with cur := { s.cur with go := false } }).touchIssue.issueStep
  else
    match s.second with
    | some n => .next (s.takeSecond n)
    | none =>
      match s.turns with
      | c :: r => .next (({ s with turns := r }).givePorts State.issueStep c)
      | [] =>
        match s.agenda with
        | e :: r => if s.takes e then exec e { s with agenda := r } else .next { s with agenda := r }
        | [] => s.drive

/-- The state with a launched one-warp workgroup whose next word to issue is w: the very next step fetches and runs it. -/
def State.withFetchWord (s : State) (nbits w : Nat) : State := s.placeWord (w % 2 ^ nbits)

end Sys2Proof.Machine
end

