-- ==== Sys2Proof/Safety.lean ====
section
/-! DEFINITION. The terms in which claims are stated: what an instruction that completes leaves as it was, and what counts as a sound
state of the device. -/

namespace Sys2Proof.Safety

open Sys2Proof.Machine

/-- The issue j of state s executes: its operands are legal (checks 4 and 5 of R43) and can be read (R21, R184). u is what the word
reads and lets its hints do. -/
def Executes (s : State) (j : Iss) (u : Uses) : Prop := s.issue = some j ∧ j.check s u = none ∧ j.ready s u = none

/-- Nothing differs between two states but warp k: memory, caches, the other warps, workgroups, nodes, engines, queues, the host's
registers. -/
def OnlyWarp (s t : State) (k : Nat) : Prop :=
  { t with warps := s.warps } = s ∧ ∀ m, m ≠ k → t.warp m = s.warp m

/-- Nothing differs between two values of a warp but where its lanes stand, its loop levels, and what the scheduler keeps: every
uniform register, descriptor, tile handle, flag, partition, claim and special register is the same. -/
def SameWarp (w v : Warp) : Prop := { v with lanes := w.lanes, levels := w.levels, wait := w.wait, bump := w.bump, away := w.away } = w

/-- Nothing differs between two values of a lane but where it stands: every named register, queue entry and guard is the same. -/
def SameLane (x y : Lane) : Prop :=
  { y with pc := x.pc, rpc := x.rpc, hint := x.hint, age := x.age, park := x.park, blocked := x.blocked } = x

/-- From state s, state t is reached by a step of warp k whose registers, flags and lane state are then those of w; only places, loop
levels and scheduling differ from w. -/
def Reaches (s t : State) (k : Nat) (w : Warp) : Prop :=
  OnlyWarp s t k ∧ ∃ v, t.warp k = some v ∧ SameWarp w v ∧ ∀ l, SameLane (w.lane l) (v.lane l)

/-- The issue j runs original code, and no loop level is active: where its lanes go is a matter of its word alone. -/
def Plain (j : Iss) : Prop := j.w.depth = 0 ∧ j.code.jig = none ∧ ∀ l ∈ j.lanes, (j.w.lane l).rpc = none

/-- The levels of a warp are four, and the first of them, as many as the loop depth, are the active ones (R268). -/
def LevelsFill (w : Warp) : Prop :=
  w.levels.length = 4 ∧ w.depth ≤ 4 ∧ ∀ k, k < 4 → ((w.level k).active = true ↔ k < w.depth)

/-- A core's L1 and its cluster's cache have room for n more lines, so that nothing has to be evicted. -/
def Roomy (s : State) (core n : Nat) : Prop :=
  (s.cache true core).length + n ≤ s.l1Lines core ∧ (s.cache false (core / 16)).length + n ≤ ccLines

/-- A lane that has left its instruction for an address. -/
def landed (pc : Word) (x : Lane) : Lane :=
  { x with pc := pc, rpc := none, hint := none, age := 0, park := .no, blocked := 0 }

/-- The instruction word i completes whenever its operands are legal and readable and p holds: exec answers a next state, in which the
issuing warp is g (but for where its lanes stand), and nothing else of the state b has changed. Where no loop level and no residual
code is concerned, each lane of the issuing set stands at `to`, and no other lane has moved. The last step is R260's: a rendezvous that
cannot complete any more faults its lanes, and nothing else happens where none stands parked at one. -/
def CompletesFrom (i : Instr) (u : State → Iss → Uses) (p : State → Iss → Prop) (b : State → Iss → State) (g : State → Iss → Warp)
    (dest : State → Iss → Nat → Word) : Prop :=
  ∀ s j, Executes s j (u s j) → p s j → ∃ t v, exec i s = .next (t.settle j.k) ∧ Reaches (b s j) t j.k (g s j) ∧ t.warp j.k = some v
    ∧ (Plain j → ∀ l, v.lane l = if l ∈ j.lanes then landed (dest s j l) ((g s j).lane l) else (g s j).lane l)

/-- As CompletesFrom, and nothing but the issuing warp changes. -/
def CompletesTo (i : Instr) (u : State → Iss → Uses) (p : State → Iss → Prop) (g : State → Iss → Warp)
    (dest : State → Iss → Nat → Word) : Prop :=
  CompletesFrom i u p (fun s _ => s) g dest

/-- The instruction word i completes, and its lanes go on to the next word. -/
def CompletesIf (i : Instr) (u : State → Iss → Uses) (p : State → Iss → Prop) (g : State → Iss → Warp) : Prop :=
  CompletesTo i u p g (fun _ j l => (j.w.lane l).pc + 4)

/-- The instruction word i completes whenever its operands are legal and readable, and its lanes go on to the next word. -/
def Completes (i : Instr) (u : State → Iss → Uses) (g : State → Iss → Warp) : Prop := CompletesIf i u (fun _ _ => True) g

/-- A lane after a result (R21): the value is pushed onto its queue, and written to named register d unless d is 63. -/
def pushed (w : Warp) (d : BitVec 6) (v : Word) (x : Lane) : Lane :=
  { x with queue := clean v :: x.queue.take 15,
           regs := if d = 63 then x.regs else mput {} x.regs (w.physical d.toNat) (clean v) }

/-- The warp in which each lane of the issuing set has its result (R21, R86); lanes outside the set keep all they hold. -/
def givesEach (d : BitVec 6) (f : State → Iss → Nat → Word) (s : State) (j : Iss) : Warp :=
  j.w.modLanes j.lanes (fun l x => pushed j.w d (f s j l) x)

/-- The warp in which each lane of the issuing set has a guard (R23, R91). -/
def guardsEach (g : BitVec 3) (f : State → Iss → Nat → Bool) (s : State) (j : Iss) : Warp :=
  j.w.modLanes j.lanes (fun l x => { x with guards := if f s j l then x.guards ||| (1#8 <<< g.toNat) else x.guards &&& ~~~(1#8 <<< g.toNat) })

/-! ### Rendezvous (R259) -/

/-- The issue j of state s is a set that completes the rendezvous of one sub-group of kj: its lanes lie in that sub-group, and with
them parked, every lane of it that counts stands there with one hint state. m is the issue of the whole rendezvous set, whose operands
are legal and can be read. -/
def Meets (s : State) (j m : Iss) (k : Nat) (u : State → Iss → Uses) : Prop :=
  s.issue = some j ∧ j.lanes ≠ [] ∧ j.w.groupSize k ∈ [4, 8, 16, 32]
    ∧ (∀ l ∈ j.lanes, l / j.w.groupSize k = j.lanes.headD 0 / j.w.groupSize k)
    ∧ j.check s (u s j) = none ∧ (j.parkAt k).complete j.code (j.lanes.headD 0) = true
    ∧ m = { k := j.k, w := j.parkAt k, lanes := (j.parkAt k).subgroup k (j.lanes.headD 0), led := j.lanes.headD 0, code := j.code,
            hint := ((j.parkAt k).lane (j.lanes.headD 0)).hint }
    ∧ m.check s (u s m) = none ∧ m.ready s (u s m) = none

/-- The rendezvous instruction i over kj completes once for the whole set of a sub-group (R259): exec answers a next state, in which
the warp is g (but for where its lanes stand), and nothing else has changed. Where no loop level and no residual code is concerned, the
lanes of the set stand at `to`, and no other lane has moved. -/
def MeetsTo (i : Instr) (k : Nat) (u : State → Iss → Uses) (p : State → Iss → Prop) (g : State → Iss → Warp)
    (dest : State → Iss → Nat → Word) : Prop :=
  ∀ s j m, Meets s j m k u → p s m → ∃ t v, exec i s = .next (t.settle j.k) ∧ Reaches s t j.k (g s m) ∧ t.warp j.k = some v
    ∧ (Plain m → ∀ l, v.lane l = if l ∈ m.lanes then landed (dest s m l) ((g s m).lane l) else (g s m).lane l)

/-- As MeetsTo, and the lanes of the set go on to the next word. -/
def MeetsIf (i : Instr) (k : Nat) (u : State → Iss → Uses) (p : State → Iss → Prop) (g : State → Iss → Warp) : Prop :=
  MeetsTo i k u p g (fun _ m l => (m.w.lane l).pc + 4)

/-- Lanes ls of warp k go on from the instruction at which they waited: registers, flags and the rest of the warp stay, and nothing else
of the state changes; without loop level and residual code they stand at the next word, and no other lane has moved. -/
def GoOn (s t : State) (k : Nat) (ls : List Nat) : Prop :=
  ∃ w v, s.warp k = some w ∧ t.warp k = some v ∧ OnlyWarp s t k ∧ SameWarp w v ∧ (∀ m, SameLane (w.lane m) (v.lane m))
    ∧ (w.depth = 0 → (s.code w).jig = none → (∀ l ∈ ls, (w.lane l).rpc = none ∧ (w.lane l).live = true) →
        ∀ m, v.lane m = if m ∈ ls then landed ((w.lane m).pc + 4) (w.lane m) else w.lane m)

/-- One lane goes on. -/
def GoesOn (s t : State) (k l : Nat) : Prop := GoOn s t k [l]

/-- What a MAT instruction without operands uses (R146, R147). -/
def usesNothing (_ : State) (i : Iss) : Uses := { legal := i.himm == [] }

/-- Two warps, or none twice, that differ in nothing but where their lanes stand. -/
def Alike (a b : Option Warp) : Prop :=
  match a, b with
  | none, none => True
  | some x, some y => SameWarp x y ∧ ∀ l, SameLane (x.lane l) (y.lane l)
  | _, _ => False

/-- The issue j of word i has its effect, and its lanes go on: a state t with q t, in which the issuing warp is w but for places, each
lane of the issuing set stands at the next word (where no loop level and no residual code is concerned), and no other warp has changed
but for a lane that a write woke. -/
def GoesWith (i : Instr) (s : State) (j : Iss) (w : Warp) (q : State → Prop) : Prop :=
  ∃ t v, exec i s = .next (t.settle j.k) ∧ q t ∧ (∀ m, m ≠ j.k → Alike (s.warp m) (t.warp m)) ∧ t.warp j.k = some v ∧ SameWarp w v
    ∧ (∀ l, SameLane (w.lane l) (v.lane l))
    ∧ (Plain j → ∀ l, (v.lane l).pc = if l ∈ j.lanes then (j.w.lane l).pc + 4 else (j.w.lane l).pc)

/-- The issue j of word i starts a wait: a state t with q t, in which each lane of the issuing set stays at the word and waits as p says;
every other lane and warp is as before. -/
def WaitsWith (i : Instr) (s : State) (j : Iss) (p : Nat → Park) (q : State → Prop) : Prop :=
  ∃ t v, exec i s = .next (t.settle j.k) ∧ q t ∧ (∀ m, m ≠ j.k → t.warp m = s.warp m) ∧ t.warp j.k = some v ∧ SameWarp j.w v
    ∧ ∀ l, v.lane l = if l ∈ j.lanes then { j.w.lane l with park := p l, age := 0, blocked := 0 } else j.w.lane l

/-- A word whose operands or hints are illegal (checks 3 to 5 of R43) is a fault of its lanes, with the word as ADDR, and has no other
effect. -/
def RefusesOperands (i : Instr) (u : State → Iss → Uses) : Prop :=
  ∀ s j f, s.issue = some j → j.check s (u s j) = some f →
    (f.cls = 0x01 ∨ f.cls = 0x02) ∧ f.addr = j.word s ∧ f.lanes = j.lanes ∧ exec i s = .next (j.fault s f)

/-- A memory word whose accesses `as`, in lane order, fail a check of R183 is that fault, and has no other effect. Of the first two checks,
the fault is spelt out: an address from 2^56 on, then one that is no multiple of the size; LMASK has the lanes that fail, ADDR is the
lowest one's. -/
def RefusesAccess (i : Instr) (s : State) (j : Iss) (scope n : Nat) (k : AccKind) (obj : Nat × Nat) (as : List (Nat × Word)) : Prop :=
  (∀ f, j.checkAll s scope n k obj as = .error f → exec i s = .next (j.fault s f))
  ∧ (∀ e r, as.filter (fun e => decide (2 ^ 56 ≤ e.2.toNat)) = e :: r →
      exec i s = .next (j.fault s { cls := 0x04, addr := e.2, lanes := (e :: r).map Prod.fst, kind := obj.1, idx := obj.2 }))
  ∧ ((∀ e ∈ as, e.2.toNat < 2 ^ 56) → ∀ e r, as.filter (fun e => decide (e.2.toNat % n ≠ 0)) = e :: r →
      exec i s = .next (j.fault s { cls := 0x03, addr := e.2, lanes := (e :: r).map Prod.fst, kind := obj.1, idx := obj.2 }))

/-- The byte that a list of writes leaves at an address: that of the last one to it, else what stood there. -/
def lastOf (ps : List (Nat × Byte)) (a : Nat) (old : Byte) : Byte :=
  ((ps.filter (fun p => p.1 == a)).getLast?.map Prod.snd).getD old

/-- A wide register with fields replaced: each of them a position, a width and a value. -/
def withFields {n : Nat} (d : BitVec n) (fs : List (Nat × Nat × Nat)) : BitVec n :=
  BitVec.ofNat n (fs.foldl (fun v f => v - v / 2 ^ f.1 % 2 ^ f.2.1 * 2 ^ f.1 + f.2.2 % 2 ^ f.2.1 * 2 ^ f.1) d.toNat)

/-- The workgroup of a warp has not ended, so that the end of an operation gives nothing back (R372). -/
def Alive (s : State) (k : Nat) : Prop := ∀ w, s.warp k = some w → (s.wg w.wg).status ≠ .ended

/-! ### The arithmetic of R88 to R95 on numbers -/

/-- The signed value of an n-bit pattern. -/
def signed (n x : Nat) : Int := if x < 2 ^ (n - 1) then (x : Int) else (x : Int) - ((2 ^ n : Nat) : Int)

/-- A function of R89 at width n on the n-bit patterns of two operands: the low n bits of what f gives, sign-extended from 32 bits where
W is 1 (R88). -/
def atWidthN (w : BitVec 1) (f : Nat → Nat → Nat → Nat) (a b : Word) : Word :=
  if w = 1 then (BitVec.ofNat 32 (f 32 (a.toNat % 2 ^ 32) (b.toNat % 2 ^ 32))).signExtend 64
  else BitVec.ofNat 64 (f 64 a.toNat b.toNat)

/-- What a word that reads lane sources and writes lane destination d uses. -/
def lane1 (d : BitVec 6) (a : BitVec 7) (_ : State) (_ : Iss) : Uses := { srcs := [a], dst := [d] }
/-- Two lane sources. -/
def lane2 (d : BitVec 6) (a b : BitVec 7) (_ : State) (_ : Iss) : Uses := { srcs := [a, b], dst := [d] }
/-- Two lane sources and a queue entry (LF). -/
def laneQ (d : BitVec 6) (a b : BitVec 7) (c : BitVec 4) (_ : State) (_ : Iss) : Uses := { srcs := [a, b, queueSpec c], dst := [d] }
/-- One lane source and the immediate (LI). -/
def laneI (d : BitVec 6) (a : BitVec 7) (m : BitVec 10) (_ : State) (_ : Iss) : Uses := { srcs := [a], dst := [d], imm := some m }

/-! ### Floating-point words (R76, R100) -/

/-- Bits [31:0] of a source. -/
def lo32 (x : Word) : Nat := x.toNat % 2 ^ 32
/-- The 16-bit element k of a source. -/
def half (k : Nat) (x : Word) : Nat := x.toNat / 2 ^ (16 * k) % 2 ^ 16
/-- Two 16-bit results: element 0 in [15:0], element 1 in [31:16], the flags of both (R103). -/
def pair (x y : FRes) : FRes := ⟨x.bits + y.bits * 2 ^ 16, x.flags ||| y.flags⟩
/-- A function of each 16-bit element of two sources. -/
def both (f : Nat → Nat → FRes) (x y : Word) : FRes := pair (f (half 0 x) (half 0 y)) (f (half 1 x) (half 1 y))
/-- The flags the lanes of the issuing set raise together, unless NOFLAG (R51, R82). -/
def raisedBy (j : Iss) (f : Nat → FlagBits) : FlagBits := if j.noflag then 0 else j.lanes.foldl (fun a l => a ||| f l) 0

/-- A floating-point word completes: each lane has the bits that f gives from the rounding mode and the lane's sources, the flags are
raised, nothing else changes. rm says that a rounding mode may be named (R100). -/
def fpOut (i : Instr) (srcs : List (BitVec 7)) (rm : Bool) (d : BitVec 6) (f : Rm → (BitVec 7 → Word) → FRes) : Prop :=
  Completes i (fun _ _ => { srcs := srcs, dst := [d], rm := rm, nf := true }) (fun s j =>
    (givesEach d (fun s j l => BitVec.ofNat 64 (f j.rm (j.val s l)).bits) s j).raise
      (raisedBy j (fun l => (f j.rm (j.val s l)).flags)) [])
/-- One of two operands of a format. -/
def fp2 (i : Instr) (f : Fmt) (rm : Bool) (op : Fmt → Rm → Nat → Nat → FRes) (d : BitVec 6) (a b : BitVec 7) : Prop :=
  fpOut i [a, b] rm d (fun m x => op f m ((x a).toNat % 2 ^ (1 + f.eb + f.fb)) ((x b).toNat % 2 ^ (1 + f.eb + f.fb)))
/-- One of one operand: of 32 bits where single, else of 64. -/
def fp1 (i : Instr) (single rm : Bool) (op : Rm → Nat → FRes) (d : BitVec 6) (a : BitVec 7) : Prop :=
  fpOut i [a] rm d (fun m x => op m (if single then lo32 (x a) else (x a).toNat))

/-- The action of the region's FDP has come over the work of warp w between states s and t (R372). -/
def ActsOn (s t : State) (w : Warp) : Prop :=
  let n := (s.wg w.wg).node
  let r := (s.nodeOf w).region
  ((mget s.nodes n).isSome = true → (t.node n).faulted = true)
  ∧ (r.fdp = 0 → (mget s.wgs w.wg).isSome = true → (t.wg w.wg).status = .ended)
  ∧ (r.fdp = 1 → ∀ g x, mget s.wgs g = some x → x.node = n → (t.wg g).status = .ended)
  ∧ (2 ≤ r.fdp → ∀ m y, mget s.nodes m = some y → y.region.chain.elem r.rcb = true →
      y.status = .copying ∨ y.status = .pooled ∨ y.status = .placed →
      (t.node m).faulted = true ∧ ∀ g x, mget s.wgs g = some x → x.node = m → (t.wg g).status = .ended)

/-- The memory has its canonical form: addresses rise strictly, and no byte that reads as an unlisted one is listed. -/
def Sound (s : State) : Prop := Memory.wf s

end Sys2Proof.Safety
end

