-- ==== Sys2Proof/Certificates/Slice0/Obligations.lean ====
section
/-! DEFINITION. The statements. -/

open Sys2Proof Sys2Proof.Machine Sys2Proof.Safety

/-! ### Integer instructions -/

/-- R88, R89: every IALU and ILOGIC function completes with the value of R89 in each lane of the issuing set, and changes nothing else. -/
def Obligations.IntegerArithmetic : Prop :=
  ∀ (d : BitVec 6) (a b : BitVec 7) (w : BitVec 1),
    let gives2 := fun (i : Instr) (f : Nat → Nat → Nat → Nat) =>
      Completes i (lane2 d a b) (givesEach d (fun s j l => atWidthN w f (j.val s l a) (j.val s l b)))
    let gives1 := fun (i : Instr) (f : Nat → Nat → Nat) =>
      Completes i (lane1 d a) (givesEach d (fun s j l => atWidthN w (fun n x _ => f n x) (j.val s l a) 0))
    let sh := fun (n y : Nat) => if n = 64 then y % 64 else y % 32
    gives2 (.add d a b w) (fun _ x y => x + y)
    ∧ gives2 (.sub d a b w) (fun n x y => x + 2 ^ n - y)
    ∧ gives2 (.mul d a b w) (fun _ x y => x * y)
    ∧ gives2 (.mulhu d a b w) (fun n x y => x * y / 2 ^ n)
    ∧ gives2 (.min d a b w) (fun n x y => if signed n x < signed n y then x else y)
    ∧ gives2 (.max d a b w) (fun n x y => if signed n x > signed n y then x else y)
    ∧ gives2 (.minu d a b w) (fun _ x y => if x < y then x else y)
    ∧ gives2 (.maxu d a b w) (fun _ x y => if x > y then x else y)
    ∧ gives2 (.divu d a b w) (fun n x y => if y = 0 then 2 ^ n - 1 else x / y)
    ∧ gives2 (.remu d a b w) (fun _ x y => if y = 0 then x else x % y)
    ∧ gives2 (.and d a b w) (fun _ x y => x &&& y)
    ∧ gives2 (.or d a b w) (fun _ x y => x ||| y)
    ∧ gives2 (.xor d a b w) (fun _ x y => x ^^^ y)
    ∧ gives2 (.andn d a b w) (fun n x y => x &&& (2 ^ n - 1 - y))
    ∧ gives2 (.shl d a b w) (fun n x y => x * 2 ^ sh n y)
    ∧ gives2 (.shr d a b w) (fun n x y => x / 2 ^ sh n y)
    ∧ gives2 (.sar d a b w) (fun n x y => ((signed n x / 2 ^ sh n y) % 2 ^ n).toNat)
    ∧ gives1 (.popc d a w) (fun n x => ((List.range n).filter (fun k => x.testBit k)).length)
    ∧ gives1 (.clz d a w) (fun n x => ((List.range n).takeWhile (fun k => !x.testBit (n - 1 - k))).length)
    ∧ gives1 (.ctz d a w) (fun n x => ((List.range n).takeWhile (fun k => !x.testBit k)).length)
    ∧ gives2 (.bfx d a b w) (fun n x y => x / 2 ^ sh n y % 2 ^ Nat.min (y / 256 % 128) (n - sh n y))

/-- R90, R93: the compares that write a lane destination and the immediate instructions complete with the value the tables give; the
immediate is that of the field, or of the HIMM words of the group (R49). A shift by an immediate requires 0 to 63. R91: guard compares and
guard logic complete with the condition's truth value in the guard of each lane of the issuing set; they push nothing, and lanes outside
the set keep their guards. -/
def Obligations.Compares : Prop :=
  (∀ (d : BitVec 6) (a b : BitVec 7) (m : BitVec 10),
    let flag := fun (c : Bool) => if c then 1#64 else 0#64
    let gives2 := fun (i : Instr) (f : Word → Word → Word) =>
      Completes i (lane2 d a b) (givesEach d (fun s j l => f (j.val s l a) (j.val s l b)))
    let givesI := fun (i : Instr) (f : Word → Word → Word) =>
      Completes i (laneI d a m) (givesEach d (fun s j l => f (j.valImm s l a m) (j.imm m)))
    let shifts := fun (i : Instr) (f : Word → Nat → Word) =>
      Completes i (fun s j => { laneI d a m s j with legal := decide ((j.imm m).toNat < 64) })
        (givesEach d (fun s j l => f (j.valImm s l a m) (j.imm m).toNat))
    gives2 (.ceq d a b) (fun x y => flag (x == y))
    ∧ gives2 (.clt d a b) (fun x y => flag (decide (x.toInt < y.toInt)))
    ∧ gives2 (.cltu d a b) (fun x y => flag (decide (x.toNat < y.toNat)))
    ∧ givesI (.ceqi d a m) (fun x v => flag (x == v))
    ∧ givesI (.clti d a m) (fun x v => flag (decide (x.toInt < v.toInt)))
    ∧ givesI (.addi d a m) (fun x v => BitVec.ofNat 64 (x.toNat + v.toNat))
    ∧ givesI (.andi d a m) (fun x v => x &&& v)
    ∧ givesI (.ori d a m) (fun x v => x ||| v)
    ∧ givesI (.xori d a m) (fun x v => x ^^^ v)
    ∧ shifts (.shli d a m) (fun x n => BitVec.ofNat 64 (x.toNat * 2 ^ n))
    ∧ shifts (.shri d a m) (fun x n => BitVec.ofNat 64 (x.toNat / 2 ^ n))
    ∧ shifts (.sari d a m) (fun x n => BitVec.ofInt 64 (x.toInt / 2 ^ n)))
  ∧ (∀ (g h k : BitVec 3) (a b : BitVec 7) (m : BitVec 10),
    let writes := fun (i : Instr) (f : Word → Word → Bool) =>
      Completes i (fun _ _ => { srcs := [a, b] }) (guardsEach g (fun s j l => f (j.val s l a) (j.val s l b)))
    let writesI := fun (i : Instr) (f : Word → Word → Bool) =>
      Completes i (fun _ _ => { srcs := [a], imm := some m }) (guardsEach g (fun s j l => f (j.valImm s l a m) (j.imm m)))
    let on := fun (j : Iss) (l : Nat) (x : BitVec 3) => x == 0 || (j.w.lane l).guards.getLsbD x.toNat
    writes (.geq g a b) (fun x y => x == y)
    ∧ writes (.gne g a b) (fun x y => !(x == y))
    ∧ writes (.glt g a b) (fun x y => decide (x.toInt < y.toInt))
    ∧ writes (.gle g a b) (fun x y => decide (x.toInt ≤ y.toInt))
    ∧ writes (.gltu g a b) (fun x y => decide (x.toNat < y.toNat))
    ∧ writes (.gleu g a b) (fun x y => decide (x.toNat ≤ y.toNat))
    ∧ writesI (.geqi g a m) (fun x v => x == v)
    ∧ writesI (.gnei g a m) (fun x v => !(x == v))
    ∧ writesI (.glti g a m) (fun x v => decide (x.toInt < v.toInt))
    ∧ Completes (.gand g h k) (fun _ _ => {}) (guardsEach g (fun _ j l => on j l h && on j l k))
    ∧ Completes (.gor g h k) (fun _ _ => {}) (guardsEach g (fun _ j l => on j l h || on j l k))
    ∧ Completes (.gnot g h) (fun _ _ => {}) (guardsEach g (fun _ j l => !on j l h)))

/-- R92, R94, R104: the instructions of three sources, SEL, SELN and DOT4 complete with the value their rules give. -/
def Obligations.ThreeSources : Prop :=
  ∀ (d : BitVec 6) (a b : BitVec 7) (c : BitVec 4) (g : BitVec 3),
    let gives := fun (i : Instr) (f : Word → Word → Word → Word) =>
      Completes i (laneQ d a b c) (givesEach d (fun s j l => f (j.val s l a) (j.val s l b) (j.val s l (queueSpec c))))
    let picks := fun (i : Instr) (x y : BitVec 7) =>
      Completes i (lane2 d a b) (givesEach d (fun s j l =>
        if g = 0 ∨ (j.w.lane l).guards.getLsbD g.toNat then j.val s l x else j.val s l y))
    let low := fun (x : Word) => x.toNat % 2 ^ 32
    let byte := fun (x : Word) (k : Nat) => signed 8 (x.toNat / 2 ^ (8 * k) % 256)
    gives (.madW d a b c) (fun x y z => (BitVec.ofNat 32 (low x * low y + low z)).signExtend 64)
    ∧ gives (.madD d a b c) (fun x y z => BitVec.ofNat 64 (x.toNat * y.toNat + z.toNat))
    ∧ gives (.shadd d a b c) (fun x y z => BitVec.ofNat 64 (x.toNat * 2 ^ (y.toNat % 64) + z.toNat))
    ∧ gives (.bfi d a b c) (fun x y z =>
        let pos := y.toNat % 64
        let mask := (BitVec.ofNat 64 (2 ^ Nat.min (y.toNat / 256 % 128) (64 - pos) - 1)) <<< pos
        (z &&& ~~~mask) ||| ((x <<< pos) &&& mask))
    ∧ gives (.dot4 d a b c) (fun x y z => BitVec.signExtend 64 (BitVec.ofInt 32
        (byte x 0 * byte y 0 + byte x 1 * byte y 1 + byte x 2 * byte y 2 + byte x 3 * byte y 3 + signed 32 (low z))))
    ∧ picks (.sel d a b g) a b
    ∧ picks (.seln d a b g) b a

/-- R95 to R97: a uniform instruction computes once per issue into sD from uniform operands, and pushes nothing; UREADL and UFIRST read
one lane of the issuing set, and UREADL of another gives 0. A shift by an immediate requires 0 to 63. -/
def Obligations.UniformInstructions : Prop :=
  ∀ (q : BitVec 1) (d : BitVec 5) (a b : BitVec 7) (m : BitVec 10),
    let flag := fun (c : Bool) => if c then 1#64 else 0#64
    let settled := fun (v : RVal) => v.pend = none ∧ v.poison = false
    let into := fun (v : State → Iss → RVal) (s : State) (j : Iss) => { j.w with s := mput {} j.w.s d.toNat (v s j) }
    let gives2 := fun (i : Instr) (f : Word → Word → Word) =>
      Completes i (fun _ _ => { uni := [a, b] }) (into (fun s j => clean (f (j.uval s a) (j.uval s b))))
    let givesI := fun (i : Instr) (f : Word → Word → Word) =>
      Completes i (fun _ _ => { uni := [a], imm := some m }) (into (fun s j => clean (f (j.uvalImm s a m) (j.imm m))))
    let shifts := fun (i : Instr) (f : Nat → Nat → Nat) =>
      Completes i (fun _ j => { uni := [a], imm := some m, legal := decide ((j.imm m).toNat < 64) })
        (into (fun s j => clean (BitVec.ofNat 64 (f (j.uvalImm s a m).toNat (j.imm m).toNat))))
    gives2 (.uadd q d a b) (fun x y => BitVec.ofNat 64 (x.toNat + y.toNat))
    ∧ gives2 (.usub q d a b) (fun x y => BitVec.ofNat 64 (x.toNat + 2 ^ 64 - y.toNat))
    ∧ gives2 (.umul q d a b) (fun x y => BitVec.ofNat 64 (x.toNat * y.toNat))
    ∧ gives2 (.umin q d a b) (fun x y => if x.toInt < y.toInt then x else y)
    ∧ gives2 (.umax q d a b) (fun x y => if x.toInt > y.toInt then x else y)
    ∧ gives2 (.uand q d a b) (fun x y => x &&& y)
    ∧ gives2 (.uor q d a b) (fun x y => x ||| y)
    ∧ gives2 (.ushl q d a b) (fun x y => BitVec.ofNat 64 (x.toNat * 2 ^ (y.toNat % 64)))
    ∧ gives2 (.ushr q d a b) (fun x y => BitVec.ofNat 64 (x.toNat / 2 ^ (y.toNat % 64)))
    ∧ gives2 (.uceq q d a b) (fun x y => flag (x == y))
    ∧ gives2 (.uclt q d a b) (fun x y => flag (decide (x.toInt < y.toInt)))
    ∧ gives2 (.ucltu q d a b) (fun x y => flag (decide (x.toNat < y.toNat)))
    ∧ gives2 (.udivu q d a b) (fun x y => if y.toNat = 0 then BitVec.ofNat 64 (2 ^ 64 - 1) else BitVec.ofNat 64 (x.toNat / y.toNat))
    ∧ givesI (.uaddi q d a m) (fun x v => BitVec.ofNat 64 (x.toNat + v.toNat))
    ∧ givesI (.uandi q d a m) (fun x v => x &&& v)
    ∧ givesI (.uceqi q d a m) (fun x v => flag (x == v))
    ∧ givesI (.uclti q d a m) (fun x v => flag (decide (x.toInt < v.toInt)))
    ∧ shifts (.ushli q d a m) (fun x n => x * 2 ^ n)
    ∧ shifts (.ushri q d a m) (fun x n => x / 2 ^ n)
    ∧ CompletesIf (.ureadl d a b) (fun _ _ => { uni := [b], also := [a] })
        (fun s j => (j.uval s b).toNat % 32 ∈ j.lanes → settled (j.readSpec s none ((j.uval s b).toNat % 32) a))
        (into (fun s j => if (j.uval s b).toNat % 32 ∈ j.lanes then j.readSpec s none ((j.uval s b).toNat % 32) a else clean 0))
    ∧ CompletesIf (.ufirst d a) (fun _ _ => { also := [a] })
        (fun s j => j.lanes ≠ [] ∧ settled (j.readSpec s none (j.lanes.headD 0) a))
        (into (fun s j => j.readSpec s none (j.lanes.headD 0) a))

/-! ### Floating-point instructions -/

/-- R100 to R103: the arithmetic functions complete in each lane of the issuing set with the value of the one rounding of R101 and R102
(opAdd and the others, in the mode of the issue), placed by R76, and raise their flags unless NOFLAG; they touch nothing else. -/
def Obligations.FloatArithmetic : Prop :=
  ∀ (d : BitVec 6) (a b : BitVec 7) (c : BitVec 4),
    let e := queueSpec c
    fp2 (.fadd d a b) fp32 true opAdd d a b ∧ fp2 (.fsub d a b) fp32 true opSub d a b ∧ fp2 (.fmul d a b) fp32 true opMul d a b
    ∧ fp2 (.fmin d a b) fp32 false opMin d a b ∧ fp2 (.fmax d a b) fp32 false opMax d a b
    ∧ fp2 (.dadd d a b) fp64 true opAdd d a b ∧ fp2 (.dsub d a b) fp64 true opSub d a b ∧ fp2 (.dmul d a b) fp64 true opMul d a b
    ∧ fp2 (.dmin d a b) fp64 false opMin d a b ∧ fp2 (.dmax d a b) fp64 false opMax d a b
    ∧ fp1 (.fabs d a) true false (fun _ x => opAbs fp32 .rne x) d a
    ∧ fp1 (.fneg d a) true false (fun _ x => opNeg fp32 .rne x) d a
    ∧ fp1 (.frint d a) true true (fun m x => opRint fp32 m x) d a
    ∧ fpOut (.fma d a b c) [a, b, e] true d (fun m x => opFma fp32 false false m (lo32 (x a)) (lo32 (x b)) (lo32 (x e)))
    ∧ fpOut (.fms d a b c) [a, b, e] true d (fun m x => opFma fp32 false true m (lo32 (x a)) (lo32 (x b)) (lo32 (x e)))
    ∧ fpOut (.fnma d a b c) [a, b, e] true d (fun m x => opFma fp32 true false m (lo32 (x a)) (lo32 (x b)) (lo32 (x e)))
    ∧ fpOut (.dfma d a b c) [a, b, e] true d (fun m x => opFma fp64 false false m (x a).toNat (x b).toNat (x e).toNat)
    ∧ fpOut (.hadd2 d a b) [a, b] true d (fun m x => both (opAdd bf16 m) (x a) (x b))
    ∧ fpOut (.hmul2 d a b) [a, b] true d (fun m x => both (opMul bf16 m) (x a) (x b))
    ∧ fpOut (.hmin2 d a b) [a, b] false d (fun _ x => both (opMin bf16 .rne) (x a) (x b))
    ∧ fpOut (.hmax2 d a b) [a, b] false d (fun _ x => both (opMax bf16 .rne) (x a) (x b))
    ∧ fpOut (.hfma2 d a b c) [a, b, e] true d (fun m x =>
        pair (opFma bf16 false false m (half 0 (x a)) (half 0 (x b)) (half 0 (x e)))
          (opFma bf16 false false m (half 1 (x a)) (half 1 (x b)) (half 1 (x e))))

/-- R105, R106: every CVT function and PACK2 complete; the conversions to an integer write the integer's 64-bit pattern; CVT.bf16.f32 and
CVT.f16.f32 also update AMAX with their operand (R85). R107: the floating-point compares. Unordered operands make every condition false
but those of FGNE and FGUN; NV is set only by a signalling NaN. -/
def Obligations.ConversionsAndCompares : Prop :=
  (∀ (d : BitVec 6) (a b : BitVec 7),
    let int := fun (x : Int × FlagBits) => (⟨(BitVec.ofInt 64 x.1).toNat, x.2⟩ : FRes)
    let amaxed := fun (i : Instr) (f : Fmt) =>
      Completes i (fun _ _ => { srcs := [a], dst := [d], rm := true, nf := true }) (fun s j =>
        (givesEach d (fun s j l => BitVec.ofNat 64 (convert fp32 f j.rm (lo32 (j.val s l a))).bits) s j).raise
          (raisedBy j (fun l => (convert fp32 f j.rm (lo32 (j.val s l a))).flags)) (j.lanes.map (fun l => lo32 (j.val s l a))))
    fp1 (.cvtF32S32 d a) true true (fun m x => ofInteger fp32 m (BitVec.ofNat 32 x).toInt) d a
    ∧ fp1 (.cvtF64S64 d a) false true (fun m x => ofInteger fp64 m (BitVec.ofNat 64 x).toInt) d a
    ∧ fp1 (.cvtS32F32 d a) true true (fun m x => int (toInteger m (-2 ^ 31) (2 ^ 31 - 1) (fval fp32 x))) d a
    ∧ fp1 (.cvtU32F32 d a) true true (fun m x => int (toInteger m 0 (2 ^ 32 - 1) (fval fp32 x))) d a
    ∧ fp1 (.cvtS64F64 d a) false true (fun m x => int (toInteger m (-2 ^ 63) (2 ^ 63 - 1) (fval fp64 x))) d a
    ∧ fp1 (.cvtF64F32 d a) true false (fun _ x => convert fp32 fp64 .rne x) d a
    ∧ fp1 (.cvtF32F64 d a) false true (fun m x => convert fp64 fp32 m x) d a
    ∧ fpOut (.cvtF32Bf16 d a) [a] false d (fun _ x => convert bf16 fp32 .rne (half 0 (x a)))
    ∧ fpOut (.cvtF32F16 d a) [a] false d (fun _ x => convert fp16 fp32 .rne (half 0 (x a)))
    ∧ amaxed (.cvtBf16F32 d a) bf16
    ∧ amaxed (.cvtF16F32 d a) fp16
    ∧ fpOut (.pack2 d a b) [a, b] true d (fun m x => pair (convert fp32 bf16 m (lo32 (x a))) (convert fp32 bf16 m (lo32 (x b)))))
  ∧ (∀ (d : BitVec 6) (g : BitVec 3) (a b : BitVec 7),
    let reg := fun (i : Instr) (c : Option Ordering → Bool) =>
      fpOut i [a, b] false d (fun _ x => ⟨if c ((fval fp32 (lo32 (x a))).cmp (fval fp32 (lo32 (x b)))) then 1 else 0,
        nanFlags [fval fp32 (lo32 (x a)), fval fp32 (lo32 (x b))]⟩)
    let guard := fun (i : Instr) (f : Fmt) (n : Nat) (c : Option Ordering → Bool) =>
      Completes i (fun _ _ => { srcs := [a, b], nf := true }) (fun s j =>
        let x := fun (l : Nat) => fval f ((j.val s l a).toNat % 2 ^ n)
        let y := fun (l : Nat) => fval f ((j.val s l b).toNat % 2 ^ n)
        (guardsEach g (fun _ _ l => c ((x l).cmp (y l))) s j).raise (raisedBy j (fun l => nanFlags [x l, y l])) [])
    reg (.fclt d a b) (fun o => o == some .lt)
    ∧ reg (.fcle d a b) (fun o => o == some .lt || o == some .eq)
    ∧ reg (.fceq d a b) (fun o => o == some .eq)
    ∧ guard (.fglt g a b) fp32 32 (fun o => o == some .lt)
    ∧ guard (.fgle g a b) fp32 32 (fun o => o == some .lt || o == some .eq)
    ∧ guard (.fgeq g a b) fp32 32 (fun o => o == some .eq)
    ∧ guard (.fgne g a b) fp32 32 (fun o => !(o == some .eq))
    ∧ guard (.fgun g a b) fp32 32 (fun o => o == none)
    ∧ guard (.dglt g a b) fp64 64 (fun o => o == some .lt))

/-- R108 to R112: the special functions complete with the value of the function in the grade that FN[5] names; QSE quantises the FP32
values of the warp's 32 lanes as one block (lanes outside the issue count as +0), writes scale and code in each lane, raises the block's
flags and updates AMAX; DQSE writes the lane's element as FP32 and raises nothing. -/
def Obligations.SpecialAndBlocks : Prop :=
  ∀ (d : BitVec 6) (a : BitVec 7) (r : BitVec 1),
    let fn := fun (i : Instr) (f : Sfu) => fp1 i true false (fun _ x => sfu f (r == 1) x) d a
    let quant := fun (i : Instr) (w : Nat) =>
      Completes i (fun _ _ => { srcs := [a], dst := [d], nf := true }) (fun s j =>
        let q := quantise w ((List.range 32).map (fun l => if l ∈ j.lanes then lo32 (j.val s l a) else 0))
        (givesEach d (fun _ _ l => BitVec.ofNat 64 (q.scale * 2 ^ 16 + q.codes.getD l 0)) s j).raise
          (if j.noflag then 0 else q.flags) (j.lanes.map (fun l => lo32 (j.val s l a))))
    let back := fun (i : Instr) (w : Nat) =>
      Completes i (lane1 d a) (givesEach d (fun s j l =>
        BitVec.ofNat 64 (seFp32 w (lo32 (j.val s l a) / 2 ^ 16) (lo32 (j.val s l a) % 2 ^ w) l)))
    fn (.ex2 d a r) .ex2 ∧ fn (.lg2 d a r) .lg2 ∧ fn (.rcp d a r) .rcp ∧ fn (.rsq d a r) .rsq ∧ fn (.sqrt d a r) .sqrt
    ∧ fn (.sinpi d a r) .sinpi ∧ fn (.cospi d a r) .cospi ∧ fn (.tanh d a r) .tanh ∧ fn (.sigm d a r) .sigm ∧ fn (.gelu d a r) .gelu
    ∧ quant (.qse3 d a) 3 ∧ quant (.qse5 d a) 5 ∧ quant (.qse8 d a) 8
    ∧ back (.dqse3 d a) 3 ∧ back (.dqse5 d a) 5 ∧ back (.dqse8 d a) 8

/-- R72: a floating-point result that is a NaN is the canonical NaN of its format: of the operations of R101 and R102 and the atomics,
reductions, chain and Planer steps that use them, of conversions, of the special functions and of decoded SE elements. MIN and MAX give it
whenever an operand is a NaN. R83, R85: FLAGS receives an OR, so that no update clears a bit; AMAX receives the largest magnitude of the
values that are no NaN by the unsigned order of the patterns, and is never lowered; AMAXNAN is set by a NaN. The order of two updates does
not matter. -/
def Obligations.NaNsAndFlags : Prop :=
  (∀ f ∈ [fp64, fp32, bf16, fp16], ∀ (m : Rm) (a b c : Nat),
    let ok := fun (f : Fmt) (r : Nat) => (fval f r).isNan = true → r = f.nan
    ok f (opAdd f m a b).bits ∧ ok f (opSub f m a b).bits ∧ ok f (opMul f m a b).bits
    ∧ ok f (opMin f m a b).bits ∧ ok f (opMax f m a b).bits ∧ ok f (opAbs f m a).bits ∧ ok f (opNeg f m a).bits
    ∧ ok f (opRint f m a).bits ∧ (∀ p q, ok f (opFma f p q m a b c).bits)
    ∧ (∀ g ∈ [fp64, fp32, bf16, fp16], ok f (convert g f m a).bits ∧ ((fval g a).isNan = true → (convert g f m a).bits = f.nan))
    ∧ (∀ (fn : Sfu) (acc : Bool), ok fp32 (sfu fn acc a).bits)
    ∧ (∀ w ∈ [3, 5, 8], ok fp32 (seFp32 w a b c))
    ∧ ((fval f a).isNan = true ∨ (fval f b).isNan = true → (opMin f m a b).bits = f.nan ∧ (opMax f m a b).bits = f.nan))
  ∧ (∀ (w : Warp) (f g : FlagBits) (xs ys : List Nat),
    (∀ k, (w.raise f xs).flags.getLsbD k = (w.flags.getLsbD k || f.getLsbD k))
    ∧ w.amax.toNat ≤ (w.raise f xs).amax.toNat
    ∧ (∀ x ∈ xs, (fval fp32 x).isNan = false → x % 2 ^ 31 ≤ (w.raise f xs).amax.toNat)
    ∧ ((w.raise f xs).amax = w.amax ∨ ∃ x ∈ xs, (fval fp32 x).isNan = false ∧ (w.raise f xs).amax.toNat = x % 2 ^ 31)
    ∧ ((w.raise f xs).amaxnan = (w.amaxnan || xs.any (fun x => (fval fp32 x).isNan)))
    ∧ (w.raise f xs).raise g ys = (w.raise g ys).raise f xs)

/-! ### Control flow -/

/-- R253, R254, R277: a branch completes where it takes no lane out of an active loop body: the lanes of the issuing set whose guard (or
the uniform condition) says so stand at the displaced address, the others at the next word; nothing else changes, but that CALL, which is
never checked for escape, writes the return address to n15 in the lanes that leave, and pushes nothing. R255, R277: an indirect transfer
completes where every target is aligned, can be fetched as code, holds LAND for JMPI and CALLI, and for JMPI and RET stays in the active
loop body: each lane stands at its own target; CALLI writes the return address to n15. The fetches of its checks are accesses (their walks
set A and fill translations): nothing else changes. A target that is not a multiple of 4 is a control fault of the lanes that have one,
with the lowest such target. LAND completes and does nothing. -/
def Obligations.Transfers : Prop :=
  (∀ (g : BitVec 3) (q : BitVec 1) (c : BitVec 7) (d : BitVec 21) (e : BitVec 17),
    let at' := fun (j : Iss) (n : Int) => j.run + BitVec.ofInt 64 (4 * n)
    let goes := fun (i : Instr) (u : Uses) (n : Int) (on : State → Iss → Nat → Bool) =>
      CompletesTo i (fun _ _ => u) (fun s j => j.escaping (j.lanes.filter (on s j)) (fun _ => at' j n) = []) (fun _ j => j.w)
        (fun s j l => if on s j l then at' j n else (j.w.lane l).pc + 4)
    let guard := fun (j : Iss) (l : Nat) => g == 0 || (j.w.lane l).guards.getLsbD g.toNat
    goes (.br g d) {} d.toInt (fun _ j l => guard j l)
    ∧ goes (.brn g d) {} d.toInt (fun _ j l => !guard j l)
    ∧ goes (.bruz q c e) { uni := [c] } e.toInt (fun s j _ => j.uval s c == 0)
    ∧ goes (.brunz q c e) { uni := [c] } e.toInt (fun s j _ => j.uval s c != 0)
    ∧ CompletesTo (.call g d) (fun _ _ => {}) (fun _ _ => True)
        (fun _ j => j.w.modLanes (j.lanes.filter (guard j))
          (fun _ x => { x with regs := mput {} x.regs 15 (clean (x.pc + 4)) }))
        (fun _ j l => if guard j l then at' j d.toInt else (j.w.lane l).pc + 4))
  ∧ (∀ (a : BitVec 7),
    let legal := fun (src : BitVec 7) (land escape : Bool) (s : State) (j : Iss) =>
      (∀ l ∈ j.lanes, (j.val s l src).toNat % 4 = 0 ∧ ∃ v, s.fetchAt j.w (j.val s l src) j.w.handler = .ok v
        ∧ (land = true → v = 0x8BFE1C03#32))
      ∧ (escape = true → ∀ k, j.w.depth = k + 1 → ∀ l ∈ j.lanes, j.w.inside k l = true →
          (j.w.level k).ostart.toNat ≤ (j.val s l src).toNat ∧ (j.val s l src).toNat ≤ (j.w.level k).olast.toNat)
    let goes := fun (i : Instr) (src : BitVec 7) (land escape : Bool) (g : State → Iss → Warp) =>
      CompletesFrom i (fun _ _ => { srcs := [src] }) (legal src land escape)
        (fun s j => j.lanes.foldl (fun s l => s.touchFetch j.w (j.val s l src)) s) g (fun s j l => j.val s l src)
    goes (.jmpi a) a true true (fun _ j => j.w)
    ∧ goes (.calli a) a true false (fun _ j => j.w.modLanes j.lanes
        (fun _ x => { x with regs := mput {} x.regs 15 (clean (x.pc + 4)) }))
    ∧ goes .ret 0x0F#7 false true (fun _ j => j.w)
    ∧ Completes .land (fun _ _ => {}) (fun _ j => j.w)
    ∧ (∀ i src, (i, src) ∈ [(Instr.jmpi a, a), (.calli a, a), (.ret, 0x0F#7)] → ∀ s j, Executes s j { srcs := [src] } →
        ∀ bad, bad = j.lanes.filter (fun l => (j.val s l src).toNat % 4 != 0) → bad ≠ [] →
        ∃ low ∈ bad.map (fun l => j.val s l src), (∀ x ∈ bad.map (fun l => j.val s l src), low.toNat ≤ x.toNat)
          ∧ exec i s = .next (j.fault s { cls := 0x08, addr := low, lanes := bad })))

/-- R256, R257: PARK completes: each lane of the issuing set waits at it, watching the line its address names (none where the word names
%zero, and for an address that names none) since this cycle. Copies of those lines, where they are cached, come into the core's L1, and
their region's mask may grow; every other line stays as it was in every cache, and every byte reads as before (where the L1 held a watched
line for other regions only, as after those copies have gone: the model's choice, log entry 18). (Stated where no invalidation of such a
line is on its way, and the L1 has room for them.) A parked lane whose wake has occurred, or that has
waited 4,096 cycles, goes on. YIELD completes: its lanes go on and are withheld for 32 opportunities, the warp for one cycle. R258: EXIT
completes, inside a loop too: the lanes of the issuing set are no longer live, in the trap frame too where the warp is in its handler;
registers, flags and everything else of the device stay as they were while a lane of the warp is live, and where no level is active the
other lanes stay where they are. A warp without a live lane ends: its claim is over. -/
def Obligations.WaitingAndEnding : Prop :=
  ((∀ (a : BitVec 7) (s : State) (j : Iss), Executes s j { srcs := [a] } →
    let line := fun (l : Nat) => j.watchLine s l a (j.val s l a)
    let lines := ((j.lanes.filterMap line).eraseDups).filter (fun n => isCached (n * 128))
    let s0 := s.claimed j.w.core (s.nodeOf j.w).region.rcb lines
    (∀ l ∈ j.lanes, ∀ n, line l = some n → s.locked n = false) → Roomy s j.w.core 32 →
    ∃ (t : State) (v : Warp), exec (.park a) s = .next (t.settle j.k)
      ∧ (a = 0x70 → ∀ l, line l = none)
      ∧ (∀ n ∈ lines, ∀ b, b / 128 = n → s.isPoison b = false → s.lostAt b = false → (t.cachedByte true j.w.core b).isSome = true)
      ∧ (∀ c n, c ≠ j.w.core ∨ n ∉ lines → lineGet (t.cache true c) n = lineGet (s.cache true c) n)
      ∧ (∀ c n, c ≠ j.w.core / 16 ∨ n ∉ lines → lineGet (t.cache false c) n = lineGet (s.cache false c) n)
      ∧ (∀ r, (∀ n ∈ lines, regionOfLine n ≠ r) → mgetD t.dir r 0 = mgetD s.dir r 0)
      ∧ (∀ c p b, t.view c p b = s0.view c p b)
      ∧ OnlyWarp s { t with l1 := s.l1, cc := s.cc, dir := s.dir } j.k ∧ t.warp j.k = some v
      ∧ SameWarp j.w v ∧ ∀ l, v.lane l = if l ∈ j.lanes
          then { j.w.lane l with park := .watch (line l) s.cycle false, age := 0, blocked := 0 }
          else j.w.lane l)
  ∧ (∀ (s : State) (k l : Nat) (w : Warp) (line : Option Nat) (since : Nat) (woken : Bool),
      s.warp k = some w → (w.lane l).park = .watch line since woken →
      (woken = true → ∃ t, exec (.parkWake k l) s = .next (t.settle k) ∧ GoesOn s t k l)
      ∧ (since + 4096 ≤ s.cycle → ∃ t, exec (.parkTimeout k l) s = .next (t.settle k) ∧ GoesOn s t k l)
      ∧ (woken = false → exec (.parkWake k l) s = .next s)
      ∧ (s.cycle < since + 4096 → exec (.parkTimeout k l) s = .next s))
  ∧ (∀ (s : State) (j : Iss), Executes s j {} →
      ∃ t v, exec .yield s = .next (t.settle j.k) ∧ OnlyWarp s t j.k ∧ t.warp j.k = some v ∧ SameWarp j.w v ∧ v.away = 1
        ∧ (Plain j → ∀ l, v.lane l = if l ∈ j.lanes then { landed ((j.w.lane l).pc + 4) (j.w.lane l) with yield := 32 }
            else j.w.lane l)))
  ∧ (∀ (s : State) (j : Iss), Executes s j {} →
    let out := fun (l : Nat) (x : Lane) =>
      if l ∈ j.lanes then { x with live := false, hint := none, park := .no, age := 0, blocked := 0 } else x
    ∃ t, exec .exit s = .next (t.settle j.k)
      ∧ ((∃ l, l ∉ j.lanes ∧ l < 32 ∧ (j.w.lane l).live = true) → OnlyWarp s t j.k ∧ ∃ v, t.warp j.k = some v
          ∧ SameWarp { j.w with frame := j.w.frame.map (fun (f : Frame) =>
              { f with lanes := f.lanes.filter (fun e => !(j.lanes.elem e.1)) }) } v
          ∧ (∀ l, SameLane (out l (j.w.lane l)) (v.lane l))
          ∧ (j.w.depth = 0 → ∀ l, v.lane l = out l (j.w.lane l)))
      ∧ ((∀ l, l < 32 → (j.w.lane l).live = true → l ∈ j.lanes) → ∀ v, t.warp j.k = some v → v.wg = j.w.wg → v.ended = true ∧ v.claim = {}))

/-- R45 to R51: a hint word completes where its group may hold it, some word of the code follows it (in handler mode none has to, log
entry 59), and no back edge stands there: the pending hint state of the lanes grows by its payload (that of an HMOD whatever it is: it is
judged at the group's instruction, log entry 20), its first word's PC is kept, and they stand at the next word. A third HIMM, a second
HSCHED and a second HMOD of a group are illegal instructions, and so is a group that holds a HIMM or an HMOD at the END of the innermost
level, or whose last word is the last of the code: that fault's PCs are the group's first word's. An HSCHED alone at END completes it, and
its hint is gone. R261: PART gives kN sub-groups of 4, 8, 16 or 32 lanes, and any other
operand is an illegal operand; PART does not name k0. GMASK gives each lane the mask of the live lanes of its sub-group. -/
def Obligations.HintsAndPartitions : Prop :=
  (∀ (x : BitVec 24) (p : BitVec 2) (c b a y n cp e : BitVec 1) (z m : BitVec 3) (s : State) (j : Iss),
    s.issue = some j →
    let old : Hint := j.hint.getD { first := j.pc, firstR := j.lead.rpc }
    let atEnd := ∃ k, j.w.depth = k + 1 ∧ (∃ l ∈ j.lanes, j.w.participates k l = true) ∧ j.w.atEnd j.code k j.lead = true
    let stops := j.w.handler = false ∧ j.lastWord = true
    let grows := fun (i : Instr) (h : Hint) =>
      (¬ atEnd → ¬ stops → ∃ t v, exec i s = .next t ∧ OnlyWarp s t j.k ∧ t.warp j.k = some v ∧ SameWarp j.w v
        ∧ ∀ l, SameLane (j.w.lane l) (v.lane l) ∧ (l ∉ j.lanes → v.lane l = j.w.lane l)
          ∧ (l ∈ j.lanes → (v.lane l).hint = some h ∧ (v.lane l).age = 0
              ∧ (j.code.jig = none → (j.w.lane l).rpc = none → (v.lane l).pc = (j.w.lane l).pc + 4 ∧ (v.lane l).rpc = none)))
      ∧ (stops ∨ atEnd ∧ (h.himm ≠ [] ∨ h.hmod ≠ none) →
          exec i s = .next (s.takeFault j.k { cls := 0x01, addr := j.word s, lanes := j.lanes } h.first (h.firstR.getD h.first)))
      ∧ (atEnd → ¬ stops → h.himm = [] → h.hmod = none → ∃ t v, exec i s = .next (State.settle t j.k) ∧ Reaches s t j.k j.w
          ∧ t.warp j.k = some v ∧ ∀ l ∈ j.lanes, (v.lane l).hint = none)
    let full := fun (i : Instr) => exec i s = .next (j.fault s { cls := 0x01, addr := j.word s, lanes := j.lanes })
    (old.himm.length < 2 → grows (.himm x) { old with himm := old.himm ++ [x], ins := j.inserted })
    ∧ (2 ≤ old.himm.length → full (.himm x))
    ∧ (old.hsched = none → grows (.hsched p c b a y) { old with hsched := some (p ++ c ++ b ++ a ++ y) })
    ∧ (old.hsched ≠ none → full (.hsched p c b a y))
    ∧ (old.hmod = none → grows (.hmod n cp z e m) { old with hmod := some (n ++ cp ++ z ++ e ++ m) })
    ∧ (old.hmod ≠ none → full (.hmod n cp z e m)))
  ∧ (∀ (k : BitVec 2) (a : BitVec 7) (d : BitVec 6),
    (k ≠ 0 → CompletesIf (.part k a) (fun _ _ => { uni := [a] }) (fun s j => (j.uval s a).toNat ∈ [4, 8, 16, 32]) (fun s j =>
        { j.w with k1 := if k = 1 then (j.uval s a).toNat else j.w.k1, k2 := if k = 2 then (j.uval s a).toNat else j.w.k2,
                   k3 := if k = 3 then (j.uval s a).toNat else j.w.k3 }))
    ∧ (∀ s j, Executes s j { uni := [a] } → (j.uval s a).toNat ∉ [4, 8, 16, 32] →
        exec (.part k a) s = .next (j.fault s { cls := 0x02, addr := j.word s, lanes := j.lanes }))
    ∧ Instr.wf (.part 0 a) = false
    ∧ Completes (.gmask d k) (fun _ _ => { dst := [d] }) (givesEach d (fun _ j l =>
        let g := j.w.groupSize k.toNat
        (maskOf ((List.range 32).filter (fun m => (j.w.lane m).live && m / g == l / g))).setWidth 64)))

/-- R259, R262, R263: a collective waits until every lane of its sub-group that counts has reached it, and then completes once for all of
them: each lane of the set has its value of R262, from the values of the set's lanes; CFSUM adds in the order of R263 (a lone lane's value
stays; where it is a NaN, it is the canonical one, and NV is set if it signals: the model's reading of R71 and R72, log entry 65). R264: a
rearrangement completes once for the whole warp: COMPRESS, EXPAND and the slides take operand A of the lane the rule names, 0 where that
lane is not in the set (the model's reading, log entry 8), else operand B of the lane itself. A slide by more than 32 is an illegal
operand. -/
def Obligations.Collectives : Prop :=
  (∀ (d : BitVec 6) (a b : BitVec 7) (k : BitVec 2),
    let gives := fun (i : Instr) (srcs : List (BitVec 7)) (f : State → Iss → Nat → Word) =>
      MeetsIf i k.toNat (fun _ _ => { srcs := srcs, dst := [d] }) (fun _ _ => True) (givesEach d f)
    let named := fun (s : State) (m : Iss) (l : Nat) =>
      l / m.w.groupSize k.toNat * m.w.groupSize k.toNat + (m.val s l b).toNat % 32 % m.w.groupSize k.toNat
    let flag := fun (c : Bool) => if c then 1#64 else 0#64
    gives (.vall d a k) [a] (fun s m _ => flag (m.lanes.all (fun l => m.val s l a != 0)))
    ∧ gives (.vany d a k) [a] (fun s m _ => flag (m.lanes.any (fun l => m.val s l a != 0)))
    ∧ gives (.vbal d a k) [a] (fun s m _ => (maskOf (m.lanes.filter (fun l => m.val s l a != 0))).setWidth 64)
    ∧ gives (.shfl d a b k) [a, b] (fun s m l => if named s m l ∈ m.lanes then m.val s (named s m l) a else 0)
    ∧ gives (.push d a b k) [a, b] (fun s m l =>
        match (m.lanes.filter (fun n => named s m n == l)).getLast? with
        | none => 0
        | some n => m.val s n a)
    ∧ gives (.csum d a k) [a] (fun s m _ => BitVec.ofNat 64 (m.lanes.map (fun l => (m.val s l a).toNat)).sum)
    ∧ gives (.cscan d a k) [a] (fun s m l =>
        BitVec.ofNat 64 ((m.lanes.filter (fun n => decide (n ≤ l))).map (fun n => (m.val s n a).toNat)).sum)
    ∧ MeetsIf (.cmax d a k) k.toNat (fun _ _ => { srcs := [a], dst := [d] }) (fun _ _ => True) (fun s m =>
        givesEach d (fun s m _ => (m.lanes.map (fun l => m.val s l a)).foldl
          (fun t x => if t.toInt < x.toInt then x else t) (m.val s (m.lanes.headD 0) a)) s m)
    ∧ MeetsIf (.cfsum d a k) k.toNat (fun _ _ => { srcs := [a], dst := [d], nf := true }) (fun _ _ => True) (fun s m =>
        let g := m.w.groupSize k.toNat
        let r := treeSum (fun l => if l ∈ m.lanes then some (lo32 (m.val s l a)) else none) (Nat.log2 g) (m.lanes.headD 0 / g * g)
        let x := lo32 (m.val s (m.lanes.headD 0) a)
        let lone := m.lanes.length = 1 ∧ (fval fp32 x).isNan = true
        (givesEach d (fun _ _ _ => BitVec.ofNat 64 (if lone then fp32.nan else r.1.getD 0)) s m).raise
          (if m.noflag then 0 else if lone then nanFlags [fval fp32 x] else r.2) []))
  ∧ (∀ (d : BitVec 6) (a b : BitVec 7) (m : BitVec 4),
    let um : BitVec 7 := 0x50#7 + m.setWidth 7
    let use := fun (_ : State) (j : Iss) => ({ srcs := [a, b], uni := [um], dst := [d], legal := j.himm == [] } : Uses)
    let mask := fun (s : State) (j : Iss) => lanesOf ((j.uval s um).setWidth 32 &&& j.w.liveMask)
    let of := fun (s : State) (j : Iss) (l : Nat) => if l ∈ j.lanes then j.val s l a else 0
    MeetsIf (.compress d a b m) 0 use (fun _ _ => True) (givesEach d (fun s j l =>
      match (mask s j)[l]? with
      | some n => of s j n
      | none => j.val s l b))
    ∧ MeetsIf (.expand d a b m) 0 use (fun _ _ => True) (givesEach d (fun s j l =>
      if l ∈ mask s j then of s j ((mask s j).filter (fun n => decide (n < l))).length else j.val s l b))
    ∧ MeetsIf (.slideup d a b m) 0 use (fun s j => (j.uval s um).toNat ≤ 32) (givesEach d (fun s j l =>
      if (j.uval s um).toNat ≤ l then of s j (l - (j.uval s um).toNat) else j.val s l b))
    ∧ MeetsIf (.slidedn d a b m) 0 use (fun s j => (j.uval s um).toNat ≤ 32) (givesEach d (fun s j l =>
      if l + (j.uval s um).toNat ≤ 31 then of s j (l + (j.uval s um).toNat) else j.val s l b))
    ∧ ∀ i ∈ [Instr.slideup d a b m, .slidedn d a b m], ∀ s j x, Meets s j x 0 use → 32 < (x.uval s um).toNat →
        let s1 := s.setWarp j.k (j.parkAt 0)
        exec i s = .next ((x.fault s1 { cls := 0x02, addr := x.word s1, lanes := x.lanes }).settle j.k))

/-- R265, R266: REGROUP, when every lane of its warp has reached it with a legal target, no claim is held, no loop level is active and no
access of the warp is in flight, puts the warp into the pool of its workgroup on its core: its lanes wait there for their targets. The
pool closes when no warp is missing or 256 cycles have passed; a pool that is closed is gone, and nothing happens before. -/
def Obligations.Regrouping : Prop :=
  (∀ (a : BitVec 7) (s : State) (j m : Iss), Meets s j m 0 (fun _ _ => { srcs := [a] }) →
    m.w.claim.count = 0 → m.w.depth = 0 → m.w.handler = false → (∀ o ∈ s.ops, o.warp ≠ j.k) →
    (∀ l ∈ m.lanes, (m.val s l a).toNat % 4 = 0 ∧ s.fetchAt m.w (m.val s l a) false = .ok 0x8BFE1C03#32) →
    ∃ t v, exec (.regroup a) s = .next ((State.tryPool t m.w.wg m.w.core).settle j.k) ∧ t.warp j.k = some v ∧ SameWarp m.w v
      ∧ t.mem = (touchTargets (s.setWarp j.k m.w) m (fun l => m.val s l a)).mem
      ∧ ∀ l, SameLane (m.w.lane l) (v.lane l) ∧ (v.lane l).park = if l ∈ m.lanes then .pool (m.val s l a) else (m.w.lane l).park)
  ∧ (∀ (s : State) (g c : Nat) (p : Pool), (s.wg g).pools.find? (fun q => q.core == c) = some p →
      (s.poolFull g p = true ∨ p.opened + 256 ≤ s.cycle →
        ∃ t, exec (.regroupPoolTimeout g c) s = .next t ∧ (t.wg g).pools = (s.wg g).pools.filter (fun q => q.core != c)
          ∧ t.mem = s.mem ∧ t.nodes = s.nodes)
      ∧ (s.poolFull g p = false ∧ s.cycle < p.opened + 256 → exec (.regroupPoolTimeout g c) s = .next s))

/-- R266, R24: a pool that closes forms fresh warps in its contributors' places, ⌈T/32⌉ of them for T live lanes, and every other warp stays.
Every thread is in one of them, with its lane state, at its target. Of a target's threads, by thread index, each whole 32 fill a warp;
the remainders, by target and thread index, fill the warps after those, all but the last of them whole. Lanes follow the thread index. The
j-th fresh warp takes the %warp and slot of the j-th contributor; it copies the registers, handles, descriptors, flags and special registers
of the lowest contributor that gave it a lane, and has no level, claim, latch or partition. (Stated of threads with distinct indices below
2^32, of contributors with distinct %warp, and of original code.) -/
def Obligations.FreshWarps : Prop :=
  ∀ (s : State) (g c : Nat) (p : Pool) (ws : List Warp), (s.wg g).pools.find? (fun q => q.core == c) = some p →
    s.poolFull g p = true ∨ p.opened + 256 ≤ s.cycle →
    ws.Perm (p.warps.filterMap s.warp) → ws.Pairwise (fun a b => a.index < b.index) → (∀ w ∈ ws, (s.code w).jig = none) →
    let threads := ws.flatMap (fun w => w.live.map w.lane)
    (threads.map (fun x => x.tid)).Nodup → (∀ x ∈ threads, x.tid < 2 ^ 32) →
    let goes := fun (x : Lane) => ({ x with pc := x.poolTarget, rpc := none, park := .no, hint := none, age := 0, yield := 0, blocked := 0 } : Lane)
    let atTarget := fun (a : Word) => threads.filter (fun x => x.poolTarget == a)
    let whole := ((threads.map (fun x => x.poolTarget)).eraseDups.map (fun a => (atTarget a).length / 32)).sum
    ∃ (t : State) (fresh : List Warp), exec (.regroupPoolTimeout g c) s = .next t ∧ fresh.length = (threads.length + 31) / 32
      ∧ (∀ i, i < fresh.length → t.warp (s.serial + i) = fresh[i]?)
      ∧ (∀ k, k < s.serial → t.warp k = if k ∈ p.warps then none else s.warp k)
      ∧ (fresh.flatMap (fun v => v.live.map v.lane)).Perm (threads.map goes)
      ∧ (∀ a q, q < (atTarget a).length / 32 → ∃ v ∈ fresh.take whole, ∀ l, l < 32 → (v.lane l).live = true ∧ (v.lane l).pc = a
          ∧ ((atTarget a).filter (fun x => decide (x.tid < (v.lane l).tid))).length = 32 * q + l)
      ∧ (∀ (i : Nat) (v : Warp), fresh[i]? = some v → (∀ l m, l < m → m < 32 → (v.lane m).live = true → (v.lane l).live = true ∧ (v.lane l).tid < (v.lane m).tid)
          ∧ (i + 1 < fresh.length → v.live.length = 32))
      ∧ (∀ (i k : Nat) (u v : Warp) (l m : Nat), whole ≤ i → i < k → fresh[i]? = some u → fresh[k]? = some v → (u.lane l).live = true → (v.lane m).live = true →
          (u.lane l).pc.toNat < (v.lane m).pc.toNat ∨ (u.lane l).pc = (v.lane m).pc ∧ (u.lane l).tid < (v.lane m).tid)
      ∧ (∀ (i : Nat) (u v : Warp), ws[i]? = some u → fresh[i]? = some v → v.index = u.index ∧ v.slot = u.slot ∧ v.wg = u.wg ∧ v.core = u.core)
      ∧ (∀ v ∈ fresh, v.depth = 0 ∧ v.claim.count = 0 ∧ v.latch = none ∧ v.handler = false ∧ (∀ k, v.groupSize k = 32)
          ∧ ∃ u ∈ ws, v.s = u.s ∧ v.t = u.t ∧ v.d = u.d ∧ v.flags = u.flags ∧ v.amax = u.amax ∧ v.amaxnan = u.amaxnan ∧ v.ackseq = u.ackseq
            ∧ v.msgdst = u.msgdst ∧ v.privlim = u.privlim ∧ (∃ l ∈ v.live, ∃ m ∈ u.live, (v.lane l).tid = (u.lane m).tid)
            ∧ ∀ w ∈ ws, ∀ l ∈ v.live, ∀ m ∈ w.live, (v.lane l).tid = (w.lane m).tid → u.index ≤ w.index)

/-! ### Loops -/

/-- R270, R271, R273: LOOP at level L = depth completes once for the participants of the innermost level (for every live lane, where there is
none). A count of 1 to 2^32 - 1 makes the level active with
index 0, START at the next word, END at the displaced one, stage mask 1, and takes part of all lanes of the set; they go on to START. A
count of 0 activates nothing, and the lanes go on after END (stated outside every other level). A larger count is an illegal operand; a
level other than the depth, a second rotating level, or an END outside the body of the level outside is a loop-nesting fault. R276: LBRK
completes where its lanes whose guard is true stand in the body of the innermost level: those lanes leave the levels from L on, and wait
at END + 4 of level L until it pops; the others go on. Stated where another lane goes on inside the innermost level, so that no level pops
at once. A level that is not active is a loop-nesting fault. -/
def Obligations.LoopEntryAndExit : Prop :=
  (∀ (l : BitVec 2) (c : BitVec 7) (e : BitVec 12) (t : BitVec 3) (r u : BitVec 1) (s : State) (j m : Iss),
    Meets s j m 4 (fun s i => { uni := [c], opOk := r == 0 || decide (48 ≤ i.named s) }) → m.lanes ≠ [] →
    LevelsFill m.w → m.code.jig = none → (∀ x ∈ m.lanes, (m.w.lane x).rpc = none) → m.lead.rpc = none →
    let start : BitVec 56 := (m.pc + 4).setWidth 56
    let last : BitVec 56 := (m.pc + BitVec.ofNat 64 (4 * e.toNat)).setWidth 56
    let n := m.uval s c
    let fits := l.toNat = m.w.depth ∧ (r = 1 → ∀ v ∈ m.w.levels, v.active = true → v.rt = false)
      ∧ (0 < m.w.depth → last.toNat ≤ (m.w.level (m.w.depth - 1)).olast.toNat)
    (fits → 0 < n.toNat → n.toNat < 2 ^ 32 →
      ∃ x v, exec (.loop l c e t r u) s = .next (State.settle x j.k) ∧ OnlyWarp s x j.k ∧ x.warp j.k = some v ∧ SameWarp m.w v
        ∧ v.levels = setAt m.w.levels l.toNat (fun _ =>
            { count := n.setWidth 32, index := 0, ostart := start, olast := last, start := start, last := last, res := false, active := true,
              un := u == 1, rt := r == 1, st := t, sm := 1, rrb := 0, back := 0, exit := ~~~(maskOf m.lanes), copies := 0 })
        ∧ ∀ y, v.lane y = if y ∈ m.lanes then landed (start.setWidth 64) (m.w.lane y) else m.w.lane y)
    ∧ (fits → n.toNat = 0 → m.w.depth = 0 →
      ∃ x v, exec (.loop l c e t r u) s = .next (State.settle x j.k) ∧ OnlyWarp s x j.k ∧ x.warp j.k = some v ∧ SameWarp m.w v
        ∧ v.levels = m.w.levels
        ∧ ∀ y, v.lane y = if y ∈ m.lanes then landed (last.setWidth 64 + 4) (m.w.lane y) else m.w.lane y)
    ∧ (fits → 2 ^ 32 ≤ n.toNat → exec (.loop l c e t r u) s
        = .next (((m.fault (s.setWarp j.k (j.parkAt 4)) { cls := 0x02, addr := m.word s, lanes := m.lanes })).settle j.k))
    ∧ (¬ fits → exec (.loop l c e t r u) s
        = .next (((m.fault (s.setWarp j.k (j.parkAt 4)) { cls := 0x09, lanes := m.lanes, kind := 4, idx := l.toNat })).settle j.k)))
  ∧ (∀ (g : BitVec 3) (l : BitVec 2) (s : State) (j : Iss), Executes s j {} →
    LevelsFill j.w → j.code.jig = none → (∀ x, (j.w.lane x).rpc = none) →
    let out := j.lanes.filter (fun x => g == 0 || (j.w.lane x).guards.getLsbD g.toNat)
    let inner := j.w.level (j.w.depth - 1)
    (j.w.depth ≤ l.toNat → exec (.lbrk g l) s = .next (j.fault s { cls := 0x09, lanes := j.lanes, kind := 4, idx := l.toNat }))
    ∧ (l.toNat < j.w.depth → (∀ x ∈ out, inner.ostart.toNat ≤ (j.w.lane x).pc.toNat ∧ (j.w.lane x).pc.toNat ≤ inner.olast.toNat) →
      (∃ x ∈ j.lanes, x ∉ out ∧ inner.exit.getLsbD x = false ∧ inner.back.getLsbD x = false) →
      (∀ x ∈ j.lanes, (j.w.lane x).pc ≠ inner.olast.setWidth 64) →
      ∃ t v, exec (.lbrk g l) s = .next (State.settle t j.k) ∧ OnlyWarp s t j.k ∧ t.warp j.k = some v ∧ SameWarp j.w v
        ∧ (∀ k, k < 4 → v.level k = if l.toNat ≤ k ∧ k < j.w.depth
            then { j.w.level k with exit := (j.w.level k).exit ||| maskOf out, gone := (j.w.level k).gone ||| maskOf out } else j.w.level k)
        ∧ ∀ x, v.lane x = if x ∈ out
            then { j.w.lane x with pc := (j.w.level l.toNat).olast.setWidth 64 + 4, park := .left l.toNat, hint := none, age := 0,
                                   blocked := 0 }
            else if x ∈ j.lanes then landed ((j.w.lane x).pc + 4) (j.w.lane x) else j.w.lane x))

/-- R279, R280: LRD of an active level sets the guard, in the lanes whose condition holds, to the activity of the stage that its uniform
operand names (at most 7); LWR of an active level replaces the level's count with its operand (below 2^32), to act at the next back edge.
A level that is not active is a loop-nesting fault of both; a greater operand is an illegal operand. R272, R278: the back edge of the
innermost level fires when every lane that takes part has completed END. The index rises by one, the stage mask shifts and receives
whether iterations remain, BACK clears, rotation moves by one, and the lanes go on at START; when the mask becomes 0, the level pops: it
is inactive, and the lanes that waited at its back edge stand at END + 4. Nothing happens while a lane is missing. -/
def Obligations.LoopRegistersAndBackEdge : Prop :=
  (∀ (g h : BitVec 3) (l : BitVec 2) (a : BitVec 7),
    CompletesIf (.lrd g l a h) (fun _ _ => { uni := [a] }) (fun s j => l.toNat < j.w.depth ∧ (j.uval s a).toNat ≤ 7) (fun s j =>
      let v := j.w.level l.toNat
      let on := v.active && decide ((j.uval s a).toNat ≤ v.st.toNat) && v.sm.getLsbD (j.uval s a).toNat
      j.w.modLanes (j.lanes.filter (fun x => g == 0 || (j.w.lane x).guards.getLsbD g.toNat)) (fun _ x =>
        { x with guards := if on then x.guards ||| (1#8 <<< h.toNat) else x.guards &&& ~~~(1#8 <<< h.toNat) }))
    ∧ (∀ s j, Executes s j { uni := [a] } → l.toNat < j.w.depth → (j.uval s a).toNat < 2 ^ 32 →
        j.code.jig = none → (∀ x, (j.w.lane x).rpc = none) →
        (∀ x ∈ j.lanes, (j.w.lane x).pc ≠ (j.w.level (j.w.depth - 1)).olast.setWidth 64) →
        (∃ x, x < 32 ∧ j.w.participates (j.w.depth - 1) x = true ∧ (j.w.level (j.w.depth - 1)).back.getLsbD x = false) →
        ∃ t v, exec (.lwr l a) s = .next (State.settle t j.k) ∧ OnlyWarp s t j.k ∧ t.warp j.k = some v ∧ SameWarp j.w v
          ∧ v.levels = setAt j.w.levels l.toNat (fun v => { v with count := (j.uval s a).setWidth 32 })
          ∧ ∀ x, v.lane x = if x ∈ j.lanes then landed ((j.w.lane x).pc + 4) (j.w.lane x) else j.w.lane x)
    ∧ (∀ i ∈ [Instr.lrd g l a h, .lwr l a], ∀ s j, Executes s j { uni := [a] } →
        (j.w.depth ≤ l.toNat → exec i s = .next (j.fault s { cls := 0x09, lanes := j.lanes, kind := 4, idx := l.toNat }))
        ∧ (l.toNat < j.w.depth → (if i = .lwr l a then 2 ^ 32 else 8) ≤ (j.uval s a).toNat →
            exec i s = .next (j.fault s { cls := 0x02, addr := j.word s, lanes := j.lanes }))))
  ∧ (∀ (s : State) (k : Nat) (w : Warp) (n : Nat), s.warp k = some w → LevelsFill w → w.depth = n + 1 →
    (s.code w).jig = none →
    let v := w.level n
    let parts := (List.range 32).filter (fun x => (w.lane x).live && !v.exit.getLsbD x)
    let more := decide (v.index.toNat + 1 < v.count.toNat)
    let mask := ((v.sm <<< 1) ||| (if more then 1 else 0)) &&& BitVec.ofNat 8 (2 ^ (v.st.toNat + 1) - 1)
    v.copies = 0 → v.index.toNat < 2 ^ 32 → parts ≠ [] →
    ((∃ x ∈ parts, v.back.getLsbD x = false) → exec (.backEdge k) s = .next (State.settle (s.setWarp k w) k))
    ∧ ((∀ x ∈ parts, v.back.getLsbD x = true) → mask ≠ 0 →
        ∃ t y, exec (.backEdge k) s = .next (State.settle t k) ∧ OnlyWarp s t k ∧ t.warp k = some y ∧ SameWarp w y
          ∧ y.levels = setAt w.levels n (fun _ =>
              { v with index := v.index + 1, sm := mask, back := 0, rrb := if v.rt then v.rrb - 1 else v.rrb })
          ∧ ∀ x, x < 32 → y.lane x = if v.back.getLsbD x ∧ (w.lane x).park = .backEdge n then { w.lane x with park := .no } else w.lane x)
    ∧ ((∀ x ∈ parts, v.back.getLsbD x = true) → mask = 0 → n = 0 →
        ∃ t y, exec (.backEdge k) s = .next (State.settle t k) ∧ OnlyWarp s t k ∧ t.warp k = some y ∧ SameWarp w y
          ∧ (∀ i, (y.level i).active = false)
          ∧ ∀ x, x < 32 → (w.lane x).live = true → (w.lane x).rpc = none → (w.lane x).park = .backEdge 0 →
              y.lane x = { w.lane x with pc := v.olast.setWidth 64 + 4, park := .no }))

/-! ### Memory -/

/-- R182, R183, R187, R189, R329: LD completes where the checks pass in every lane that is not dismissed and nothing holds it. For each load
policy among the pages that the lanes reach, one load is in flight, to what the lanes' addresses reach; in each lane of the issuing set a
position is pushed (two for 16 bytes, the low half first) that waits for it, or 0 where the lane is dismissed, and the named registers take
the same. Its walks apart, memory is as before. R21, R184, R188: a reply makes the next single-copy atomic access of each lane. While some
lane's access has more to come, the load stays, with the bytes taken; after the last, it fills every register and queue entry that waits for
it with the value of the bytes, by size code, poisoned where a byte is, and is over; so does that of ULD. (Stated where no dirty byte inside
the load's point has to go to it first, the lines needed from home are not locked, the caches have room, no page bypasses the cluster
cache, and the pages of an access have one policy. A clean copy that the L1 holds for other regions only goes first: log entry 18.) Where
a check of R43 or R183 fails, LD is that fault. -/
def Obligations.Loads : Prop :=
  (∀ (x : BitVec 6) (a : BitVec 7) (m : BitVec 1) (z c : BitVec 3) (o : BitVec 2) (p : BitVec 3) (s : State) (j : Iss)
    (rs : List (Nat × Reach)),
    let n := if z = 7 then 16 else [1, 1, 2, 2, 4, 4, 8].getD z.toNat 0
    Executes s j { srcs := if m = 1 then [] else [a], dst := if z = 7 ∧ x ≠ 63 then [x, x + 1] else [x], cp := true,
                   opOk := z != 7 || x == 63 || (x.toNat % 2 == 0 && x != 62) } →
    let at' := fun (l : Nat) => j.laneAddress s (m == 1) a n l
    let as := (j.lanes.filter (fun l => !(at' l).2)).map (fun l => (l, (at' l).1))
    RefusesAccess (.ld x a m z c o p) s j c.toNat n .load (dscObj (m == 1) a) as ∧
    (j.checkAll s c.toNat n .load (dscObj (m == 1) a) as = .ok rs →
    j.mustWait s rs = false → s.forcedIn rs = false → j.migrating s rs = none →
    let gs := if rs = [] ∧ o = 1 then [(0, [])] else byPolicy (j.policy p.toNat) rs
    let entry := fun (l half : Nat) => match gs.findIdx? (fun g => g.2.any (fun r => r.1 == l)) with
      | none => ({} : RVal)
      | some k => { pend := some (2 * (s.serial + k) + half) }
    GoesWith (.ld x a m z c o p) s j
      (j.w.modLanes j.lanes (fun l y =>
        if z = 7 then j.w.result (if x = 63 then 63 else x + 1) (entry l 1) (j.w.result x (entry l 0) y)
        else j.w.result x (entry l 0) y))
      (fun t => t.mem = (j.touched s c.toNat false rs).mem ∧ ∃ q, t.ops = s.ops ++ q ∧ q.length = gs.length
        ∧ ∀ k g, gs[k]? = some g → ∃ op, q[k]? = some op ∧ op.id = s.serial + k ∧ op.warp = j.k ∧ op.kind = .load z.toNat
            ∧ op.scope = c.toNat ∧ op.order = o.toNat ∧ op.policy = g.1 ∧ op.done = false ∧ op.phase = 0
            ∧ op.point = (if g.1 = 4 then 2 else s.pointOf j.w c.toNat)
            ∧ op.parts = g.2.map (fun r => { lane := r.1, addrs := r.2.flats, unit := r.2.unit }))))
  ∧ (∀ (x : BitVec 6) (a : BitVec 7) (m : BitVec 1) (z c : BitVec 3) (o : BitVec 2) (p : BitVec 3),
      let ds := if z = 7 ∧ x ≠ 63 then [x, x + 1] else [x]
      let ok := z != 7 || x == 63 || (x.toNat % 2 == 0 && x != 62)
      RefusesOperands (.ld x a m z c o p) (fun _ _ => { srcs := if m = 1 then [] else [a], dst := ds, cp := true, opOk := ok }))
  ∧ (∀ (s : State) (id : Nat) (o : MemOp) (z : Nat) (w : Warp), s.opOf id = some o →
    o.kind = .load z ∨ (∃ d, o.kind = .uload d) ∧ z = 6 → z < 8 → o.policy ≠ 3 → o.apart = [] → s.opReady o = true →
    let s0 := s.claimed o.core o.region (linesOf o.now)
    s.pushFirst o (linesOf o.now) = none → (s0.needsHome o = true → ∀ l ∈ linesOf o.now, s.locked l = false) →
    Roomy s o.core (linesOf o.now).length → s.warp o.warp = some w → Alive s o.warp →
    let took := fun (p : Part) =>
      let as := (p.addrs.drop (o.phase * p.unit)).take p.unit
      ({ p with data := p.data ++ as.map (s0.view o.core o.point),
                bad := p.bad ++ ((List.range as.length).filter (fun k => s0.poisonAt o.core o.point (as.getD k 0))).map (fun k =>
                  o.phase * p.unit + k) } : Part)
    let bits := fun (bs : List Byte) => BitVec.ofNat 64 (natLE bs)
    let value := fun (p : Part) =>
      if z = 7 then [({ bits := bits (p.data.take 8), poison := p.bad.any (fun k => decide (k < 8)) } : RVal),
                     { bits := bits (p.data.drop 8), poison := p.bad.any (fun k => decide (8 ≤ k)) }]
      else if z = 1 ∨ z = 3 ∨ z = 5 then
        [{ bits := BitVec.ofInt 64 (signed (8 * p.data.length) (natLE p.data)), poison := p.bad != [] }]
      else [{ bits := bits p.data, poison := p.bad != [] }]
    ∃ t, exec (.loadReply id 0 false) s = .next t ∧ t.mem = s.mem
      ∧ ((∃ p ∈ o.parts, (o.phase + 1) * p.unit < p.addrs.length) → t.warps = s.warps
          ∧ t.opOf o.id = some { o with parts := o.parts.map took, phase := o.phase + 1 })
      ∧ ((∀ p ∈ o.parts, p.addrs.length ≤ (o.phase + 1) * p.unit) → t.opOf o.id = none
          ∧ t.warp o.warp = some (w.filled o.id (fun l => match (o.parts.map took).find? (fun p => p.lane == l) with
              | none => []
              | some p => value p))))

/-- R187, R188, R190, R212: a plain store completes, and the core sees at once the bytes of its first single-copy atomic access: the L1 holds
them, other bytes read as before through every cache of the core, and memory at home changes by the walks alone (scratch and other uncached
bytes are written there). Of the further accesses, one operation for each line follows. R180: of two lanes' bytes the higher lane's stay.
(Stated where no page is uncached, no earlier write of the warp to the lines is still to take effect, the caches have room, and the pages of
an access have one policy. A clean copy that the L1 holds for other regions only goes first: log entry 18.) R186, R190, R194, R329: a scoped or releasing store is posted:
nothing of its bytes is written yet. For each line that it writes, one operation follows with the pieces of its lanes, which takes effect at
the scope's point, or at home for an uncached page. Where a check of R43 or R183 fails, ST is that fault. -/
def Obligations.Stores : Prop :=
  (∀ (x a : BitVec 7) (m : BitVec 1) (z c : BitVec 3) (o : BitVec 2) (g : BitVec 3),
    let n := if z = 7 then 16 else [1, 1, 2, 2, 4, 4, 8].getD z.toNat 0
    let xs := if z = 7 then [x, x + 1] else [x]
    let use : Uses := { srcs := if m = 1 then [] else [a], also := [x], pair := xs.drop 1, guard := g, cp := true,
                        opOk := z != 7 || (decide (x.toNat < 62) && x.toNat % 2 == 0) }
    RefusesOperands (.st x a m z c o g) (fun _ _ => use)
    ∧ ∀ (s : State) (j : Iss) (rs : List (Nat × Reach)), Executes s j use →
    let at' := fun (l : Nat) => j.laneAddress s (m == 1) a n l
    let ls := j.lanes.filter (fun l => (g == 0 || (j.w.lane l).guards.getLsbD g.toNat) && !(at' l).2)
    let as := ls.map (fun l => (l, (at' l).1))
    (∀ l ∈ ls, ∀ r ∈ xs, (j.readSpec s none l r).pend = none ∧ (j.readSpec s none l r).poison = false) →
    RefusesAccess (.st x a m z c o g) s j c.toNat n .store (dscObj (m == 1) a) as
    ∧ (j.checkAll s c.toNat n .store (dscObj (m == 1) a) as = .ok rs →
    j.mustWait s rs = false → j.migrating s rs = none → (∀ r ∈ rs, r.2.apart (j.policy 0) = []) →
    let bytes := fun (l : Nat) => bytesLE (Nat.min n 8) (j.val s l x).toNat ++ (if z = 7 then bytesLE 8 (j.val s l (x + 1)).toNat else [])
    let part := fun (r : Nat × Reach) => ({ lane := r.1, addrs := r.2.flats, unit := r.2.unit, data := bytes r.1 } : Part)
    let s0 := j.touched s c.toNat true rs
    (c = 0 → o = 0 → (∀ r ∈ rs, policyOf (j.policy 0) r.2.vias ≠ 4) →
      let parts := (byPolicy (j.policy 0) rs).flatMap (fun q => q.2.map part)
      let steps := (pieces parts).map (fun ps => ps.map (Part.below parts))
      let now := steps.headD []
      let ps := now.flatMap (fun p => p.addrs.zip p.data)
      let later := (steps.drop 1).flatten
      let s1 := s0.claimed j.w.core (s.nodeOf j.w).region.rcb (linesOf (now.flatMap (fun p => p.addrs)))
      s.conflict j.k (linesOf (parts.flatMap (fun p => p.addrs))) = false → Roomy s0 j.w.core (linesOf (now.flatMap (fun p => p.addrs))).length →
      GoesWith (.st x a m z 0 0 g) s j j.w (fun t =>
        (∀ b, t.view j.w.core 0 b = lastOf ps b (s1.view j.w.core 0 b))
        ∧ (∀ b, t.peek b = if isCached b then s0.peek b else lastOf ps b (s0.peek b))
        ∧ (∀ b, isCached b = true → ∀ u, u ≠ j.w.core → t.view u 0 b = s1.view u 0 b)
        ∧ (∀ op ∈ s.ops, op ∈ t.ops) ∧ (later = [] → t.ops = s.ops)
        ∧ ∀ e ∈ splitLines later, ∃ op ∈ t.ops, op.warp = j.k ∧ op.kind = .store ∧ op.parts = e.2
            ∧ op.scope = 0 ∧ op.order = 0 ∧ op.point = 0 ∧ op.done = false))
    ∧ (c ≠ 0 ∨ o ≠ 0 → s.heldWrite j.k = false →
      GoesWith (.st x a m z c o g) s j j.w (fun t =>
        t.mem = s0.mem ∧ t.l1 = s0.l1 ∧ t.cc = s0.cc
        ∧ (∀ op ∈ s.ops, op ∈ t.ops)
        ∧ ∀ q ∈ byPolicy (j.policy 0) rs, ∀ e ∈ splitLines (q.2.map part),
            ∃ op ∈ t.ops, op.warp = j.k ∧ op.kind = .store ∧ op.parts = e.2 ∧ op.scope = c.toNat ∧ op.order = o.toNat
              ∧ op.done = false ∧ op.point = (if q.1 = 4 then 2 else s.pointOf j.w c.toNat)))))

/-- R191, R193, R194, R329: an atomic or a reduction whose addresses pass the checks and reach no poison completes: for each line that it
addresses, one operation is in flight with the pieces of the lanes whose guard is true and its function, to take effect at the scope's
point, or at home for an uncached page; memory and caches have not changed but by the walks. An atomic pushes, in those lanes alone, a
position that waits for the operation that holds the lane's piece; a reduction pushes nothing. Where a check of R43 or R183 fails, either
is that fault. R191: the value an atomic function writes, on the old value x, the operand y and, for CAS, the expected value e, at 32 or 64
bits. -/
def Obligations.Atomics : Prop :=
  (∀ (x : BitVec 6) (a : BitVec 7) (w : BitVec 1) (c : BitVec 3) (o : BitVec 2) (g : BitVec 3) (s : State) (j : Iss)
    (rs : List (Nat × Reach)),
    let v : BitVec 7 := x.setWidth 7
    let ls := j.lanes.filter (fun l => g == 0 || (j.w.lane l).guards.getLsbD g.toNat)
    let home := fun (r : Nat × Reach) => policyOf none r.2.vias == 4
    let issues := fun (i : Instr) (push : Bool) (aop : Nat) (wide : Bool) =>
      let cas := push && aop == 7
      let n := if wide then 8 else 4
      let use := fun (j : Iss) => ({ srcs := if cas then [a, v, v + 1] else [a, v], guard := g, legal := j.himm == [],
                                     opOk := !cas || (x.toNat % 2 == 0 && decide (x.toNat < 62)) } : Uses)
      let access : AccKind := .rmw (push && c == 6 && (aop == 0 || aop == 6 || aop == 7))
      let as := ls.map (fun l => (l, j.val s l a))
      RefusesOperands i (fun _ => use)
      ∧ (Executes s j (use j) → RefusesAccess i s j c.toNat n access (0, 0) as)
      ∧ (Executes s j (use j) → j.checkAll s c.toNat n access (0, 0) as = .ok rs →
      j.mustWait s rs = false → s.heldWrite j.k = false → j.migrating s rs = none →
      (∀ r ∈ rs, s.operandBad j.w.core (if home r then 2 else s.pointOf j.w c.toNat) r.2.flats = false) →
      let parts := fun (rs : List (Nat × Reach)) => rs.map (fun r =>
        ({ lane := r.1, va := j.val s r.1 a, addrs := r.2.flats, data := bytesLE n (j.val s r.1 v).toNat } : Part))
      let kind : OpKind := if push then .atom aop wide else .red aop wide
      let s0 := j.touched s c.toNat true rs
      ∃ of : Nat → Nat, GoesWith i s j
        (if push then j.w.modLanes ls (fun l y => { y with queue := { pend := some (2 * of l) } :: y.queue.take 15 }) else j.w)
        (fun t => t.mem = s0.mem ∧ t.l1 = s0.l1 ∧ t.cc = s0.cc ∧ (∀ op ∈ s.ops, op ∈ t.ops)
          ∧ (∀ h : Bool, ∀ e ∈ splitLines (parts (rs.filter (fun r => home r == h))),
              ∃ op ∈ t.ops, op.warp = j.k ∧ op.kind = kind ∧ op.parts = e.2 ∧ op.scope = c.toNat ∧ op.order = o.toNat
                ∧ op.point = (if h then 2 else s.pointOf j.w c.toNat) ∧ op.done = false)
          ∧ (push = true → ∀ l ∈ ls, ∃ op ∈ t.ops, op.id = of l ∧ op.warp = j.k ∧ op.kind = kind
              ∧ ∃ p ∈ op.parts, p.lane = l)))
    issues (.atomAdd x a w c o g) true 0 (w == 1) ∧ issues (.atomMin x a w c o g) true 1 (w == 1)
    ∧ issues (.atomMax x a w c o g) true 2 (w == 1) ∧ issues (.atomAnd x a w c o g) true 3 (w == 1)
    ∧ issues (.atomOr x a w c o g) true 4 (w == 1) ∧ issues (.atomXor x a w c o g) true 5 (w == 1)
    ∧ issues (.atomExch x a w c o g) true 6 (w == 1) ∧ issues (.atomCas x a w c o g) true 7 (w == 1)
    ∧ issues (.atomFadd x a w c o g) true 8 (w == 1)
    ∧ issues (.redAdd x a w c o g) false 0 (w == 1) ∧ issues (.redMax x a w c o g) false 2 (w == 1)
    ∧ issues (.redFadd x a w c o g) false 8 (w == 1) ∧ issues (.redFadd2 x a c o g) false 9 false)
  ∧ (∀ (wide : Bool) (x y e : Word),
    let n := if wide then 64 else 32
    let low := fun (v : Word) => v.toNat % 2 ^ n
    let at' := fun (v : Nat) => BitVec.ofNat 64 (v % 2 ^ n)
    rmwNew 0 wide x y e = some (at' (low x + low y))
    ∧ rmwNew 1 wide x y e = some (at' (if signed n (low x) < signed n (low y) then low x else low y))
    ∧ rmwNew 2 wide x y e = some (at' (if signed n (low x) > signed n (low y) then low x else low y))
    ∧ rmwNew 3 wide x y e = some (at' (low x &&& low y))
    ∧ rmwNew 4 wide x y e = some (at' (low x ||| low y))
    ∧ rmwNew 5 wide x y e = some (at' (low x ^^^ low y))
    ∧ rmwNew 6 wide x y e = some y
    ∧ rmwNew 7 wide x y e = (if x = e then some y else none)
    ∧ rmwNew 8 wide x y e = some (BitVec.ofNat 64 (opAdd (if wide then fp64 else fp32) .rne (low x) (low y)).bits)
    ∧ rmwNew 9 false x y e = some (BitVec.ofNat 64
        ((opAdd bf16 .rne (half 0 x) (half 0 y)).bits + (opAdd bf16 .rne (half 1 x) (half 1 y)).bits * 2 ^ 16)))

/-- R187, R190 to R192, R194: a write that is due takes effect at its point, at home by a home request and short of it by a line push. A
store leaves its bytes there for every core that sees that point, and its acknowledgement has the line's new tag; an atomic or reduction of
one lane reads the old value, writes the function's value, and keeps the old one for the reply. Other lines keep every byte at every point.
(Stated where no cache of the core holds a dirty byte of the line, which would go outward first, and the caches have room. A clean copy that
they hold for other regions only goes first: log entry 18.) R191, R194: an
atomic that has taken effect returns its old values to the entries that wait for them, sign-extended from 32 bits but for FADD; then, as of
any write that is done, its acknowledgements arrive one by one: ACKSEQ takes the tag of each that has one, and with the last the operation is
over. -/
def Obligations.WritesTakeEffect : Prop :=
  (∀ (s : State) (id line : Nat) (o : MemOp), s.opOf id = some o → s.opReady o = true → o.lines = [line] → s.locked line = false →
    s.lostAt (line * 128) = false → s.dirtyBytes true o.core line = [] → s.dirtyBytes false (o.core / 16) line = [] → o.point ≤ 2 →
    Roomy s o.core 1 →
    let i := if o.atHome then Instr.homeRequest id else .linePush id
    let s0 := s.claimed o.core o.region (o.lines.filter (fun l => isCached (l * 128)))
    let calm := fun (t : State) => (∀ c p b, b / 128 ≠ line → t.view c p b = s.view c p b)
      ∧ (homedHere (line * 128) = true → t.tagOf line = s.tagOf line + (if o.atHome then 1 else 0))
    (o.kind = .store → o.parts.flatMap (fun p => p.addrs.zip p.data) ≠ [] → ∃ t, exec i s = .next t ∧ calm t
      ∧ (∀ b, b / 128 = line → t.view o.core o.point b = lastOf (o.parts.flatMap (fun p => p.addrs.zip p.data)) b (s0.view o.core o.point b))
      ∧ ∃ u, t.opOf id = some u ∧ u.done = true ∧ u.acks.length = 1
          ∧ (homedHere (line * 128) = true → 4 ≤ o.scope → u.acks = [some (t.tagOf line)]))
    ∧ (∀ aop wide p, o.kind = .atom aop wide ∨ o.kind = .red aop wide → o.parts = [p] → p.addrs.Nodup →
        p.addrs.length = (if wide then 8 else 4) → (∀ b ∈ p.addrs, s0.poisonAt o.core o.point b = false) →
        let old := p.addrs.map (s0.view o.core o.point)
        ∃ t u, exec i s = .next t ∧ t.opOf id = some u ∧ u.done = true ∧ u.acks.length = 1
          ∧ (o.kind = .atom aop wide → u.parts = [{ p with data := old, taken := true }])
          ∧ match rmwNew aop wide (BitVec.ofNat 64 (natLE old)) (BitVec.ofNat 64 (natLE p.data)) (mgetD o.expect p.lane 0) with
            | none => ∀ c q b, t.view c q b = s0.view c q b
            | some v => calm t ∧ p.addrs.map (t.view o.core o.point) = bytesLE (if wide then 8 else 4) v.toNat
                ∧ ∀ b, b ∉ p.addrs → t.view o.core o.point b = s0.view o.core o.point b))
  ∧ (∀ (s : State) (id : Nat) (o : MemOp) (w : Warp), s.opOf id = some o → s.warp o.warp = some w → Alive s o.warp → o.done = true →
    (∀ aop wide, o.kind = .atom aop wide → (∃ p ∈ o.parts, p.taken = true) →
      ∃ t, exec (.loadReply id 0 false) s = .next t ∧ t.mem = s.mem
        ∧ t.warp o.warp = some (w.filled o.id (fun l => match o.parts.find? (fun p => p.lane == l) with
            | none => []
            | some p => [{ bits := if wide ∨ aop = 8 then BitVec.ofNat 64 (natLE p.data)
                                   else BitVec.ofInt 64 (signed 32 (natLE p.data % 2 ^ 32)), poison := p.bad != [] }])))
    ∧ ((o.kind = .store ∨ (∃ a b, o.kind = .red a b) ∨ (∃ a b, o.kind = .push a b)
          ∨ (∃ a b, o.kind = .atom a b) ∧ ∀ p ∈ o.parts, p.taken = false) →
        (o.atHome = true → ∀ l ∈ o.lines, s.locked l = false) →
        ∃ t v, exec (.acknowledgement id) s = .next t ∧ t.mem = s.mem ∧ t.warp o.warp = some v
          ∧ v = { w with ackseq := (o.acks.headD none).getD w.ackseq }
          ∧ (o.acks.length ≤ 1 → t.opOf id = none ∧ ∀ u ∈ t.ops, id ∉ u.after)
          ∧ (1 < o.acks.length → t.opOf id = some { o with acks := o.acks.drop 1 } ∧ ∀ u ∈ s.ops, u.id ≠ id → u ∈ t.ops)))

/-- R195, R196, R213, R218: FENCE and FENCE.R (of a core below 512) start, and their lanes wait: a fence with a release part follows what the warp has
in flight, and, where that is nothing, the pushes of the lines that the release names (which those are, and when they are pushed, is log entry
18); FENCE.R follows also the drain of the victim core. (A fence with a release part waits to start while a write of the warp is held for a
migrating page.) When nothing is left that it follows, it is over, and its lanes go on. A drain moves the dirty bytes that the victim's L1 holds
for the region to its cluster cache, leaves no clean byte of the region in that L1 (at die and device scope it leaves lines that are homed
elsewhere, R360), and the fence follows the victim's own writes in its place (log entry 18). R197: CWB completes, and pushes the named cached
lines to the scope's point, those homed elsewhere at system scope alone (log entry 16); CINV completes once no named line is locked at home: dirty
bytes go outward, and no clean byte of a named line stays in the core's L1, nor, from cluster scope on, in its cluster cache; PREF completes and
brings the lines in as their page's policy lets it, and drops lanes that would fault. None of them changes another line. (Stated where the caches
have room.) -/
def Obligations.FencesAndCaches : Prop :=
  ((∀ (c : BitVec 3) (o : BitVec 2) (s : State) (j : Iss), Executes s j {} → (2 ≤ o.toNat → s.heldWrite j.k = false) →
    let rcb := (s.nodeOf j.w).region.rcb
    let point := s.pointOf j.w c.toNat
    ∃ n, WaitsWith (.fence c o) s j (fun _ => .fence n) (fun t => t.mem = s.mem ∧ (∀ op ∈ s.ops, op ∈ t.ops)
      ∧ ∃ f ∈ t.ops, f.id = n ∧ f.kind = .fence ∧ f.scope = c.toNat ∧ f.order = o.toNat
        ∧ (2 ≤ o.toNat → (∀ op ∈ s.ops, op.warp = j.k → op.id ∈ f.after)
            ∧ ((∀ op ∈ s.ops, op.warp ≠ j.k) → ∀ l ∈ s.releaseLines j.w.core rcb point c.toNat,
                ∃ d ∈ t.ops, d.kind = .push (point == 2) false ∧ d.lines = [l] ∧ d.id ∈ f.after))))
  ∧ (∀ (a : BitVec 7) (c : BitVec 3) (o : BitVec 2) (s : State) (j : Iss), Executes s j { uni := [a] } →
      ((j.uval s a).toNat < 512 → (2 ≤ o.toNat → s.heldWrite j.k = false) →
        ∃ n, WaitsWith (.fenceR a c o) s j (fun _ => .fence n) (fun t => t.mem = s.mem
        ∧ (∀ op ∈ s.ops, op ∈ t.ops) ∧ ∃ d ∈ t.ops, d.kind = .drain (j.uval s a).toNat ∧ d.warp = j.k
          ∧ ∃ f ∈ t.ops, f.id = n ∧ f.kind = .fence ∧ d.id ∈ f.after))
      ∧ (512 ≤ (j.uval s a).toNat → exec (.fenceR a c o) s = .next (j.fault s { cls := 0x02, addr := j.word s, lanes := j.lanes })))
  ∧ (∀ (s : State) (id l : Nat) (o : MemOp) (w : Warp), s.opOf id = some o → o.kind = .fence → o.after = [] → s.warp o.warp = some w →
      Alive s o.warp → l < 32 → (w.lane l).live = true → (w.lane l).park = .fence o.id →
      (∀ m, m ≠ l → (w.lane m).park ≠ .fence o.id) →
      ∃ t, exec (.acknowledgement id) s = .next (State.settle t o.warp) ∧ t.opOf id = none
        ∧ GoesOn { s with l1 := t.l1, cc := t.cc, ops := t.ops } t o.warp l)
  ∧ (∀ (s : State) (id v : Nat) (o : MemOp), s.opOf id = some o → o.kind = .drain v →
      (s.cache false (v / 16)).length + (s.cache true v).length ≤ ccLines →
      let acts := fun (x : Line) => x.isOf o.region = true ∧ (o.scope ≠ 4 ∧ o.scope ≠ 5 ∨ homedHere (x.idx * 128) = true)
      ∃ t, exec (.fenceRDrain id) s = .next t ∧ t.opOf id = none ∧ t.mem = s.mem ∧ t.warps = s.warps
        ∧ (∀ line x, lineGet (s.cache true v) line = some x → acts x →
            ∀ b ∈ s.dirtyBytes true v line, t.cachedByte false (v / 16) b.1 = some b.2)
        ∧ (∀ x ∈ t.cache true v, acts x → x.valid = x.dirty)
        ∧ ∀ u ∈ s.ops, u.id ≠ id → id ∈ u.after → ∃ f ∈ t.ops, f.id = u.id
            ∧ ∀ p ∈ s.ops, p.core = v → p.region = o.region → p.isWrite = true → p.done = true ∨ p.after = [] → p.id ∈ f.after)
  ∧ (∀ (a : BitVec 7) (c : BitVec 3) (s : State) (j : Iss),
    let near := j.w.core / 16
    let point := s.pointOf j.w c.toNat
    (∀ f : Nat → Option Nat, Executes s j { srcs := [a] } → (∀ l ∈ j.lanes, j.lineAddress s l (j.val s l a) = .ok (f l)) →
      let lines := linesOf (j.lanes.filterMap f)
      j.acquiring s = false → s.conflict j.k lines = false →
      GoesWith (.cwb a c) s j j.w (fun t => t.mem = s.mem ∧ t.l1 = s.l1 ∧ t.cc = s.cc ∧ (∀ op ∈ s.ops, op ∈ t.ops)
        ∧ (point ≠ 0 → ∀ l ∈ lines, point ≠ 2 ∨ c = 6 ∨ homedHere (l * 128) = true →
            ∃ op ∈ t.ops, op.warp = j.k ∧ op.kind = .push (point == 2) true ∧ op.lines = [l]))
      ∧ ((3 ≤ c.toNat → ∀ l ∈ lines, s.locked l = false) → (∀ l ∈ lines, s.lostAt (l * 128) = false) →
          (s.cache false near).length + lines.length ≤ ccLines →
          GoesWith (.cinv a c) s j j.w (fun t =>
            (∀ u p b, b / 128 ∉ lines → t.view u p b = s.view u p b)
            ∧ (∀ x ∈ t.cache true j.w.core, x.idx ∈ lines → x.valid = x.dirty)
            ∧ (3 ≤ c.toNat → (∀ x ∈ t.cache false near, x.idx ∈ lines → x.valid = x.dirty)
                ∧ ∀ l ∈ lines, ∀ b ∈ s.dirtyBytes true j.w.core l, t.peek b.1 = b.2)
            ∧ (c.toNat < 3 → t.mem = s.mem
                ∧ ∀ l ∈ lines, ∀ b ∈ s.dirtyBytes true j.w.core l, t.cachedByte false near b.1 = some b.2))))
    ∧ (Executes s j { srcs := [a], cp := true } →
        let rs := j.lanes.filterMap (fun l => match j.reach s 0 l (j.val s l a) 1 .load with
          | .ok r => if r.mig then none else some (l, r)
          | .error _ => none)
        let kept := ((byPolicy (j.policy 0) rs).filter (fun g => g.1 != 3 && g.1 != 4)).flatMap Prod.snd
        let lines := ((kept.flatMap (fun r => linesOf r.2.flats)).filter (fun l => isCached (l * 128) && !s.lostAt (l * 128))).eraseDups
        let s0 := j.touched s 0 false rs
        let s1 := s0.claimed j.w.core (s.nodeOf j.w).region.rcb lines
        (∀ l ∈ lines, s.locked l = false) → Roomy s0 j.w.core lines.length →
        GoesWith (.pref a c) s j j.w (fun t => t.mem = s0.mem ∧ t.ops = s.ops
          ∧ (∀ l ∈ lines, ∀ b, b / 128 = l → s0.isPoison b = false →
              (t.cachedByte false near b).isSome = true ∧ (c = 0 → (t.cachedByte true j.w.core b).isSome = true))
          ∧ (∀ u l, u ≠ j.w.core ∨ l ∉ lines → lineGet (t.cache true u) l = lineGet (s0.cache true u) l)
          ∧ (∀ u l, u ≠ near ∨ l ∉ lines → lineGet (t.cache false u) l = lineGet (s0.cache false u) l)
          ∧ ∀ u p b, t.view u p b = s1.view u p b))))

/-- R198: ULDA and ULDK at an offset that is a multiple of 8 within the argument block or the constant segment complete: the uniform register takes
the doubleword there, bytes past the end as 0, poisoned where a byte is. An offset that is no multiple of 8 is a misaligned fault, one past the
bound a protection fault; that a negative multiple of 8 is a protection fault too is the model's choice (log entry 13). ULD loads a doubleword on
behalf of the lowest lane, and the register waits for it; an offset outside the address space is a translation fault. -/
def Obligations.UniformLoads : Prop :=
  ∀ (q : BitVec 1) (d : BitVec 5) (a : BitVec 7) (o : BitVec 10) (s : State) (j : Iss),
    let block := fun (i : Instr) (base size bound : Nat) =>
      Executes s j { uni := [a], imm := some o } →
      let off := j.uloadOffset s a o
      (∀ r, off % 8 = 0 → 0 ≤ off → off + 8 ≤ bound → reachGlobal s (j.who s 0) (base + off.toNat) 8 .load = .ok r →
        j.migrating s [(0, r)] = none →
        let held := r.flats.take (size - off.toNat)
        let s0 := j.touched s 0 false [(0, r)]
        let read : RVal := { bits := BitVec.ofNat 64 (natLE (held.map (s0.view j.w.core 2))), poison := held.any (s0.poisonAt j.w.core 2) }
        GoesWith i s j { j.w with s := mput {} j.w.s d.toNat read }
          (fun t => t.mem = s0.mem))
      ∧ (off % 8 ≠ 0 → exec i s = .next (j.fault s { cls := 0x03, addr := BitVec.ofInt 64 (base + off), lanes := j.lanes }))
      ∧ (off % 8 = 0 → off < 0 ∨ (bound : Int) < off + 8 →
          exec i s = .next (j.fault s { cls := 0x05, addr := BitVec.ofInt 64 (base + off), lanes := j.lanes }))
    let kn := (s.nodeOf j.w).kernel
    block (.ulda q d a o) (s.nodeOf j.w).argCopy kn.args kn.args
    ∧ block (.uldk q d a o) kn.constVa kn.constSize ((kn.constSize + 7) / 8 * 8)
    ∧ (Executes s j { uni := [a], imm := some o, cp := true } →
      (∀ r, j.reach s 0 (j.lanes.headD 0) (BitVec.ofInt 64 (j.uloadOffset s a o)) 8 .load = .ok r →
        0 ≤ j.uloadOffset s a o → j.uloadOffset s a o < 2 ^ 56 →
        j.mustWait s [(j.lanes.headD 0, r)] = false → s.forcedIn [(j.lanes.headD 0, r)] = false →
        j.migrating s [(j.lanes.headD 0, r)] = none →
        GoesWith (.uld d a o) s j { j.w with s := mput {} j.w.s d.toNat { pend := some (2 * s.serial) } } (fun t =>
          t.mem = (j.touched s 0 false [(j.lanes.headD 0, r)]).mem
          ∧ ∃ op, t.ops = s.ops ++ [op] ∧ op.id = s.serial ∧ op.warp = j.k ∧ op.kind = .uload d.toNat ∧ op.done = false
              ∧ op.parts = [{ lane := 32, addrs := r.flats, unit := r.unit }]))
      ∧ (j.uloadOffset s a o < 0 ∨ 2 ^ 56 ≤ j.uloadOffset s a o → exec (.uld d a o) s
            = .next (j.fault s { cls := 0x04, addr := BitVec.ofInt 64 (j.uloadOffset s a o), lanes := j.lanes })))

/-- R27, R199: ADSET writes the named fields of one address descriptor from uniform operands, and nothing else. R26, R150, R151: THSET
writes the named fields of one tile handle from uniform operands, and nothing else. -/
def Obligations.DescriptorsAndHandles : Prop :=
  (∀ (k : BitVec 4) (a b : BitVec 7),
    let sets := fun (i : Instr) (srcs : List (BitVec 7)) (f : (BitVec 7 → Nat) → List (Nat × Nat × Nat)) =>
      Completes i (fun _ _ => { uni := srcs }) (fun s j =>
        { j.w with d := mput 0 j.w.d k.toNat (withFields (mgetD j.w.d k.toNat 0) (f (fun x => (j.uval s x).toNat))) })
    sets (.adbase k a b) [a, b] (fun v => [(0, 56, v a), (224, 32, v b), (57, 1, v b / 2 ^ 32)])
    ∧ sets (.adcoef k a b) [a, b] (fun v => [(96, 32, v a), (128, 32, v a / 2 ^ 32), (160, 32, v b), (192, 32, v b / 2 ^ 32)])
    ∧ sets (.adlim k a) [a] (fun v => [(64, 32, v a)])
    ∧ sets (.adstg k a) [a] (fun v => [(61, 2, v a), (58, 3, v a / 4), (63, 1, v a / 32)]))
  ∧ (∀ (k : BitVec 4) (a b : BitVec 7),
    let sets := fun (i : Instr) (srcs : List (BitVec 7)) (f : (BitVec 7 → Nat) → List (Nat × Nat × Nat)) =>
      Completes i (fun _ _ => { uni := srcs }) (fun s j =>
        { j.w with t := mput 0 j.w.t k.toNat (withFields (mgetD j.w.t k.toNat 0) (f (fun x => (j.uval s x).toNat))) })
    sets (.thbase k a b) [a, b] (fun v => [(0, 40, v a), (88, 24, v b)])
    ∧ sets (.thshape k a b) [a, b] (fun v => [(40, 10, v a), (86, 1, v a / 1024), (50, 10, v b), (87, 1, v b / 1024)])
    ∧ sets (.thfmt k a b) [a, b] (fun v => [(60, 4, v a), (64, 22, v b)])
    ∧ sets (.thmc k a) [a] (fun v => [(112, 16, v a)]))

/-- R212, R214, R256: an invalidation on its way to a cluster is applied: no clean byte of the line stays in the cluster's caches, and lanes of cores
that hold the line and watch it wake; memory and other lines are untouched. An eviction moves the dirty bytes of a line outward and leaves no
clean byte of it (stated where the cluster cache has room for the line); that of a directory's entry sends invalidations of the region's lines to
every cluster that may hold one. R173, R218, R330: a walk that succeeds sets A of its entry, and D for a write, in memory (stated where no page is
seen migrating); a scratch page that a resumed workgroup lacks comes back from its save area byte by byte once an access has touched it, and not
before; of the accesses that a cluster's held queue holds, the oldest whose page is no longer migrating is made again, one at a time. -/
def Obligations.LinesAndPages : Prop :=
  (∀ (s : State) (cluster unit line : Nat),
    (s.invs.elem (cluster, line) = true → ∃ t, exec (.invalidation cluster line) s = .next t ∧ t.mem = s.mem
      ∧ t.invs = s.invs.erase (cluster, line)
      ∧ (∀ x ∈ t.cache false cluster, x.idx = line → x.valid = x.dirty)
      ∧ (∀ c, c / 16 = cluster → ∀ x ∈ t.cache true c, x.idx = line → x.valid = x.dirty)
      ∧ (∀ c p b, b / 128 ≠ line → t.view c p b = s.view c p b)
      ∧ (∀ k w l since, s.warp k = some w → w.core / 16 = cluster → s.coreHolds w.core line = true →
          (w.lane l).park = .watch (some line) since false → ∃ v, t.warp k = some v ∧ (v.lane l).park = .watch (some line) since true))
    ∧ (s.invs.elem (cluster, line) = false → exec (.invalidation cluster line) s = .next s)
    ∧ ((s.cache false (unit / 16)).length + 1 ≤ ccLines → ∃ t, exec (.eviction 0 unit line) s = .next t ∧ t.mem = s.mem
        ∧ (∀ x ∈ t.cache true unit, x.idx = line → x.valid = x.dirty)
        ∧ (∀ b ∈ s.dirtyBytes true unit line, t.cachedByte false (unit / 16) b.1 = some b.2)
        ∧ (∀ c p b, b / 128 ≠ line → t.view c p b = s.view c p b))
    ∧ (s.locked line = false → s.lostAt (line * 128) = false → ∃ t, exec (.eviction 1 unit line) s = .next t
        ∧ (∀ x ∈ t.cache false unit, x.idx = line → x.valid = x.dirty)
        ∧ (∀ b ∈ s.dirtyBytes false unit line, t.peek b.1 = b.2)
        ∧ (∀ c p b, b / 128 ≠ line → t.view c p b = s.view c p b))
    ∧ (s.locked line = true → exec (.eviction 1 unit line) s = .next s)
    ∧ (homedHere (line * 128) = true → homeDie (line / 4) = unit → ∃ t, exec (.eviction 2 unit line) s = .next t
        ∧ { t with dir := s.dir, invs := s.invs } = s ∧ mgetD t.dir (line / 4) 0 = 0
        ∧ (∀ e ∈ s.invs, e ∈ t.invs) ∧ ∀ k, k < 4 → ∀ c ∈ s.sharers (4 * (line / 4) + k), (c, 4 * (line / 4) + k) ∈ t.invs)
    ∧ (homedHere (line * 128) = false ∨ homeDie (line / 4) ≠ unit → exec (.eviction 2 unit line) s = .next s))
  ∧ ((∀ (s : State) (cluster pasid va ea : Nat) (wr : Bool) (l : Leaf), walk s (cluster / 8) pasid va = .ok l → l.addr = some ea →
    (wr = true → l.entry.getLsbD 2 = true) → ea + 8 ≤ deviceBytes → s.migrating = [] →
    let e := l.entry ||| (if wr then 0x60#64 else 0x20#64)
    ∃ t, exec (.pageWalk cluster pasid va wr) s = .next t ∧ (e ≠ l.entry → ∀ k, k < 8 → t.peek (ea + k) = e.extractLsb' (8 * k) 8)
      ∧ (e = l.entry → t.mem = s.mem) ∧ (∀ b, b < ea ∨ ea + 8 ≤ b → t.peek b = s.peek b))
  ∧ (∀ (s : State) (g core page : Nat), g < 2 ^ 20 → page < 2 ^ 17 → core < 512 →
      let due := (s.wg g).absent.elem (core, page) = true ∧ (s.wg g).touched.elem (core, page) = true ∧ (s.wg g).present = true
      (¬ due → exec (.scratchRefill g core page) s = .next s)
      ∧ (due →
      let at' := (s.wg g).scratchAt + 4096 * ((s.wg g).pageList.takeWhile (fun e => e != (core, page))).length
      ∃ t, exec (.scratchRefill g core page) s = .next t ∧ (t.wg g).absent = (s.wg g).absent.filter (fun e => e != (core, page))
        ∧ ∀ k, k < 4096 → t.peek (scratchFlat g (core * 2 ^ 31 + page * 4096) + k) = s.peek (at' + k)))
  ∧ (∀ (s : State) (cluster : Nat),
      let q := s.heldMig.filter (fun h => h.cluster == cluster)
      ((∀ h ∈ q, s.stillHeld h = true) ∨ (∃ h ∈ q, h.go = true) → exec (.migrationReplay cluster) s = .next s)
      ∧ ∀ h, q.find? (fun h => !s.stillHeld h) = some h → (∀ x ∈ q, x.go = false) →
        ∃ t, exec (.migrationReplay cluster) s = .next t ∧ t.mem = s.mem ∧ t.ops = s.ops
          ∧ t.heldMig = s.heldMig.map (fun x => if x = h then { x with go := true } else x)
          ∧ (h.engine = false → ∀ w, s.warp h.key = some w → ∃ v, t.warp h.key = some v ∧ SameWarp w v
              ∧ ∀ l, l < 32 → v.lane l = if (w.lane l).park = .migrating h.id then { w.lane l with park := .no } else w.lane l)))

/-! ### Tiles, claims and the matrix unit -/

/-- R134, R153 to R156: MACQ for 1 to 8 banks on 1 to 4 members, of a warp that holds no claim, waits in the claim queue of its Bench, or as a gang
claim of its cluster, which joins the claim queue of every member once none stands before it; other counts, or a claim held, are a bank-claim
fault, and other bits of the word an illegal operand. A grant takes the banks at the head of the free ring when enough are free, and with the last
member's grant the claim stands and its lanes go on; before, nothing happens, nor while the warp's workgroup is being saved or flushed (R383). A
resumed warp takes as many banks as it held. MREL returns the owned banks to the tail of the ring and ends the claim. -/
def Obligations.Claims : Prop :=
  (∀ (e : BitVec 5) (s : State) (j m : Iss),
    let a : BitVec 7 := 0x50#7 + e.setWidth 7
    Meets s j m 0 (fun _ i => { uni := [a], legal := i.himm == [] }) →
    let v := (m.uval s a).toNat
    let n := v % 16
    let g := v / 256 % 8
    let near := m.w.core / 4
    let parked := s.setWarp j.k (j.parkAt 0)
    (v < 2 ^ 11 → v / 16 % 16 = 0 → 1 ≤ n → n ≤ 8 → 1 ≤ g → g ≤ 4 → m.w.claim.count = 0 →
      ∃ t w, exec (.macq e) s = .next (State.settle t j.k) ∧ t.warp j.k = some w ∧ t.mem = s.mem ∧ (∀ x, x ≠ j.k → t.warp x = s.warp x)
        ∧ SameWarp { m.w with wants := some (n, g), claim := { gang := g, bench := near, banks := List.replicate g [] } } w
        ∧ (∀ l, w.lane l = if l ∈ m.lanes then { m.w.lane l with park := .claim, age := 0, blocked := 0 } else m.w.lane l)
        ∧ (g = 1 → (t.bench near).waiting = (s.bench near).waiting ++ [j.k])
        ∧ (g ≠ 1 → t.gangClaims = s.gangClaims ++ [(m.w.core / 16, j.k)]
            ∧ ((∀ x ∈ s.gangClaims, x.1 ≠ m.w.core / 16) → ∀ q < g, j.k ∈ (t.bench (memberOf near q)).waiting)))
    ∧ (v < 2 ^ 11 → v / 16 % 16 = 0 → n = 0 ∨ 8 < n ∨ g = 0 ∨ 4 < g ∨ m.w.claim.count ≠ 0 →
        exec (.macq e) s = .next ((m.fault parked { cls := 0x0C, addr := BitVec.ofNat 64 v, lanes := m.lanes }).settle j.k))
    ∧ (2 ^ 11 ≤ v ∨ v / 16 % 16 ≠ 0 → exec (.macq e) s
        = .next ((m.fault parked { cls := 0x02, addr := m.word parked, lanes := m.lanes, kind := 7, idx := e.toNat }).settle j.k)))
  ∧ (∀ (s : State) (bench k : Nat) (rest : List Nat) (w : Warp), (s.bench bench).waiting = k :: rest → s.warp k = some w →
      (∀ n, w.wants = some (n, 1) → w.claim.banks.length = 1 → w.claim.bench % 4 = bench % 4 → n ≠ 0 →
        ((s.bench bench).ring.length < n → exec (.macqGrant bench) s = .next s)
        ∧ ((s.wg w.wg).quiescing = true → exec (.macqGrant bench) s = .next s)
        ∧ (n ≤ (s.bench bench).ring.length → (s.wg w.wg).quiescing = false →
            ∃ t v, exec (.macqGrant bench) s = .next (State.settle t k) ∧ t.warp k = some v ∧ v.wants = none
              ∧ v.claim.count = n ∧ v.claim.banks = [(s.bench bench).ring.take n] ∧ v.claim.gone = w.claim.gone
              ∧ (t.bench bench).ring = (s.bench bench).ring.drop n
              ∧ (w.depth = 0 → (s.code w).jig = none → ∀ l, (w.lane l).live = true → (w.lane l).park = .claim → (w.lane l).rpc = none →
                  l < 32 → v.lane l = landed ((w.lane l).pc + 4) (w.lane l))))
      ∧ (∀ x a, w.wants = none → w.reclaim.find? (fun e => memberOf w.claim.bench e.1 == bench) = some (x, a) →
          ((s.bench bench).ring.length < w.claim.kept.length → exec (.macqGrant bench) s = .next s)
          ∧ (w.claim.kept.length ≤ (s.bench bench).ring.length →
              ∃ t v, exec (.macqGrant bench) s = .next t ∧ t.warp k = some v ∧ v.reclaim = w.reclaim.filter (fun e => e.1 != x)
                ∧ v.claim.count = w.claim.count ∧ v.claim.gone = w.claim.gone
                ∧ (s.arrays = [] → (t.bench bench).ring = (s.bench bench).ring.drop w.claim.kept.length))))
  ∧ (∀ (s : State) (j m : Iss), Meets s j m 0 usesNothing →
      (m.w.claim.count = 0 → exec .mrel s
        = .next (((m.fault (s.setWarp j.k (j.parkAt 0)) { cls := 0x0C, lanes := m.lanes })).settle j.k))
      ∧ (m.w.claim.count ≠ 0 → GoesWith .mrel s m { m.w with claim := {}, wants := none, reclaim := [] } (fun t => t.mem = s.mem
          ∧ (m.w.claim.gang = 1 → m.w.reclaim = [] → s.arrays = [] → (t.bench m.w.claim.bench).ring = (s.bench m.w.claim.bench).ring
              ++ ((List.range m.w.claim.count).filter (fun b => !m.w.claim.gone.getLsbD b)).map
                  (fun b => (m.w.claim.banks.getD 0 []).getD b 0)))))

/-- R138, R148, R158, R159: MWL and MMS whose checks pass, with room in the warp's queue, enter it, and take the next number on the matrix timeline.
MWL latches its handle for the warp; MMS names the claim's banks and sets their family. R160, R161, R164, R166: of an owned bank whose earlier
array operations are complete, MZERO makes every element 0, MRD reads the element its index names in each lane, and MWR writes one in each lane,
the highest lane last; while some are not, MZERO and MWR complete too and their writes wait for their turn, and MRD is held (what waits where: log
entry 28). MZERO and MWR leave the bank's family unset. R364: a bank not owned is a bank fault of the set, with ADDR 0 for MZERO and the flat
index of the lowest lane for MRD and MWR; a flat index outside the bank, from 36864 times the gang on, is a bank fault of the lanes that have one,
with the index of the lowest of them as ADDR. R162, R163: MEPI whose parameters and checks are legal hands one bank to the Planers: the drain
waits with the bank's operations and the warp's accesses before it, takes the next number on the matrix timeline, and the warp owns the bank no
more; with the last bank the claim ends. -/
def Obligations.ArraysIssue : Prop :=
  (∀ (k : BitVec 4) (b : BitVec 3) (z : BitVec 1) (s : State) (j m : Iss) (slot : Option Nat), Meets s j m 0 usesNothing →
    (mget s.wgs m.w.wg).isSome = true →
    let h := m.w.handle k.toNat
    let c := m.w.claim
    let gang := (thCols h + 191) / 192
    let room := s.queuedOf m.k (m.w.core / 4) < 4 ∧ m.orderWaits s = false
    let queued := fun (t : State) (op : ArrayOp) => t.mem = s.mem ∧ t.arrays = s.arrays ++ [op] ∧ op.warp = m.k ∧ op.running = false ∧ op.imm = none
      ∧ op.tlnum = ((s.wg m.w.wg).tl 1).issued + 1 ∧ ((t.wg m.w.wg).tl 1).issued = ((s.wg m.w.wg).tl 1).issued + 1
      ∧ ∀ x ∈ s.ops, x.warp = m.k → x.id ∈ op.after
    m.handlePlace s k.toNat = none → m.footMeter s k.toNat = .ok slot → room →
    (shapeOk h = true → thFmt h ≠ 9 → thRows h ≤ 192 * density (thFmt h) → thCols h ≤ 768 →
      (∀ x, slot = some x → s.forcedPending x = false) →
      GoesWith (.mwl k) s m { m.w with latch := some { handle := h, gang := gang, slot := slot } } (fun t =>
        ∃ op, queued t op ∧ op.a = none ∧ op.w = h ∧ op.slot = slot ∧ op.members = (List.range gang).map (memberOf (m.w.core / 4))))
    ∧ (∀ latch fam, b.toNat < c.count → c.gone.getLsbD b.toNat = false → m.w.latch = some latch → latch.gang = c.gang →
        shapeOk h = true → thCols h = thRows latch.handle → thRows h ≤ 192 → pairFamily (thFmt h) (thFmt latch.handle) = some fam →
        (z = 0 → c.family.getD b.toNat .unset = .unset ∨ c.family.getD b.toNat .unset = fam) →
        GoesWith (.mms k b z) s m { m.w with claim := { c with family := setAt c.family b.toNat (fun _ => fam) } } (fun t =>
          ∃ op, queued t op ∧ op.a = some h ∧ op.w = latch.handle ∧ op.z = (z == 1) ∧ op.slot = latch.slot
            ∧ op.members = (List.range c.gang).map (memberOf c.bench)
            ∧ op.banks = (List.range c.gang).map (fun x => (c.banks.getD x []).getD b.toNat 0))))
  ∧ (∀ (d : BitVec 6) (a : BitVec 7) (b : BitVec 3) (s : State) (j m : Iss),
    let c := m.w.claim
    let k := b.toNat
    let free := { m.w with claim := { c with family := setAt c.family k (fun _ => .unset) } }
    let v : BitVec 7 := d.setWidth 7
    let owned := k < c.count ∧ c.gone.getLsbD k = false
    let index := fun (l : Nat) => (m.val s l a).toNat
    let at' := fun (f : Nat) => bankFlat (memberOf c.bench (f / 36864)) ((c.banks.getD (f / 36864) []).getD k 0) (4 * (f % 36864))
    let inside := ∀ l ∈ m.lanes, index l < 36864 * c.gang
    let reads := fun (_ : State) (i : Iss) => ({ srcs := [a], dst := [d], legal := i.himm == [] } : Uses)
    let writes := fun (_ : State) (i : Iss) => ({ srcs := [a, v], legal := i.himm == [] } : Uses)
    let parked := s.setWarp j.k (j.parkAt 0)
    (Meets s j m 0 usesNothing → owned → m.bankBusy s k = false →
      GoesWith (.mzero b) s m free (fun t => ∀ x, t.peek x = if ∃ p ∈ c.on k, bankFlat p.1 p.2 0 ≤ x ∧ x < bankFlat p.1 p.2 0 + bankBytes
        then 0 else s.peek x))
    ∧ (Meets s j m 0 reads → owned → m.bankBusy s k = false → inside →
        (∀ l ∈ m.lanes, s.rangePoison (at' (index l)) 4 = false) →
        GoesWith (.mrd d a b) s m (givesEach d (fun _ _ l => BitVec.ofNat 64 (s.num (at' (index l)) 4)) s m) (fun t => t.mem = s.mem))
    ∧ (Meets s j m 0 writes → owned → m.bankBusy s k = false → inside →
        GoesWith (.mwr d a b) s m free (fun t => ∀ x, t.peek x = lastOf
          (m.lanes.flatMap (fun l => (List.range 4).map (fun y => (at' (index l) + y, (m.val s l v).extractLsb' (8 * y) 8)))) x (s.peek x)))
    ∧ (let queued := fun (t : State) (z : Bool) (ws : List (Nat × Nat × Nat)) => t.mem = s.mem ∧ ∃ op, t.arrays = s.arrays ++ [op]
          ∧ op.warp = m.k ∧ op.z = z ∧ op.imm = some ws ∧ op.chosen = []
          ∧ op.members = (List.range c.gang).map (memberOf c.bench)
          ∧ op.banks = (List.range c.gang).map (fun x => (c.banks.getD x []).getD k 0)
      owned → m.bankBusy s k = true →
        (Meets s j m 0 usesNothing → GoesWith (.mzero b) s m free (fun t => queued t true []))
        ∧ (Meets s j m 0 writes → inside → GoesWith (.mwr d a b) s m free (fun t =>
            queued t false (m.lanes.map (fun l => (index l / 36864, index l % 36864, (m.val s l v).toNat % 2 ^ 32)))))
        ∧ (Meets s j m 0 reads → inside → exec (.mrd d a b) s = .next ((m.held parked 1).settle j.k)))
    ∧ (let bad := fun (i : Instr) (addr : Word) (ls : List Nat) =>
        exec i s = .next ((m.fault parked { cls := 0x0B, addr := addr, lanes := ls, kind := 3, idx := k }).settle j.k)
      let out := m.lanes.filter (fun l => decide (36864 * c.gang ≤ index l))
      (Meets s j m 0 usesNothing → ¬ owned → bad (.mzero b) 0 m.lanes)
      ∧ (∀ i u, (i, u) ∈ [(Instr.mrd d a b, reads), (.mwr d a b, writes)] → Meets s j m 0 u →
          (¬ owned → bad i (m.val s (m.lanes.headD 0) a) m.lanes)
          ∧ (owned → out ≠ [] → bad i (m.val s (out.headD 0) a) out))))
  ∧ (∀ (a : BitVec 4) (b : BitVec 3) (e : BitVec 5) (s : State) (j m : Iss),
    let sp := fun (x : Nat) => 0x50#7 + BitVec.ofNat 7 (e.toNat + x)
    e.toNat ≤ 29 → Meets s j m 0 (fun _ i => { uni := [sp 0, sp 1, sp 2], nf := true, block := some e.toNat, legal := i.himm == [] }) →
    (mget s.wgs m.w.wg).isSome = true →
    let p0 := (m.uval s (sp 0)).toNat
    let p1 := (m.uval s (sp 1)).toNat
    let p2 := (m.uval s (sp 2)).toNat
    let act := p0 / 2 ^ 59 % 32
    let smode := p0 / 2 ^ 57 % 4
    let bmode := p0 / 2 ^ 55 % 4
    let h := m.w.handle a.toNat
    let c := m.w.claim
    let vecs := (if smode = 2 then [(p0 % 2 ^ 40, 4 * thCols h)] else [])
      ++ (if bmode = 2 then [(p0 % 2 ^ 40 + 4 * thCols h, 4 * thCols h)] else [])
    let joint := p2 / 2 ^ 40 = 1
    p0 / 2 ^ 40 % 2 ^ 15 = 0 → (act ≤ 1 ∨ 16 ≤ act ∧ act ≤ 25) → smode ≠ 3 → bmode ≠ 3 → p2 < 2 ^ 41 → (joint ∨ p2 = 0) →
    b.toNat < c.count → c.gone.getLsbD b.toNat = false → shapeOk h = true → thRows h ≤ 192 → thCols h ≤ 192 * c.gang →
    outputOk (thFmt h) (c.family.getD b.toNat .unset) = true → alignOk h = true → (∀ f ∈ footprints h ++ vecs, m.scratchOk s f = true) →
    (vecs ≠ [] → p0 % 4 = 0) → (joint → p2 % 16 = 0 ∧ m.scratchOk s (p2 % 2 ^ 40, 16) = true) → m.orderWaits s = false →
    let more := ∃ x < c.count, x ≠ b.toNat ∧ c.gone.getLsbD x = false
    ∃ t v op, exec (.mepi a b e) s = .next (State.settle t j.k) ∧ t.mem = s.mem ∧ t.warp j.k = some v ∧ t.drains = s.drains ++ [op]
      ∧ op.warp = j.k ∧ op.out = h ∧ op.act = act ∧ op.smode = smode ∧ op.bmode = bmode ∧ op.vbase = p0 % 2 ^ 40
      ∧ op.scale.toNat = p1 % 2 ^ 32 ∧ op.bias.toNat = p1 / 2 ^ 32 ∧ op.joint = (if joint then some (p2 % 2 ^ 40) else none)
      ∧ op.members = (List.range c.gang).map (memberOf c.bench) ∧ op.family = c.family.getD b.toNat .unset ∧ op.started = [] ∧ op.ended = []
      ∧ op.tlnum = ((s.wg m.w.wg).tl 1).issued + 1 ∧ ((t.wg m.w.wg).tl 1).issued = ((s.wg m.w.wg).tl 1).issued + 1
      ∧ (more → v.claim = { c with gone := c.gone ||| (1#8 <<< b.toNat) }) ∧ (¬ more → v.claim = {})
      ∧ (Plain m → ∀ l, (v.lane l).pc = if l ∈ m.lanes then (m.w.lane l).pc + 4 else (m.w.lane l).pc))

/-- R132, R133, R139, R142, R148: a Bench at a tile boundary selects the operation that the arbiter's rule names, which runs once every member has
selected it, and latches first where a member does not hold its weights; a Bench that is not at one selects nothing. In each cycle of a latch the
next rows of W are read, and after 192 cycles each member that latches holds them all; a row that has not arrived makes it wait, seven cycles more
for the first row of a tile in another core's scratchpad (R143). R144: an operation whose tile a fetch of another Bench of the cluster reads, of a
handle equal but for MCMASK, begun at most 16 cycles before, each core in the MCMASK of the other, takes its rows from such a fetch (stated where
the rows read so far still stand; log entry 66); a row that no fetch has read is read as it stands. An operation completes on the matrix timeline
once its last row has entered (a multiply 385 cycles later) and the warp's earlier ones are over, and not before. R136, R137, R148, R163, R164: a
drain starts when the Planer of a Bench is free and nothing before it is under way, and not before; after 20 cycles it writes a row in each, with
every element in its place; its end returns the bank to the tail of the ring, and comes not before the last row. When the last member's drain ends
(stated of one member and no Joint), it is complete on the matrix timeline. The pace of the rows of W, one drain row in each cycle, and the
completion in issue order are log entry 28. -/
def Obligations.ArraysRun : Prop :=
  (∀ (s : State) (bench id : Nat) (o : ArrayOp),
    (s.arrayIdle bench = false → exec (.arbiterSelect bench) s = .next s)
    ∧ (s.arrayIdle bench = true → s.arbiter bench = some o →
        let needs := o.members.filter (fun m => o.a.isNone || (s.bench m).latched != some (o.warp, o.w))
        ∃ t p, exec (.arbiterSelect bench) s = .next t ∧ t.arrayOf o.id = some p ∧ p.chosen = o.chosen ++ [bench]
          ∧ (p.running = true ↔ ∀ x ∈ o.members, x ∈ o.chosen ∨ x = bench)
          ∧ (p.running = true → p.need = needs ∧ (p.stage = 1 ↔ needs = []))
          ∧ (t.bench bench).served = some (o.core % 4) ∧ t.mem = s.mem)
    ∧ (s.arrayOf id = some o →
        let ends := ∃ t, .next t = exec (if o.a = none then .mwlComplete id else .mmsComplete id) s ∧ t.arrayOf id = none
          ∧ (t.wg o.wg).tl 1 = ((s.wg o.wg).tl 1).complete o.tlnum false ∧ ((∀ p ∈ s.arrays, p.imm = none) → t.mem = s.mem)
        (o.stage ≠ 2 ∨ s.oldest o = false → exec (.mwlComplete id) s = .next s ∧ exec (.mmsComplete id) s = .next s)
        ∧ (o.step < 385 → exec (.mmsComplete id) s = .next s)
        ∧ (o.stage = 2 → s.oldest o = true → o.imm = none → (o.a ≠ none → 385 ≤ o.step) → (s.wg o.wg).status ≠ .ended →
            (mget s.wgs o.wg).isSome = true → ends))
    ∧ (s.arrayOf id = some o → o.running = true → o.stage = 0 →
        let d := density (thFmt o.w)
        let rows := ((List.range d).map (fun i => o.step * d + i)).filter (fun r => decide (r < thRows o.w))
        let f := s.fetching o o.w
        let part := o.part ++ rows.map (f.1.rowFor o.wg o.w f.2)
        let t := s.arrayCycle id
        let far := thBase o.w / 2 ^ 31 ≠ o.core ∧ o.step = 0 ∧ o.late < 7
        let away := ∃ r ∈ rows, f.1.rowAway o.wg o.w f.2 r = true
        t.mem = s.mem
        ∧ (far → t.arrayOf id = some { o with fetch := some f.2, late := o.late + 1 })
        ∧ (¬ far → away → t.arrayOf id = some { o with fetch := some f.2 })
        ∧ (¬ far → ¬ away → o.step < 191 → t.arrayOf id = some { o with step := o.step + 1, part := part, fetch := some f.2 })
        ∧ (¬ far → ¬ away → 191 ≤ o.step →
            t.arrayOf id = some { o with step := 0, part := [], stage := if o.a.isNone then 2 else 1, fetch := none, late := 0 }
            ∧ ∀ x ∈ o.need, (t.bench x).latched = some (o.warp, o.w) ∧ (t.bench x).weights = part))
    ∧ (∀ (w : BitVec 128) (r : Nat), o.fetch = none →
        (((s.fetching o w).1.fetched (s.fetching o w).2 r = none → (s.fetching o w).1.rowFor o.wg w (s.fetching o w).2 r = s.tileRow o.wg w r)
        ∧ ∀ f ∈ s.fetches, f.wg = o.wg → f.core / 16 = o.core / 16 → f.core / 4 ≠ o.core / 4 → s.cycle ≤ f.since + 16 →
            f.handle.extractLsb' 0 112 = w.extractLsb' 0 112 → w.getLsbD (112 + f.core % 16) = true →
            f.handle.getLsbD (112 + o.core % 16) = true → (∀ e ∈ f.rows, s.tileRow o.wg w e.1 = e.2) →
            ∃ g ∈ s.fetches, s.fetching o w = (s, g.id) ∧ g.core / 4 ≠ o.core / 4)))
  ∧ (∀ (s : State) (bench : Nat) (d : DrainOp),
    (s.nextDrain bench = none → exec (.drainStart bench) s = .next s ∧ exec (.drainEnd bench) s = .next s)
    ∧ (s.nextDrain bench = some d →
      let waits := d.started.elem bench || d.after != [] || d.behind.any (fun i => s.ops.any (fun o => o.id == i))
      let n := mgetD d.rows bench 0
      (waits = true → exec (.drainStart bench) s = .next s)
      ∧ (waits = false → ∃ t, exec (.drainStart bench) s = .next t ∧ { t with drains := s.drains } = s
          ∧ t.drains = s.drains.map (fun (x : DrainOp) => if x.id == d.id then { d with started := d.started ++ [bench] } else x))
      ∧ (d.started.elem bench = false ∨ n < thRows d.out + 20 → exec (.drainEnd bench) s = .next s)
      ∧ (d.started.elem bench = true → thRows d.out + 20 ≤ n → d.members = [bench] → d.joint = none →
          (s.wg d.wg).status ≠ .ended → (mget s.wgs d.wg).isSome = true →
          ∃ t, exec (.drainEnd bench) s = .next t ∧ (t.bench bench).ring = (s.bench bench).ring ++ [d.banks.getD 0 0]
            ∧ t.drains = s.drains.filter (fun x => x.id != d.id)
            ∧ (t.wg d.wg).tl 1 = ((s.wg d.wg).tl 1).complete d.tlnum false ∧ t.mem = s.mem)
      ∧ (d.started.elem bench = true → n < thRows d.out + 20 → d.members = [bench] →
          (n < 20 → (s.drainCycle bench).mem = s.mem)
          ∧ (20 ≤ n → s.windowAbsent d.wg (d.prints (n - 20)) = false → seWidth (thFmt d.out) = 0 →
              let es := elemSize (thFmt d.out)
              let at' := fun (c : Nat) => scratchFlat d.wg (thBase d.out + (n - 20) * thPitch d.out + c * es)
              let cols := Nat.min 192 (thCols d.out)
              (∀ c, c < cols → (s.drainCycle bench).num (at' c) es = (s.drainElement d 0 (n - 20) c).out % 2 ^ (8 * es))
              ∧ ∀ x, x < at' 0 ∨ at' cols ≤ x → (s.drainCycle bench).peek x = s.peek x))))

/-- R130, R131, R133, R143, R144, R164: in the cycle in which row m of a multiply on one Bench enters, each element of that row of its bank becomes
the accumulation of its old value (0 with Z) with the row, as its fetch has it, and its column of the latched weights, and every other byte stays;
in the other cycles of the row nothing changes in memory, nor while the row has not arrived (seven cycles more for the first row of a tile in
another core's scratchpad). After the last row the operation has only to leave the array. The model's choice (log entry 28): a row's result stands
in the bank from the first cycle of that row, where R140 writes the last one 385 cycles after it enters. -/
def Obligations.MultiplyResult : Prop :=
  ∀ (s : State) (id b bank : Nat) (o : ArrayOp) (a : BitVec 128), s.arrayOf id = some o → o.running = true → o.stage = 1 →
    o.a = some a → o.members = [b] → o.banks = [bank] → bank < 8 →
    let per := o.perRow a
    let m := o.step / per
    let cols := Nat.min 192 (thCols o.w)
    let at' := fun (n : Nat) => bankFlat b bank (4 * (192 * m + n))
    let t := s.arrayCycle id
    let f := s.fetching o a
    let on := if o.step + 1 < per * thRows a then { o with step := o.step + 1, fetch := some f.2 }
      else { o with step := 0, stage := 2, fetch := none, late := 0 }
    let far := thBase a / 2 ^ 31 ≠ o.core ∧ o.step = 0 ∧ o.late < 7
    (o.step % per ≠ 0 → t.mem = s.mem ∧ t.arrayOf id = some on)
    ∧ (far → t.mem = s.mem ∧ t.arrayOf id = some { o with fetch := some f.2, late := o.late + 1 })
    ∧ (¬ far → o.step % per = 0 → f.1.rowAway o.wg a f.2 m = false →
        t.arrayOf id = some on
        ∧ (∀ n, n < cols → t.num (at' n) 4 = mmsElement (thFmt a) (thFmt o.w) (if o.z then 0 else s.num (at' n) 4)
            (f.1.rowFor o.wg a f.2 m) (s.bench b).weights n % 2 ^ 32)
        ∧ ∀ x, x < at' 0 ∨ at' cols ≤ x → t.peek x = s.peek x)
    ∧ (¬ far → o.step % per = 0 → f.1.rowAway o.wg a f.2 m = true → t.mem = s.mem ∧ t.arrayOf id = some { o with fetch := some f.2 })

/-! ### Engines -/

/-- R225 to R232: a copy whose register block is legal, with room in its cluster's queue, enters it with the parameters of the block, and with T takes
the next number on the copy timeline; it follows the release of its scope. One that fails a check of R227 is that fault, and enters no queue.
R228, R229, R231: a beat of a copy that has an engine moves up to 512 bytes of a row from its source to its destination: the cores that see the
scope's point read there what stood at the source. The copy goes on with the next bytes or the next row, or is complete. (Stated of a CPY without
Joint whose beat stays within one page at each end, none of them metered, migrating, poisoned or lost, with room in the caches.) A copy of no
bytes is complete at once. Nothing is copied while an access that the copy follows is under way, nor, as R397 needs it, while a drain is that its
warp handed over before it (log entry 64). -/
def Obligations.Copies : Prop :=
  (∀ (b : BitVec 5) (c : BitVec 3) (tl jt : BitVec 1) (s : State) (j : Iss) (kind : Nat) (i : Instr),
    (kind, i) ∈ [(0, Instr.cpy b c tl jt), (1, .cpym b c tl jt), (2, .cpyg b c tl jt)] →
    let n := if kind = 2 then 6 else 5
    let sp := fun (k : Nat) => 0x50#7 + BitVec.ofNat 7 (b.toNat + k)
    let r := fun (k : Nat) => (j.uval s (sp k)).toNat
    b.toNat + n ≤ 32 → Executes s j { uni := (List.range n).map sp, block := some b.toNat, legal := j.himm == [] } →
    (mget s.wgs j.w.wg).isSome = true → j.listWaits s (j.copyBlock s kind b c tl jt) = false →
    (∀ f, j.copyCheck s (j.copyBlock s kind b c tl jt) b = some f → exec i s = .next (j.fault s f)) ∧
    (j.copyCheck s (j.copyBlock s kind b c tl jt) b = none →
    (s.copies.filter (fun x => x.core / 16 == j.w.core / 16)).length < 51 → j.orderWaits s = false →
    GoesWith i s j j.w (fun t => t.mem = s.mem ∧ ∃ op, t.copies = s.copies ++ [op] ∧ op.kind = kind ∧ op.warp = j.k ∧ op.wg = j.w.wg
      ∧ op.core = j.w.core ∧ op.scope = c.toNat ∧ op.dst.toNat = r 0 ∧ op.src.toNat = r 1 ∧ op.rbytes = r 2 % 2 ^ 40
      ∧ op.rows = r 2 / 2 ^ 40 ∧ op.spitch = r 3 % 2 ^ 32 ∧ op.dpitch = r 3 / 2 ^ 32 ∧ op.mcast.toNat = r 4 / 2 ^ 48
      ∧ op.joint = (if jt = 1 then some (r 4 % 2 ^ 40) else none) ∧ (kind = 2 → op.idx = r 5 % 2 ^ 40) ∧ op.row = 0 ∧ op.byte = 0
      ∧ op.tlnum = (if tl = 1 then some (((s.wg j.w.wg).tl 0).issued + 1) else none)
      ∧ ((t.wg j.w.wg).tl 0).issued = ((s.wg j.w.wg).tl 0).issued + (if tl = 1 then 1 else 0)
      ∧ ∀ x ∈ s.ops, x.warp = j.k → x.id ∈ op.after)))
  ∧ (∀ (s : State) (id : Nat) (c : CopyOp), s.copies.find? (fun x => x.id == id) = some c →
    (∃ i ∈ c.after, ∃ o ∈ s.ops, o.id = i) ∨ (∃ d ∈ s.drains, d.warp = c.warp ∧ d.id < c.id) → exec (.copyBeat id) s = .next s)
  ∧ (∀ (s : State) (id : Nat) (c : CopyOp), s.copies.find? (fun x => x.id == id) = some c → s.copyReady c = true → c.joint = none →
    (s.wg c.wg).status ≠ .ended → (mget s.wgs c.wg).isSome = true →
    let ends := fun (t : State) => t.copies = s.copies.filter (fun x => x.id != id)
      ∧ ∀ n, c.tlnum = some n → (t.wg c.wg).tl 0 = ((s.wg c.wg).tl 0).complete n false
    (c.rows = 0 ∨ c.rbytes = 0 → ∃ t, exec (.copyBeat id) s = .next t ∧ t.mem = s.mem ∧ ends t)
    ∧ (c.kind = 0 → c.gidx = none ∨ c.gidx = some c.row → c.row < c.rows → c.byte < c.rbytes →
        let n := Nat.min 512 (c.rbytes - c.byte)
        let src := c.src.toNat + c.row * c.spitch + c.byte
        let dst := c.dst.toNat + c.row * c.dpitch + c.byte
        let w := s.engineWho c.core c.wg c.scope
        let point := if c.scope = 3 then 1 else 2
        ∀ f vs g vd, n ≤ 4096 - src % 4096 → n ≤ 4096 - dst % 4096 →
        s.spot w src n .load = .ok (.mem f none vs false) → s.spot w dst n .store = .ok (.mem g none vd false) →
        s.spotBusy c.wg n (.mem f none vs false) = false → s.spotBusy c.wg n (.mem g none vd false) = false →
        s.engineWaits id c.core c.pasid false (vs ++ vd) = none →
        let s0 := (s.engineMade id).touchAll w false vs
        Roomy (s0.touchAll w true vd) c.core 5 →
        let at' := fun (vias : List Via) => if policyOf none vias = 4 then 2 else point
        (∀ k, k < n → s0.poisonAt c.core (at' vs) (f + k) = false ∧ s.lostAt (g + k) = false) →
        ∃ t, exec (.copyBeat id) s = .next t
          ∧ (∀ k, k < n → t.view c.core (at' vd) (g + k) = s0.view c.core (at' vs) (f + k))
          ∧ (c.byte + n < c.rbytes → ∃ x, t.copies.find? (fun y => y.id == id) = some x ∧ x.row = c.row ∧ x.byte = c.byte + n)
          ∧ (c.byte + n = c.rbytes → c.row + 1 < c.rows →
              ∃ x, t.copies.find? (fun y => y.id == id) = some x ∧ x.row = c.row + 1 ∧ x.byte = 0)
          ∧ (c.byte + n = c.rbytes → c.row + 1 = c.rows → ends t)))

/-- R114 to R119: CHAIN with a legal record, formats and alignments enters its core's chain unit when that has room, with its record and its
descriptors as they stand, and takes the next number on the chain timeline. R118, R120 to R124: the oldest operation of a chain unit goes on when
nothing before it is under way, and nothing happens to one with elements before. Its elements come in rising order, at most 32 in a step, each in
the state that the one before it left: an element whose output is dismissed is not computed and leaves everything as it is; one whose input is
dismissed enters the list as +0; any other is read first, is taken through the list of the record, and stands then at the output address (stated
where its accesses can be made, lost addresses apart, with room in the caches). After the last element the operation is complete on the chain
timeline, and the conditions that its elements raise are in the warp's flags, unless NOFLAG (with the completion: log entry 66). The first element
that faults ends it, with the memory that the elements below it left, and it is complete as faulted. One without elements is complete at once. -/
def Obligations.Chains : Prop :=
  (∀ (b : BitVec 5) (x y : BitVec 4) (s : State) (j : Iss),
    let sp := fun (k : Nat) => 0x50#7 + BitVec.ofNat 7 (b.toNat + k)
    b.toNat ≤ 30 → Executes s j { uni := [sp 0, sp 1], block := some b.toNat, nf := true, legal := j.himm == [] } →
    (mget s.wgs j.w.wg).isSome = true →
    let win := (j.uval s (sp 0)).toNat
    let count := (j.uval s (sp 1)).toNat
    let flat := scratchFlat j.w.wg win
    let r := BitVec.ofNat 512 (s.num flat 64)
    win < 2 ^ 40 → count < 2 ^ 32 → win / 2 ^ 31 = j.w.core → (∃ v, reachScratch s (j.who s 0) win 64 false = .ok v) → win % 64 = 0 →
    s.pageAbsent j.w.wg flat = false → s.conflict j.k [flat / 128] = false → j.orderWaits s = false → s.rangePoison flat 64 = false →
    recordOk r = true → recIfmt r ≤ 5 → recOfmt r ≤ 5 ∨ recOfmt r = 9 →
    (count ≠ 0 → streamAligned (j.w.dsc x.toNat) (j.dscInduction (j.w.dsc x.toNat)) (chainSize (recIfmt r)) = true
      ∧ streamAligned (j.w.dsc y.toNat) (j.dscInduction (j.w.dsc y.toNat)) (chainSize (recOfmt r)) = true) →
    (s.chains.filter (fun c => c.core == j.w.core)).length < 8 →
    GoesWith (.chain b x y) s j j.w (fun t => t.mem = s.mem ∧ ∃ op, t.chains = s.chains ++ [op] ∧ op.record = r ∧ op.count = count
      ∧ op.di = j.w.dsc x.toNat ∧ op.dout = j.w.dsc y.toNat ∧ op.warp = j.k ∧ op.wg = j.w.wg ∧ op.core = j.w.core
      ∧ op.tlnum = ((s.wg j.w.wg).tl 2).issued + 1 ∧ ((t.wg j.w.wg).tl 2).issued = ((s.wg j.w.wg).tl 2).issued + 1))
  ∧ (∀ (s : State) (core : Nat) (c : ChainOp), s.chains.find? (fun c => c.core == core) = some c →
    let isz := chainSize (recIfmt c.record)
    let osz := chainSize (recOfmt c.record)
    let src := (streamAt c.di c.iBase c.iOn isz 0).1
    let dst := (streamAt c.dout c.oBase c.oOn osz 0).1
    let who := s.engineWho c.core c.wg 0
    let ends := fun (t : State) => t.chains = s.chains.filter (fun x => x.id != c.id)
      ∧ (t.wg c.wg).tl 2 = ((s.wg c.wg).tl 2).complete c.tlnum false
    (c.count ≠ 0 → (∃ i ∈ c.after, ∃ o ∈ s.ops, o.id = i) → exec (.chainComplete core) s = .next s)
    ∧ ((s.wg c.wg).status ≠ .ended → (mget s.wgs c.wg).isSome = true →
      (c.count = 0 → ∃ t, exec (.chainComplete core) s = .next t ∧ t.mem = s.mem ∧ ends t)
      ∧ (∀ u v ra rb p q, (∀ i ∈ c.after, ∀ o ∈ s.ops, o.id ≠ i) → c.count = 1 → c.next = 0 →
          (streamAt c.di c.iBase c.iOn isz 0).2 = false → (streamAt c.dout c.oBase c.oOn osz 0).2 = false →
          s.chainAccess c src isz false = .go u ra p →
          let s0 := u.touchAll who false ra.vias
          let s1 := ((countReads s0 [(0, ra)]).engineMade c.id).used c.core (u.engineUsers who ra.vias) (linesOf (ra.flats.filter isCached))
          (∀ f ∈ ra.flats, s0.poisonAt c.core p f = false) → s1.chainAccess c dst osz true = .go v rb q →
          (∀ f ∈ rb.flats, v.lostAt f = false) → rb.flats.Nodup → rb.flats.length = osz →
          Roomy ((v.engineMade c.id).touchAll who true rb.vias) c.core osz →
          ∃ t, exec (.chainComplete core) s = .next t ∧ ends t
            ∧ rb.flats.map (t.view c.core q) = bytesLE osz (chainElement c.record (natLE (ra.flats.map (s0.view c.core p)))).bits)
      ∧ (∀ (st : Nat → State) (n : Nat), (∀ i ∈ c.after, ∀ o ∈ s.ops, o.id ≠ i) → c.next + n ≤ c.count → n ≤ 32 → st 0 = s →
          let one := fun (i : Nat) => (st i).chainOne c (c.next + i)
          (∀ i, i < n → (one i).fault = none ∧ (one i).waits = false ∧ st (i + 1) = (one i).state) →
          let raised := (List.range n).foldl (fun f i => f ||| (one i).flags) c.raised
          let same := fun (t u : State) => t.mem = u.mem ∧ t.l1 = u.l1 ∧ t.cc = u.cc
          (n = 32 → c.next + n < c.count → ∃ t, exec (.chainComplete core) s = .next t ∧ same t (st n)
            ∧ t.chains = (st n).chains.map (fun x => if x.id == c.id then { c with next := c.next + n, raised := raised } else x))
          ∧ (c.next + n = c.count → ∃ t, exec (.chainComplete core) s = .next t ∧ same t (st n) ∧ ends t
              ∧ (c.noflag = false → ∀ k w, (st n).warps.find? (fun e => e.2.wg == c.wg && e.2.index == c.index && !e.2.ended) = some (k, w) →
                  (st n).warp k = some w → ∃ v, t.warp k = some v ∧ v.flags = w.flags ||| raised))
          ∧ (n < 32 → c.next + n < c.count → ∀ f, (one n).fault = some f → ∃ t, exec (.chainComplete core) s = .next t
              ∧ same t (one n).state ∧ t.chains = s.chains.filter (fun x => x.id != c.id)
              ∧ (t.wg c.wg).tl 2 = ((s.wg c.wg).tl 2).complete c.tlnum true))))
  ∧ (∀ (s : State) (c : ChainOp) (e : Nat),
    let isz := chainSize (recIfmt c.record)
    let osz := chainSize (recOfmt c.record)
    let x := streamAt c.di c.iBase c.iOn isz e
    let y := streamAt c.dout c.oBase c.oOn osz e
    let who := s.engineWho c.core c.wg 0
    let r := s.chainOne c e
    let runs := r.fault = none ∧ r.waits = false
    let writes := fun (u : State) (z : FRes) => ∀ v rb q, u.chainAccess c y.1 osz true = .go v rb q → (∀ f ∈ rb.flats, v.lostAt f = false) →
      rb.flats.Nodup → rb.flats.length = osz → Roomy ((v.engineMade c.id).touchAll who true rb.vias) c.core osz →
      runs ∧ r.flags = z.flags ∧ rb.flats.map (r.state.view c.core q) = bytesLE osz z.bits
    (y.2 = true → runs ∧ r.flags = 0 ∧ r.state = s)
    ∧ (y.2 = false → x.2 = true → writes s (chainList c.record (recCount c.record) 0 0 0))
    ∧ (y.2 = false → x.2 = false → ∀ f a, s.chainAccess c x.1 isz false = .fault f a →
        r.fault = some (f, x.1) ∧ r.waits = false ∧ r.state = s ∧ r.flags = 0)
    ∧ (y.2 = false → x.2 = false → ∀ u ra p, s.chainAccess c x.1 isz false = .go u ra p →
        let s0 := u.touchAll who false ra.vias
        ((∃ f ∈ ra.flats, s0.poisonAt c.core p f = true) → r.fault = some (0x0F, x.1) ∧ r.state = s0)
        ∧ ((∀ f ∈ ra.flats, s0.poisonAt c.core p f = false) →
            writes (((countReads s0 [(0, ra)]).engineMade c.id).used c.core (u.engineUsers who ra.vias) (linesOf (ra.flats.filter isCached)))
              (chainElement c.record (natLE (ra.flats.map (s0.view c.core p)))))))

/-! ### Joints and timelines -/

/-- R219 to R221, R223: arrivals and expected bytes raise a Joint's counts, deliveries its bytes. With all arrivals and exactly the
expected bytes the phase completes: the generation moves on and the counts clear. More bytes than expected once all have arrived fail the
Joint, as does a count past 2^40, and a failed Joint stays so; more arrivals than expected, a target of 2^40, and fewer bytes expected than have
come once all have arrived, are refused. JEXP and JARV are refused too where the arrivals of their m lanes would be too many, although JEXP
adds none (n). -/
def Obligations.JointRules : Prop :=
  ∀ (x : Joint) (m n d : Nat),
    let up : Joint := { x with arrived := x.arrived + n, target := x.target + d }
    let done := fun (y : Joint) => 1 ≤ y.expect ∧ y.arrived = y.expect ∧ y.bytes = y.target
    let next := fun (y : Joint) => ({ y with gen := (y.gen + 1) % 2 ^ 15, arrived := 0, bytes := 0, target := 0 } : Joint)
    (x.faulted = true → x.arrive m n d = none ∧ x.deliver d = x)
    ∧ (x.expect < x.arrived + m → x.arrive m n d = none) ∧ (2 ^ 40 ≤ up.target → x.arrive m n d = none)
    ∧ (1 ≤ x.expect → up.arrived = x.expect → up.target < x.bytes → x.arrive m n d = none)
    ∧ (x.faulted = false → x.arrived + m ≤ x.expect → up.target < 2 ^ 40 → done up → x.arrive m n d = some (next up))
    ∧ (x.faulted = false → x.arrived + m ≤ x.expect → up.target < 2 ^ 40 → ¬ done up →
        ¬ (1 ≤ x.expect ∧ up.arrived = x.expect ∧ up.target < x.bytes) → x.arrive m n d = some up)
    ∧ (x.faulted = false → x.bytes + d < 2 ^ 40 → done { x with bytes := x.bytes + d } → x.deliver d = next { x with bytes := x.bytes + d })
    ∧ (x.faulted = false → x.bytes + d < 2 ^ 40 → 1 ≤ x.expect → x.arrived = x.expect → x.target < x.bytes + d →
        (x.deliver d).faulted = true)
    ∧ (2 ^ 40 ≤ x.bytes + d → (x.deliver d).faulted = true)
    ∧ (x.faulted = false → x.bytes + d < 2 ^ 40 → x.expect = 0 ∨ x.arrived ≠ x.expect ∨ x.bytes + d < x.target →
        x.deliver d = { x with bytes := x.bytes + d })

/-- R222 to R224: JINIT, JARV, JEXP and JWAIT at a legal Joint address of the workgroup's scratch. JINIT makes a new Joint; JEXP and JARV
raise its counts (JARV by one arrival for each lane of the issuing set, once its release is over, the lanes waiting for it: log entry 24), or
are a joint-overrun fault, JEXP too where its lanes' arrivals would be too many; JWAIT makes the lanes wait for the Joint to
leave a generation; where it has left it already, they are free to go on. (JARV waits to issue, as R218 says of a release, while a write of
the warp is held for a migrating page.) R223, R224, R213, R237: a JARV whose release is over reaches its Joint, and its lanes go on. Lanes
that a completed phase has freed go on after an acquire; a wait at a Joint ends too when it has left the generation otherwise; it goes on
while the Joint stands there, and faults where the Joint has failed, with what the workgroup's fault store tells of it (stated where no wait
of the warp that was issued before has failed, R365; the lanes that issued together fault as one, log entry 61, and a poisoned Joint gives its
address, log entry 24). Nothing happens while the workgroup leaves its cores. -/
def Obligations.JointInstructions : Prop :=
  (∀ (a b : BitVec 7) (c : BitVec 3) (s : State) (j : Iss) (win : Nat), Executes s j { uni := [a, b], legal := j.himm == [] } →
    j.jointWindow s (j.uval s a) = .ok win →
    let flat := scratchFlat j.w.wg win
    let v := (j.uval s b).toNat
    let overrun : FaultInfo := { cls := 0x0E, addr := BitVec.ofNat 64 win, lanes := j.lanes, kind := 5 }
    s.pageAbsent j.w.wg flat = false → s.conflict j.k [flat / 128] = false → j.acquiring s = false → s.rangePoison flat 16 = false →
    (1 ≤ v → v < 65536 → GoesWith (.jinit a b) s j j.w (fun t =>
        t.jointAt flat = { bytes := 0, target := 0, arrived := 0, expect := v, gen := 0, faulted := false }
        ∧ ∀ x, x < flat ∨ flat + 16 ≤ x → t.peek x = s.peek x))
    ∧ (1 ≤ v → v < 2 ^ 40 → ∀ x, (s.jointAt flat).arrive j.lanes.length 0 v = some x → GoesWith (.jexp a b) s j j.w (fun t => t.jointAt flat = x
        ∧ ∀ y, y < flat ∨ flat + 16 ≤ y → t.peek y = s.peek y))
    ∧ (1 ≤ v → v < 2 ^ 40 → (s.jointAt flat).arrive j.lanes.length 0 v = none → exec (.jexp a b) s = .next (j.fault s overrun))
    ∧ (v < 2 ^ 40 → s.heldWrite j.k = false → (s.releaseAction j.k j.w c.toNat).2 = [] → ∀ x, (s.jointAt flat).arrive j.lanes.length j.lanes.length v = some x →
        GoesWith (.jarv a b c) s j j.w (fun t => t.jointAt flat = x))
    ∧ (v < 2 ^ 40 → s.heldWrite j.k = false → (s.releaseAction j.k j.w c.toNat).2 = [] → (s.jointAt flat).arrive j.lanes.length j.lanes.length v = none →
        exec (.jarv a b c) s = .next (j.fault s overrun))
    ∧ (v < 2 ^ 40 → s.heldWrite j.k = false → (s.releaseAction j.k j.w c.toNat).2 ≠ [] → ∃ n, WaitsWith (.jarv a b c) s j (fun _ => .fence n) (fun t =>
        t.mem = s.mem ∧ ∃ op ∈ t.ops, op.id = n ∧ op.kind = .jarv win j.lanes.length v ∧ op.after = (s.releaseAction j.k j.w c.toNat).2))
    ∧ (v < 2 ^ 15 → WaitsWith (.jwait a b c) s j (fun _ =>
          if (s.jointAt flat).faulted = false ∧ (s.jointAt flat).gen ≠ v then .freed c.toNat s.serial else .joint win v c.toNat s.serial)
        (fun t => { t with warps := s.warps, serial := s.serial } = s)))
  ∧ ((∀ (s : State) (id win n d : Nat) (o : MemOp) (w : Warp) (x : Joint), s.opOf id = some o → o.kind = .jarv win n d → s.opReady o = true →
    s.warp o.warp = some w → Alive s o.warp → s.pageAbsent w.wg (scratchFlat w.wg win) = false →
    s.rangePoison (scratchFlat w.wg win) 16 = false → (s.jointAt (scratchFlat w.wg win)).arrive n n d = some x →
    let ls := (List.range 32).filter (fun l => (w.lane l).live && (w.lane l).park == .fence o.id)
    ls ≠ [] → ∃ t v, exec (.linePush id) s = .next (State.settle t o.warp) ∧ t.jointAt (scratchFlat w.wg win) = x ∧ t.opOf id = none
      ∧ t.warp o.warp = some v ∧ SameWarp w v ∧ (∀ l, SameLane (w.lane l) (v.lane l)) ∧ ∀ l ∈ ls, (v.lane l).park ≠ .fence o.id)
  ∧ (∀ (s : State) (k l win gen scope order : Nat) (w : Warp), s.warp k = some w →
      let flat := scratchFlat w.wg win
      let goes := ∃ t, exec (.jwaitRelease k l) s = .next (State.settle t k) ∧ t.mem = s.mem
            ∧ GoOn { s with l1 := t.l1, cc := t.cc } t k (w.fellows l)
      ((s.wg w.wg).quiescing = true → exec (.jwaitRelease k l) s = .next s)
      ∧ ((w.lane l).park = .freed scope order → (s.wg w.wg).quiescing = false → goes)
      ∧ ((w.lane l).park = .joint win gen scope order → s.pageAbsent w.wg flat = false →
          ((s.jointAt flat).faulted = false → (s.jointAt flat).gen = gen → exec (.jwaitRelease k l) s = .next s)
      ∧ ((s.wg w.wg).quiescing = false → (s.jointAt flat).faulted = false → (s.jointAt flat).gen ≠ gen → goes)
      ∧ ((s.wg w.wg).quiescing = false → (s.jointAt flat).faulted = true → l < 32 → (w.lane l).live = true →
          (∀ m p, m < 32 → s.failedWait w m = some p → order ≤ p.1 ∧ (p.1 = order → (w.lane m).park = (w.lane l).park)) →
          let bare : EngFault := { epc := 0, tlnum := 0, ctx := 3, jaddr := win }
          let f : FaultInfo :=
            if s.rangePoison flat 16 then { cls := 0x11, addr := BitVec.ofNat 64 win, lanes := w.fellows l, eng := some bare }
            else match (s.wg w.wg).faults.find? (fun e => e.jaddr == some win) with
              | none => { cls := 0x0F, lanes := w.fellows l, kind := 5, eng := some bare }
              | some e => { cls := e.cls, addr := e.addr, lanes := w.fellows l, kind := 5,
                            eng := some { epc := e.opc, tlnum := (e.tl.map Prod.snd).getD 0, ctx := (e.tl.map Prod.fst).getD 3, jaddr := win } }
          let x := (w.lane ((w.fellows l).headD 0)).resume
          exec (.jwaitRelease k l) s = .next (s.takeFault k f x.pc x.runPc)))))

/-- R231 to R234: TLRD reads the completed or the issued number of a timeline; TLWAIT waits for a number that has been issued, and one
that has not is an illegal operand. The wait ends when the number is complete: the lanes go on after an acquire, or, where an operation up
to it has failed, they fault (stated where no wait of the warp that was issued before has failed, R365; lanes that issued together fault as
one, log entry 61), and nothing happens while the workgroup leaves its cores. R231, R232: the completed counter of a timeline never falls, and passes a number only when every operation
up to it is complete; the first failed number is kept. -/
def Obligations.Timelines : Prop :=
  ((∀ (e : BitVec 2) (a : BitVec 7) (d : BitVec 5), CompletesIf (.tlrd e a d) (fun _ j => { uni := [a], legal := j.himm == [] })
    (fun s j => (j.uval s a).toNat ≤ 1) (fun s j =>
      let t := (s.wg j.w.wg).tl e.toNat
      { j.w with s := mput {} j.w.s d.toNat (clean (BitVec.ofNat 64 (if j.uval s a = 0 then t.completed else t.issued))) }))
  ∧ (∀ (e : BitVec 2) (a : BitVec 7) (c : BitVec 3) (s : State) (j : Iss), Executes s j { uni := [a], legal := j.himm == [] } →
      let n := (j.uval s a).toNat
      (n ≤ ((s.wg j.w.wg).tl e.toNat).issued →
        WaitsWith (.tlwait e a c) s j (fun _ => .timeline e.toNat n c.toNat s.serial)
          (fun t => { t with warps := s.warps, serial := s.serial } = s))
      ∧ (((s.wg j.w.wg).tl e.toNat).issued < n →
          exec (.tlwait e a c) s = .next (j.fault s { cls := 0x02, addr := j.word s, lanes := j.lanes })))
  ∧ (∀ (s : State) (k l ec n scope order : Nat) (w : Warp), s.warp k = some w → (w.lane l).park = .timeline ec n scope order →
      let t := (s.wg w.wg).tl ec
      (t.completed < n ∨ (s.wg w.wg).quiescing = true → exec (.tlwaitRelease k l) s = .next s)
      ∧ ((s.wg w.wg).quiescing = false → n ≤ t.completed → t.faultnum = 0 ∨ n < t.faultnum →
          ∃ u, exec (.tlwaitRelease k l) s = .next (State.settle u k) ∧ u.mem = s.mem
            ∧ GoOn { s with l1 := u.l1, cc := u.cc } u k (w.fellows l))
      ∧ ((s.wg w.wg).quiescing = false → n ≤ t.completed → t.faultnum ≠ 0 → t.faultnum ≤ n → l < 32 → (w.lane l).live = true →
          (∀ m p, m < 32 → s.failedWait w m = some p → order ≤ p.1 ∧ (p.1 = order → (w.lane m).park = (w.lane l).park)) →
          let f : FaultInfo := match (s.wg w.wg).faults.find? (fun e => e.tl == some (ec, t.faultnum)) with
            | none => { cls := 0x0F, lanes := w.fellows l, kind := 6, idx := ec,
                        eng := some { epc := 0, tlnum := t.faultnum, ctx := ec, jaddr := 0 } }
            | some e => { cls := e.cls, addr := e.addr, lanes := w.fellows l, kind := 6, idx := ec,
                          eng := some { epc := e.opc, tlnum := t.faultnum, ctx := ec, jaddr := e.jaddr.getD 0 } }
          let x := (w.lane ((w.fellows l).headD 0)).resume
          exec (.tlwaitRelease k l) s = .next (s.takeFault k f x.pc x.runPc))))
  ∧ (∀ (t : Timeline) (n : Nat) (bad : Bool),
    let u := t.complete n bad
    t.completed ≤ u.completed ∧ u.issued = t.issued
    ∧ (∀ k, t.completed < k → k ≤ u.completed → k = n ∨ k ∈ t.done)
    ∧ (n = t.completed + 1 → n ≤ u.completed)
    ∧ u.faultnum = (if bad = true ∧ (t.faultnum = 0 ∨ n < t.faultnum) then n else t.faultnum))

/-- R314 to R316: ENQ with nothing before it reads its record, and where the record can be read and is well formed, places it; sN+1 takes the status:
0 where the device queue has room (and, with SPILL, the overflow ring is empty): a node joins the queue's tail; 1 where SPILL puts it into the
overflow ring; 2 where neither is possible: nothing is placed. A record whose address is no multiple of 128, lies in the private aperture or fails
a check of R183 is that fault; one whose fields R302, R303 or R314 refuse, or whose KREF is not registered, an illegal operand; nothing is placed.
Before its release is over, and its record can be read, the lanes wait; then it acts, and they go on. RING_MOVE moves the ring's oldest record
into the queue when that has room, and not before; then RINGRD advances, and no other byte changes. Which DQCAP, RING and RINGSZ each of them
follows, and that all but the address comes after the release, is log entry 35. -/
def Obligations.DeviceQueues : Prop :=
  (∀ (b : BitVec 5) (p : BitVec 1) (s : State) (j : Iss), b ≠ 31 →
    Executes s j { uni := [0x50#7 + b.setWidth 7], block := some b.toNat,
                   legal := j.himm == [] && (j.hint.bind (fun h => h.hmod)).isNone } →
    let a := j.uval s (0x50#7 + b.setWidth 7)
    a.toNat < 2 ^ 56 → j.orderWaits s = false →
    let r := s.releaseAction j.k j.w 5
    (r.2 = [] → j.enqWaits s s.serial a = none → ∀ s1 st, j.enqueue s b.toNat (p == 1) = .ok (s1, st) →
      GoesWith (.enq b p) s j { j.w with s := mput {} j.w.s (b.toNat + 1) (clean (BitVec.ofNat 64 st)) } (fun t =>
        t.mem = s1.mem ∧ t.nodes = s1.nodes ∧ t.dqueue = s1.dqueue ∧ t.spilled = s1.spilled))
    ∧ (r.2 = [] → j.enqWaits s s.serial a = none → ∀ f, j.enqueue s b.toNat (p == 1) = .error f → exec (.enq b p) s = .next (j.fault s f))
    ∧ (∀ x, r.2 = [] → j.enqWaits s s.serial a = none → a.toNat % 128 = 0 → apertureOf a.toNat ≠ .privateMem →
      j.reach s 5 (j.lanes.headD 0) a 128 .load = .ok x →
      let reg := (s.nodeOf j.w).region
      let s0 := s.touchAll (j.who s 5) false x.vias
      let s1 := countReads s0 [(0, x)]
      let q := natLE (x.flats.map (s0.view j.w.core 2))
      (∀ f ∈ x.flats, s0.poisonAt j.w.core 2 f = false) → nodeRecordOk q = true → q / 2 ^ 8 % 2 ^ 4 = 2 → q / 2 ^ 16 % 2 ^ 16 = 0 →
      (s1.kernelOf reg.pasid reg.pasid (BitVec.ofNat 64 (q / 2 ^ 64 % 2 ^ 64))).isSome = true →
      let y := s1.placeRecord reg reg.pasid a q (p == 1)
      GoesWith (.enq b p) s j { j.w with s := mput {} j.w.s (b.toNat + 1) (clean (BitVec.ofNat 64 y.2)) } (fun t =>
        t.mem = y.1.mem ∧ t.nodes = y.1.nodes ∧ t.dqueue = y.1.dqueue ∧ t.spilled = y.1.spilled))
    ∧ (r.2 ≠ [] ∨ (j.enqWaits s s.serial a).isSome = true → ∃ n, WaitsWith (.enq b p) s j (fun _ => .fence n) (fun t => t.mem = s.mem
        ∧ ∃ op ∈ t.ops, op.id = n ∧ op.kind = .enq b.toNat (p == 1) ∧ op.after = r.2)))
  ∧ (∀ (s : State) (id k l : Nat) (spill : Bool) (o : MemOp) (w : Warp) (ls : List Nat) (s1 : State) (st : Nat), s.opOf id = some o →
      o.kind = .enq k spill → o.after = [] → s.warp o.warp = some w → Alive s o.warp →
      (List.range 32).filter (fun m => (w.lane m).live && (w.lane m).park == .fence o.id) = l :: ls →
      let j : Iss := { k := o.warp, w := w, lanes := l :: ls, led := l, code := s.code w, hint := (w.lane l).hint }
      j.enqWaits s o.id (j.uval s (0x50#7 + BitVec.ofNat 7 k)) = none → j.enqueue (s.engineMade o.id) k spill = .ok (s1, st) →
      ∃ t v, exec (.acknowledgement id) s = .next (State.settle t o.warp) ∧ t.opOf id = none ∧ t.mem = s1.mem ∧ t.nodes = s1.nodes
        ∧ t.dqueue = s1.dqueue ∧ t.spilled = s1.spilled ∧ t.warp o.warp = some v
        ∧ SameWarp { w with s := mput {} w.s (k + 1) (clean (BitVec.ofNat 64 st)) } v ∧ (∀ m, SameLane (w.lane m) (v.lane m))
        ∧ ∀ m ∈ l :: ls, (v.lane m).park ≠ .fence o.id)
  ∧ (∀ (s : State) (j : Iss) (k : Nat) (spill : Bool),
      let a := j.uval s (0x50#7 + BitVec.ofNat 7 k)
      let reg := (s.nodeOf j.w).region
      let bad := fun (c : Nat) => j.enqueue s k spill = .error { cls := c, addr := a, lanes := j.lanes }
      a.toNat < 2 ^ 56 →
      (a.toNat % 128 ≠ 0 → bad 0x03)
      ∧ (a.toNat % 128 = 0 → apertureOf a.toNat = .privateMem → bad 0x05)
      ∧ (a.toNat % 128 = 0 → apertureOf a.toNat ≠ .privateMem →
          (∀ d, j.reach s 5 (j.lanes.headD 0) a 128 .load = .error d → bad d.cls)
          ∧ (∀ x, j.reach s 5 (j.lanes.headD 0) a 128 .load = .ok x →
              let s0 := s.touchAll (j.who s 5) false x.vias
              let s1 := countReads s0 [(0, x)]
              let q := natLE (x.flats.map (s0.view j.w.core 2))
              let formed := nodeRecordOk q = true ∧ q / 2 ^ 8 % 2 ^ 4 = 2 ∧ q / 2 ^ 16 % 2 ^ 16 = 0
                ∧ (s1.kernelOf reg.pasid reg.pasid (BitVec.ofNat 64 (q / 2 ^ 64 % 2 ^ 64))).isSome = true
              (∀ f ∈ x.flats, s0.poisonAt j.w.core 2 f = false) →
              (formed → j.enqueue s k spill = .ok (s1.placeRecord reg reg.pasid a q spill))
              ∧ (¬ formed → j.enqueue s k spill = .error { cls := 0x02, addr := j.word s, lanes := j.lanes, kind := 7, idx := k }))))
  ∧ (∀ (s : State) (r : Region) (pasid : Nat) (source : Word) (p : Nat) (spill : Bool),
      let wr := s.ringWr r.ringOf
      let rd := s.ringRd r.ringOf
      let x := s.placeRecord r pasid source p spill
      let room := (s.queueOf r.ringOf).length < r.dqcap ∧ (spill = false ∨ wr = rd)
      let ring := spill = true ∧ r.ringSize ≠ 0 ∧ (wr + 65536 - rd) % 65536 < 2 ^ r.ringSize
      (room → x.2 = 0 ∧ x.1.queueOf r.ringOf = s.queueOf r.ringOf ++ [s.serial] ∧ x.1.mem = s.mem
        ∧ (x.1.node s.serial).kref.toNat = p / 2 ^ 64 % 2 ^ 64 ∧ (x.1.node s.serial).status = .queued)
      ∧ (¬ room → ring → x.2 = 1 ∧ x.1.queueOf r.ringOf = s.queueOf r.ringOf)
      ∧ (¬ room → ¬ ring → x = (s, 2)))
  ∧ (∀ (s : State) (rcb : Nat),
      (s.ringWr rcb = s.ringRd rcb → exec (.ringMove rcb) s = .next s)
      ∧ (s.rcb rcb 384 16 ≤ (s.queueOf rcb).length → exec (.ringMove rcb) s = .next s)
      ∧ (∀ e, s.ringWr rcb ≠ s.ringRd rcb → (s.queueOf rcb).length < s.rcb rcb 384 16 →
          s.spilled.find? (fun (e : Spilled) => e.queue == rcb && e.index == s.ringRd rcb) = some e → rcb + 128 ≤ deviceBytes →
          ∃ t, exec (.ringMove rcb) s = .next t ∧ t.queueOf rcb = s.queueOf rcb ++ [s.serial] ∧ t.spilled = s.spilled.filter (fun x => x != e)
            ∧ t.ringRd rcb = (s.ringRd rcb + 1) % 65536
            ∧ (let q := s.num (s.rcb rcb 320 56 + 128 * (s.ringRd rcb % 2 ^ s.rcb rcb 376 4)) 128
              t.node s.serial = { nodeOfRecord q e.rcb e.pasid e.source with status := .queued, order := s.serial })
            ∧ ∀ x, x < rcb + 105 ∨ rcb + 107 ≤ x → t.peek x = s.peek x))

/-! ### Control and status registers, messages, meters -/

/-- R31, R32, R200: CSRR completes with the CSR's value in each lane; an access that R31's map does not give, by number, kind and mode, is an illegal
instruction. CSRW puts its operand into a CSR that can hold it, and any other operand is an illegal operand; CSRS ORs it in, and gives the old
value. In handler mode, CSRW of a field of a loop level changes the saved level (R268; not COUNT or INDEX of a wrapper, R298; START and END move
in residual code too, R297), and CSRW of PCV sets the resume PCs of the lanes of the issuing set. R346: METR completes with the counter that its
operand names of the slot to which its TAG is bound; a TAG that is 0 or not bound is a metering-isolation fault, and a reserved bit an illegal
operand. -/
def Obligations.ControlRegisters : Prop :=
  (∀ (d : BitVec 6) (a : BitVec 7) (n : BitVec 11),
    (n ≠ 0x032 → Completes (.csrr d n) (fun _ j => { dst := [d], legal := (csrAccess n.toNat j.w.handler).read })
      (givesEach d (fun s j l => j.readCsr s n.toNat l)))
    ∧ (∀ s (j : Iss) l,
        let x := j.w.lane l
        (j.readCsr s 0x000 l).toNat = j.w.flags.toNat ∧ (j.readCsr s 0x002 l).toNat = j.w.amax.toNat
        ∧ j.readCsr s 0x003 l = (if j.w.amaxnan then 1 else 0) ∧ (j.w.handler = false → j.readCsr s 0x010 l = x.pc)
        ∧ (x.tid < 2 ^ 14 → l < 32 → (j.readCsr s 0x011 l).toNat = x.tid + 2 ^ 14 * l)
        ∧ (∀ m, (j.readCsr s 0x012 l).getLsbD m = (decide (m < 32) && (j.w.lane m).live))
        ∧ (j.readCsr s 0x020 l).toNat = j.w.ackseq.toNat ∧ j.readCsr s 0x030 l = j.w.msgdst ∧ j.readCsr s 0x060 l = j.w.privlim
        ∧ (∀ k f, k < 4 → f < 8 → j.w.handler = false → (j.w.level k).active = false → j.readCsr s (0x40 + 8 * k + f) l = 0)
        ∧ (∀ k, k < 8 → j.readCsr s (0x200 + k) l = j.w.record.extractLsb' (64 * k) 64
            ∧ j.readCsr s (0x208 + k) l = j.w.prior.extractLsb' (64 * k) 64)
        ∧ j.readCsr s 0x300 l = (if j.w.handler then 1 else 0))
    ∧ (let writes := fun (n : BitVec 11) (bound : State → Iss → Nat → Prop) (put : Warp → Word → Warp) =>
        CompletesIf (.csrw a n) (fun _ j => { uni := [a], legal := n.toNat < 0x40 || j.w.handler })
          (fun s j => bound s j (j.uval s a).toNat) (fun s j => put j.w (j.uval s a))
        ∧ ∀ s j, Executes s j { uni := [a], legal := n.toNat < 0x40 || j.w.handler } → ¬ bound s j (j.uval s a).toNat →
            exec (.csrw a n) s = .next (j.fault s { cls := 0x02, addr := j.word s, lanes := j.lanes })
       writes 0x000 (fun _ _ v => v < 64) (fun w v => { w with flags := v.setWidth 6 })
       ∧ writes 0x002 (fun _ _ v => v < 2 ^ 32) (fun w v => { w with amax := v.setWidth 32 })
       ∧ writes 0x003 (fun _ _ v => v < 2) (fun w v => { w with amaxnan := v == 1 })
       ∧ writes 0x030 (fun _ _ v => v < 512) (fun w v => { w with msgdst := v })
       ∧ writes 0x060 (fun s j v => v % 4 = 0 ∧ v ≤ (s.nodeOf j.w).kernel.priv) (fun w v => { w with privlim := v }))
    ∧ (∀ k f, k < 4 → f < 8 → n.toNat = 0x40 + 8 * k + f →
        let moved := fun (s : State) (j : Iss) (v : Level) (cur : BitVec 56) (x : Word) =>
          if v.res then (fromOrig (s.jigOf j.w) (s.nodeOf j.w).kernel.codeVa (cur.setWidth 64) x).setWidth 56 else cur
        let put := fun (s : State) (j : Iss) (v : Level) (x : Word) =>
          if f = 0 then { v with count := x.setWidth 32 }
          else if f = 1 then { v with index := x.setWidth 33 }
          else if f = 2 then { v with ostart := x.setWidth 56, start := moved s j v v.start x }
          else if f = 3 then { v with olast := x.setWidth 56, last := moved s j v v.last x }
          else if f = 4 then { v with active := x.getLsbD 7, un := x.getLsbD 4, rt := x.getLsbD 3, st := x.setWidth 3 }
          else if f = 5 then { v with sm := x.setWidth 8 }
          else if f = 6 then { v with rrb := x.setWidth 4 }
          else { v with back := x.extractLsb' 32 32, exit := x.setWidth 32 }
        let fits := fun (v : Level) (m : Nat) =>
          if f = 0 then v.copies = 0 ∧ m < 2 ^ 32
          else if f = 1 then v.copies = 0 ∧ m < 2 ^ 33
          else if f = 2 ∨ f = 3 then m < 2 ^ 56
          else if f = 4 then m < 256 ∧ m / 2 ^ 5 % 2 ^ 2 = 0
          else if f = 5 then m < 256
          else if f = 6 then m < 16
          else True
        let use := fun (_ : State) (j : Iss) => ({ uni := [a], legal := j.w.handler } : Uses)
        CompletesIf (.csrw a n) use
          (fun s j => ∃ fr, j.w.frame = some fr ∧ fits (fr.levels.getD k {}) (j.uval s a).toNat)
          (fun s j => { j.w with frame := j.w.frame.map (fun (fr : Frame) =>
            { fr with levels := setAt fr.levels k (fun _ => put s j (fr.levels.getD k {}) (j.uval s a)) }) })
        ∧ ∀ s j fr, Executes s j (use s j) → j.w.frame = some fr → ¬ fits (fr.levels.getD k {}) (j.uval s a).toNat →
            exec (.csrw a n) s = .next (j.fault s { cls := 0x02, addr := j.word s, lanes := j.lanes }))
    ∧ Completes (.csrw a 0x010) (fun _ j => { srcs := [a], legal := j.w.handler })
        (fun s j => { j.w with frame := j.w.frame.map (fun (f : Frame) => { f with lanes := f.lanes.map (fun e =>
          if e.1 ∈ j.lanes then (e.1, { e.2 with pc := j.val s e.1 a }) else e) }) })
    ∧ CompletesIf (.csrs d a 0x000) (fun _ _ => { uni := [a], dst := [d] }) (fun s j => (j.uval s a).toNat < 64)
        (fun s j => { givesEach d (fun _ j _ => j.w.flags.setWidth 64) s j with flags := j.w.flags ||| (j.uval s a).setWidth 6 })
    ∧ CompletesIf (.csrs d a 0x002) (fun _ _ => { uni := [a], dst := [d] }) (fun s j => (j.uval s a).toNat < 2 ^ 32)
        (fun s j => { givesEach d (fun _ j _ => j.w.amax.setWidth 64) s j with amax := j.w.amax ||| (j.uval s a).setWidth 32 })
    ∧ CompletesIf (.csrs d a 0x003) (fun _ _ => { uni := [a], dst := [d] }) (fun s j => (j.uval s a).toNat < 2)
        (fun s j => { givesEach d (fun _ j _ => if j.w.amaxnan then 1 else 0) s j with
                      amaxnan := j.w.amaxnan || (j.uval s a).getLsbD 0 })
    ∧ (∀ s j, Executes s j { uni := [a], dst := [d] } →
        let bad := fun (m : BitVec 11) => exec (.csrs d a m) s = .next (j.fault s { cls := 0x02, addr := j.word s, lanes := j.lanes })
        (64 ≤ (j.uval s a).toNat → bad 0x000) ∧ (2 ^ 32 ≤ (j.uval s a).toNat → bad 0x002) ∧ (2 ≤ (j.uval s a).toNat → bad 0x003)
        ∧ (512 ≤ (j.w.msgdst ||| j.uval s a).toNat → bad 0x030))
    ∧ (∀ s j, s.issue = some j →
        let acc := csrAccess n.toNat j.w.handler
        let bad := fun (i : Instr) => exec i s = .next (j.fault s { cls := 0x01, addr := j.word s, lanes := j.lanes })
        (n ≠ 0x032 → acc.read = false → bad (.csrr d n))
        ∧ (n ≠ 0x031 → acc.write = false → bad (.csrw a n))
        ∧ (acc.set = false → bad (.csrs d a n)))
    ∧ CompletesIf (.csrs d a 0x030) (fun _ _ => { uni := [a], dst := [d] }) (fun s j => (j.w.msgdst ||| j.uval s a).toNat < 512)
        (fun s j => { givesEach d (fun _ j _ => j.w.msgdst) s j with msgdst := j.w.msgdst ||| j.uval s a }))
  ∧ (∀ (n : Nat) (h : Bool),
    let acc := csrAccess n h
    (acc.read = true ↔ n ∈ [0x000, 0x002, 0x003, 0x010, 0x011, 0x012, 0x020, 0x030, 0x032, 0x060, 0x070, 0x300] ∨ 0x040 ≤ n ∧ n ≤ 0x05F
      ∨ 0x100 ≤ n ∧ n ≤ 0x10F ∨ 0x140 ≤ n ∧ n ≤ 0x143 ∨ h = true ∧ 0x200 ≤ n ∧ n ≤ 0x20F)
    ∧ (acc.write = true ↔ n ∈ [0x000, 0x002, 0x003, 0x030, 0x031] ∨ h = true ∧ (n ∈ [0x010, 0x060] ∨ 0x040 ≤ n ∧ n ≤ 0x05F))
    ∧ (acc.set = true ↔ n ∈ [0x000, 0x002, 0x003, 0x030]))
  ∧ (∀ (d : BitVec 5) (a : BitVec 7),
    let bound := fun (s : State) (j : Iss) => mget (s.nodeOf j.w).region.meter ((j.uval s a).toNat % 1024)
    CompletesIf (.metr d a) (fun _ _ => { uni := [a] })
      (fun s j => (j.uval s a).toNat < 4096 ∧ (j.uval s a).toNat % 1024 ≠ 0 ∧ (bound s j).isSome = true)
      (fun s j =>
        let m := mgetD s.meters ((bound s j).getD 0) { inst := 0 }
        let x : Word := [BitVec.ofNat 64 m.macs.toNat, BitVec.ofNat 64 (m.macs.toNat / 2 ^ 64), m.rbytes, m.seq].getD
          ((j.uval s a).toNat / 1024) 0
        { j.w with s := mput {} j.w.s d.toNat (clean x) })
    ∧ ∀ s j, Executes s j { uni := [a] } →
        (4096 ≤ (j.uval s a).toNat → exec (.metr d a) s = .next (j.fault s { cls := 0x02, addr := j.word s, lanes := j.lanes }))
        ∧ ((j.uval s a).toNat < 4096 → (j.uval s a).toNat % 1024 = 0 ∨ bound s j = none →
            exec (.metr d a) s = .next (j.fault s
              { cls := 0x10, addr := BitVec.ofNat 64 ((j.uval s a).toNat % 1024), lanes := j.lanes })))

/-- R238, R239: MSGS (or CSRW of 0x031), to a core that holds a resident workgroup of the region, and with room in its slices, sends one message from
each lane, in rising lane order; elsewhere it is a protection fault. MESSAGE_ARRIVAL moves the oldest message for a core into its FIFO while that
holds fewer than 64. MSGR (or CSRR of 0x032) makes its lanes wait; MSGR_DELIVERY gives the lanes of the reader that is served the oldest messages
of its region, one each, and they go on. Which reader is served, and which messages of saved workgroups wait, is log entry 17. -/
def Obligations.Messages : Prop :=
  (∀ (a : BitVec 7), ∀ i ∈ [Instr.msgs a, .csrw a 0x031],
    let resident := fun (s : State) (j : Iss) => ∃ e ∈ s.wgs, e.2.status ≠ .ended ∧ e.2.status ≠ .saved
      ∧ (s.node e.2.node).region.rcb = (s.nodeOf j.w).region.rcb ∧ (mget e.2.cores j.w.msgdst.toNat).isSome = true
    CompletesFrom i (fun _ _ => { srcs := [a] })
      (fun s j => resident s j ∧ (s.transit.filter (fun m => m.dst == j.w.msgdst.toNat)).length + j.lanes.length ≤ 64)
      (fun s j => { s with transit := s.transit ++ j.lanes.map (fun l =>
        { dst := j.w.msgdst.toNat, src := j.w.core, region := (s.nodeOf j.w).region.rcb, value := j.val s l a }) })
      (fun _ j => j.w) (fun _ j l => (j.w.lane l).pc + 4)
    ∧ ∀ s j, Executes s j { srcs := [a] } → ¬ resident s j → exec i s = .next (j.fault s { cls := 0x05, lanes := j.lanes }))
  ∧ (∀ (s : State) (core : Nat) (m : Message), s.transit.find? (fun m => m.dst == core && !s.awayFrom core m.region) = some m →
      let n := (s.fifo.filter (fun x => x.dst == core)).length
      (n < 64 → exec (.messageArrival core) s = .next { s with transit := s.transit.erase m, fifo := s.fifo ++ [m] })
      ∧ (64 ≤ n → exec (.messageArrival core) s = .next s))
  ∧ (∀ (d : BitVec 6), ∀ i ∈ [Instr.msgr d, .csrr d 0x032], ∀ s j, Executes s j { dst := [d] } →
      WaitsWith i s j (fun _ => .message d.toNat s.serial) (fun t => t.mem = s.mem ∧ t.fifo = s.fifo ∧ t.serial = s.serial + 1))
  ∧ (∀ (s : State) (core k d : Nat) (ls : List Nat) (ms : List Message) (w : Warp), s.nextReader core = some (k, ls, d, ms) →
      s.warp k = some w →
      (ms.length = ls.length ∧ ∀ m ∈ ms, m.dst = core ∧ m.region = (s.nodeOf w).region.rcb ∧ m ∈ s.fifo)
      ∧ ∃ t v, exec (.msgrDelivery core) s = .next (State.settle t k) ∧ t.mem = s.mem ∧ t.transit = s.transit
          ∧ t.fifo = ms.foldl (fun f m => f.erase m) s.fifo ∧ t.warp k = some v
          ∧ (∀ m, m ≠ k → t.warp m = s.warp m)
          ∧ (∀ l, l ∉ ls → SameLane (w.lane l) (v.lane l))
          ∧ ∀ l m, (l, m) ∈ ls.zip ms → ls.Nodup → l < w.lanes.length →
              let x : RVal := { bits := m.value, poison := m.poison }
              let y := w.lane l
              let regs := if BitVec.ofNat 6 d = 63 then y.regs else mput {} y.regs (w.physical (BitVec.ofNat 6 d).toNat) x
              SameLane { y with queue := x :: y.queue.take 15, regs := regs } (v.lane l))

/-! ### Faults -/

/-- R367: the fields of a fault record; the reserved ones read 0, and RECOV and NEST are as said. -/
def Obligations.FaultRecord : Prop :=
  ∀ (s : State) (w : Warp) (f : FaultInfo) (opc rpc : Word) (recov nest : Bool),
    f.cls < 2 ^ 8 → w.index < 512 → f.kind < 16 → f.idx < 16 → w.depth ≤ 4 → opc.toNat < 2 ^ 56 → rpc.toNat < 2 ^ 56 →
    (∀ l ∈ f.lanes, l < 32) → (s.nodeOf w).region.pasid < 2 ^ 20 →
    (∀ e, f.eng = some e → e.ctx < 4 ∧ e.jaddr < 2 ^ 40 ∧ e.tlnum < 2 ^ 64 ∧ e.epc.toNat < 2 ^ 56) →
    let r := faultRecord s w f opc rpc recov nest
    let at' := fun (lo n : Nat) => r.toNat / 2 ^ lo % 2 ^ n
    at' 0 8 = f.cls ∧ at' 8 1 = recov.toNat ∧ at' 9 1 = f.eng.isSome.toNat ∧ at' 10 1 = nest.toNat ∧ at' 11 5 = 0
    ∧ at' 16 9 = w.index ∧ at' 25 7 = 0 ∧ (∀ l, l < 32 → (r.getLsbD (32 + l) = true ↔ l ∈ f.lanes))
    ∧ at' 64 56 = rpc.toNat ∧ at' 120 8 = 0 ∧ at' 128 56 = opc.toNat ∧ at' 184 8 = 0 ∧ at' 192 64 = f.addr.toNat
    ∧ at' 256 4 = f.idx ∧ at' 260 4 = f.kind ∧ at' 264 14 = 0 ∧ at' 440 8 = 0
    ∧ at' 278 2 = (f.eng.map (fun (e : EngFault) => e.ctx)).getD 3 ∧ at' 280 40 = (f.eng.map (fun (e : EngFault) => e.jaddr)).getD 0
    ∧ at' 320 64 = (f.eng.map (fun (e : EngFault) => e.tlnum)).getD 0 ∧ at' 384 56 = (f.eng.map (fun (e : EngFault) => e.epc.toNat)).getD 0
    ∧ at' 448 32 = (s.nodeOf w).number.toNat ∧ at' 480 20 = (s.nodeOf w).region.pasid ∧ at' 500 5 = 0 ∧ at' 505 3 = w.depth ∧ at' 508 4 = 0

/-- R365, R368 to R370: a fault outside handler mode, on a core that is not halted, of a recoverable kind, where the region's HANDLER is a word that
passes its checks, enters the handler: the record has RECOV and LSNAP set and NEST clear; the frame holds the resume PC (the first hint of the
lane's group, or its PC, R48), queue, guards and parked state of each live lane, s0 to s31 and the levels; no level is active; FMODE is 1; every
live lane stands at HANDLER in one lane set; all else of the warp is as it was (stated where the walk of HANDLER's page wakes no lane at PARK).
Where the core is halted, the fault is held with the warp, the first one of several, and nothing else changes (R378). -/
def Obligations.HandlerEntries : Prop :=
  ∀ (s : State) (k : Nat) (w : Warp) (f : FaultInfo) (opc rpc : Word), s.warp k = some w →
    let h := (s.nodeOf w).region.handler
    let r := faultRecord s w f opc rpc false false
    (s.halted.elem w.core = true → w.held = none →
      s.takeFault k f opc rpc = s.setWarp k { w with held := some (if f.fatal then r ||| (1#512 <<< 11) else r) })
    ∧ (s.halted.elem w.core = true → w.held ≠ none → s.takeFault k f opc rpc = s)
    ∧ (s.halted.elem w.core = false → w.handler = false → f.fatal = false → h ≠ 0 → h.toNat % 4 = 0 →
        s.fetchAt w (BitVec.ofNat 64 h.toNat) true = .ok 0x8BFE1C03#32 → w.wants = none →
        ((s.cancelWaits k).touchFetch w (BitVec.ofNat 64 h.toNat)).warps = s.warps →
        ∃ v fr, (s.takeFault k f opc rpc).warp k = some v ∧ v.frame = some fr ∧ v.handler = true
          ∧ v.record = r ||| (1#512 <<< 8) ||| (1#512 <<< 504) ∧ v.prior = w.prior
          ∧ (∀ n, (v.level n).active = false)
          ∧ { v with lanes := w.lanes, levels := w.levels, frame := w.frame, handler := false, record := w.record, held := w.held, wait := w.wait } = w
          ∧ fr.s = w.s
          ∧ fr.lanes = ((List.range 32).filter (fun l => (w.lane l).live)).map (fun l =>
              let x := w.lane l
              let y := x.rested
              let pc := x.resumePc (s.code w)
              (l, { pc := pc, found := pc, place := (y.pc, y.rpc), queue := x.queue, guards := x.guards, park := y.park }))
          ∧ (∀ l, (w.lane l).rpc = none → (w.lane l).hint = none → (w.lane l).resumePc (s.code w) = (w.lane l).pc)
          ∧ (∀ l x, (w.lane l).hint = some x → x.firstR = none → (w.lane l).resumePc (s.code w) = x.first)
          ∧ (∀ n, n < 4 → (w.level n).copies = 0 → fr.levels.getD n {} = w.level n)
          ∧ (∀ l, let x := { w.lane l with pc := BitVec.ofNat 64 h.toNat, rpc := none, hint := none, park := .no, age := 0 }
              v.lane l = if (w.lane l).live then { x with yield := 0, blocked := 0 } else w.lane l)
          ∧ ∀ m, m ≠ k → (s.takeFault k f opc rpc).warp m = s.warp m)

/-- R371: a fault raised while FMODE is 1 moves the record to the prior one; the new record has NEST 1 and RECOV 0, and is the faulting
word's otherwise; the fault-domain action applies, and the handler is not entered again. (On a core that is not halted; on a halted one it
is held until then, R378.) -/
def Obligations.NestedFaults : Prop :=
  ∀ (s : State) (k : Nat) (w : Warp) (f : FaultInfo) (opc rpc : Word), s.warp k = some w → w.handler = true →
    s.halted.elem w.core = false →
    ∃ r, s.takeFault k f opc rpc = (s.setWarp k { w with prior := w.record, record := r }).faultAction k r (some w.record)
      ∧ r.getLsbD 10 = true ∧ r.getLsbD 8 = false
      ∧ ∀ b, b ≠ 10 → r.getLsbD b = (faultRecord s w f opc rpc false false).getLsbD b

/-- R368, R372, R235: a fault that is not delivered (nested, not recoverable, or without a usable handler) has the action of FDP: the
workgroup ends (0), every workgroup of the node (1), or those of every admitted node of the region and of its descendants (2); the node
counts as faulted. R378: a fault held during a halt of its core is delivered once the halt is over: to the handler where R368 lets it,
else by the action of FDP; nothing happens while the core is halted, or where another of the four ways applies. -/
def Obligations.FaultDomains : Prop :=
  (∀ (s : State) (k : Nat) (w : Warp) (f : FaultInfo) (opc rpc : Word), s.warp k = some w → s.halted.elem w.core = false →
    w.handler = true ∨ f.fatal = true ∨ (s.nodeOf w).region.handler = 0 ∨ handlerOk s w (s.nodeOf w).region.handler.toNat = false →
    ActsOn s (s.takeFault k f opc rpc) w)
  ∧ (∀ (s : State) (k : Nat) (w : Warp) (r : BitVec 512), s.warp k = some w → w.held = some r →
    let n := s.nodeOf w
    let ways := [Instr.handlerEntry k, .killWorkgroup k, .killNode k, .killRegion k]
    let handled := w.handler = false ∧ r.getLsbD 11 = false ∧ n.region.handler ≠ 0 ∧ handlerOk s w n.region.handler.toNat = true
    let due : Instr := if n.region.fdp = 0 then .killWorkgroup k else if n.region.fdp = 1 then .killNode k else .killRegion k
    (s.halted.elem w.core = true → ∀ i ∈ ways, exec i s = .next s)
    ∧ (s.halted.elem w.core = false → handled → (∀ i ∈ ways.drop 1, exec i s = .next s)
        ∧ ∃ t v, exec (.handlerEntry k) s = .next t ∧ t.warp k = some v ∧ v.handler = true ∧ v.held = none
          ∧ v.record = r ||| (1#512 <<< 8) ||| (1#512 <<< 504)
          ∧ ∀ l, (w.lane l).live = true → (v.lane l).pc = BitVec.ofNat 64 n.region.handler.toNat)
    ∧ (s.halted.elem w.core = false → ¬ handled → (∀ i ∈ ways, i ≠ due → exec i s = .next s)
        ∧ ∃ t, exec due s = .next t ∧ ActsOn s t w))

/-- R374: TRAP raises a software trap of its issuing lane set with ADDR its CODE; the lanes' resume PC is the next word (where no level
and no residual code is concerned), and the record's PCs are the TRAP's own. Without a handler it ends the work. -/
def Obligations.SoftwareTraps : Prop :=
  ∀ (c : BitVec 24) (s : State) (j : Iss), Executes s j { sys := true } →
    let f : FaultInfo := { cls := 0x14, addr := BitVec.ofNat 64 c.toNat, lanes := j.lanes }
    ∃ t v, exec (.trap c) s = .next ((t.takeFault j.k f j.lead.pc (j.lead.rpc.getD j.lead.pc)).settle j.k)
      ∧ Reaches s t j.k j.w ∧ t.warp j.k = some v
      ∧ (Plain j → ∀ l, v.lane l = if l ∈ j.lanes then landed ((j.w.lane l).pc + 4) (j.w.lane l) else j.w.lane l)
      ∧ (s.halted.elem j.w.core = false → (s.nodeOf j.w).region.handler = 0 →
          ActsOn t (t.takeFault j.k f j.lead.pc (j.lead.rpc.getD j.lead.pc)) v)

/-- R375, R377: BKPT halts its core where the host has enabled debug halts for the region, and is a breakpoint fault elsewhere; the lanes stay at it.
The end of a halt lets the core issue again. While a core is halted the debugger reads and writes the state of its warps (registers, PCs, queues,
guards, tile handles, descriptors, CSRs), and on another core it does nothing (which number names which value is the model's choice, log entry
41). -/
def Obligations.Breakpoints : Prop :=
  (∀ (c : BitVec 24) (s : State) (j : Iss), Executes s j { sys := true } →
    let on := ∃ n < 4, (s.reg (0x2300 + 8 * n)).getLsbD 63 = true ∧ (s.reg (0x2300 + 8 * n)).toNat % 2 ^ 20 = (s.nodeOf j.w).region.pasid
    (on → ∃ t, exec (.bkpt c) s = .next (State.settle t j.k) ∧ { t with halted := s.halted } = s
        ∧ ∀ x, x ∈ t.halted ↔ x = j.w.core ∨ x ∈ s.halted)
    ∧ (¬ on → exec (.bkpt c) s = .next (j.fault s { cls := 0x15, addr := BitVec.ofNat 64 c.toNat, lanes := j.lanes })))
  ∧ (∀ (s : State) (core : Nat), ∃ t, exec (.debugHaltEnd core) s = .next t ∧ t.mem = s.mem ∧ t.warps = s.warps
      ∧ ∀ x, x ∈ t.halted ↔ x ∈ s.halted ∧ x ≠ core)
  ∧ (∀ (s : State) (k l n : Nat) (v : Word) (w : Warp), s.warp k = some w → ∀ wr : Bool,
      (s.halted.elem w.core = false → exec (.debuggerAccess wr k l n v) s = .next s)
      ∧ (s.halted.elem w.core = true →
          (wr = false → ∃ x : Word, exec (.debuggerAccess wr k l n v) s = .next { s with hostRead := bytesLE 8 x.toNat }
            ∧ (n < 63 → x = (mgetD (w.lane l).regs n {}).bits) ∧ (n = 63 → x = (w.lane l).pc)
            ∧ (64 ≤ n → n < 80 → x = ((w.lane l).queue.getD (n - 64) {}).bits)
            ∧ (80 ≤ n → n < 112 → x = (mgetD w.s (n - 80) {}).bits) ∧ (n = 112 → x = (w.lane l).guards.setWidth 64)
            ∧ (128 ≤ n → n < 160 → x = (mgetD w.t ((n - 128) / 2) 0).extractLsb' (64 * (n % 2)) 64)
            ∧ (160 ≤ n → n < 224 → x = (mgetD w.d ((n - 160) / 4) 0).extractLsb' (64 * (n % 4)) 64)
            ∧ (n = 2048 → x = w.flags.setWidth 64) ∧ (n = 2050 → x = w.amax.setWidth 64))
          ∧ (wr = true → ∃ t, exec (.debuggerAccess wr k l n v) s = .next t ∧ OnlyWarp s t k
              ∧ ∃ x, t.warp k = some x ∧ (∀ m, m ≠ l → x.lane m = w.lane m)
                ∧ (n < 63 → l < w.lanes.length → mgetD (x.lane l).regs n {} = clean v)
                ∧ (80 ≤ n → n < 112 → mgetD x.s (n - 80) {} = clean v)
                ∧ (n = 112 → l < w.lanes.length → (x.lane l).guards = v.setWidth 8 &&& 0xFE)
                ∧ (n = 2048 → v.toNat < 64 → x.flags = v.setWidth 6))))

/-- R376: ERET is an illegal instruction outside handler mode (a condition of `Meets`). When every live lane has reached it, and the resume PCs and
the saved levels pass their checks, FMODE is 0, the frame is gone, s0 to s31, each lane's queue and guards and the levels are those of the frame,
and the lanes stand where they waited, or at the resume PC that the handler has given them. (Where no level of the frame is active, and no
residual code runs.) A lane that waited at PARK counts the resumption as its wake. A resume PC that fails its checks is a fault, nested, and so is
a saved level that breaks the rules of levels (R282); nothing is restored. -/
def Obligations.HandlerReturn : Prop :=
  ∀ (s : State) (j m : Iss) (f : Frame), Meets s j m 0 (fun _ i => { sys := true, legal := i.w.handler }) → m.w.frame = some f →
    let ls := (f.lanes.filter (fun e => (m.w.lane e.1).live)).map (fun e => (e.1, e.2.pc))
    ((∀ e ∈ ls, e.2.toNat % 4 = 0 ∧ ∃ x, s.fetchAt m.w e.2 false = .ok x) → (∀ v ∈ f.levels, v.active = false) → s.jigOf m.w = none →
      (f.lanes.map Prod.fst).Nodup →
      ∃ t v, exec .eret s = .next (State.settle t j.k) ∧ t.warp j.k = some v ∧ v.handler = false ∧ v.frame = none ∧ v.s = f.s
        ∧ v.levels = f.levels
        ∧ { v with lanes := m.w.lanes, levels := m.w.levels, handler := true, frame := m.w.frame, s := m.w.s } = { m.w with handler := true }
        ∧ (∀ l, (∀ e ∈ f.lanes, e.1 ≠ l) ∨ (m.w.lane l).live = false → SameLane (m.w.lane l) (v.lane l) ∧ (v.lane l).pc = (m.w.lane l).pc)
        ∧ (∀ e ∈ f.lanes, (m.w.lane e.1).live = true → ∃ p, v.lane e.1 =
            { m.w.lane e.1 with pc := if e.2.pc = e.2.found then e.2.place.1 else e.2.pc, rpc := none, yield := 0, queue := e.2.queue, guards := e.2.guards, hint := none, age := 0,
                                blocked := 0, park := p }
            ∧ (e.2.park = .no → p = .no) ∧ (∀ a c b, e.2.park = .watch a c b → p = if e.2.pc = e.2.found then .watch a c true else .no)))
    ∧ (∀ x, resumeFault s m.w ls = some x → exec .eret s = .next ((m.fault (s.setWarp j.k m.w) x).settle j.k))
    ∧ (∀ k, resumeFault s m.w ls = none → brokenLevel f.levels (m.named s) = some k →
        exec .eret s = .next ((m.fault (s.setWarp j.k m.w) { cls := 0x09, lanes := m.lanes, kind := 4, idx := k }).settle j.k))

/-! ### The host, the links and the device as a whole -/

/-- R332: the write that submits a well-formed request, while fewer than 64 are pending, removes each held translation of its spaces whose pages its
range overlaps, leaves with G set only where ALLP is; the request is pending. A malformed one removes nothing. The oldest request is counted in
INVDONE, and the parked WAITs whose address it covers are due again, once nothing before it is under way and the bytes that its pages' stores have
left in caches have gone home and are acknowledged, and not before; migrating pages are looked at then (log entry 44). R391 to R393: ENABLE takes
1 when the device is ready and not in service: it starts service where the initialisation registers hold values in range, else DEVSTAT[4] is set.
A write of any value clears ERRCNT, CONGEST and EVLOST. A register write has the effect of the register at its offset: the doorbell, of PASID 0
(log entry 45), INVREQ, commands, registrations, ENABLE, the counters; it is held by RPTRD, EVRD, DBGEN, ROUTE and EXPORT, and out of service by
an initialisation register, while in service that stays, and the write is logged. A malformed entry of EXPORT in use is logged (R361), and a route
over ports that are not all down is lost no more (R362; log entries 21, 48). Read-only and unnamed registers and offsets between doublewords stay
as they are. -/
def Obligations.HostRegisters : Prop :=
  ((∀ (s : State) (v : BitVec 64),
    let q : BitVec 128 := v ++ s.invLow
    let n := q.toNat
    let good := n / 2 ^ 84 = 0 ∧ n / 2 ^ 56 % 2 ^ 8 = 0 ∧ n / 2 ^ 8 % 2 ^ 4 = 0 ∧ n % 2 ^ 6 ≤ 44
    let first := n / 2 ^ 12 % 2 ^ 44 * 4096
    let hit := fun (e : TlbEntry) => (n / 2 ^ 6 % 2 = 1 ∨ n / 2 ^ 64 % 2 ^ 20 = e.pasid)
      ∧ (n / 2 ^ 7 % 2 = 1 ∨ first < (e.vpn + 1) * 2 ^ e.size ∧ e.vpn * 2 ^ e.size < first + 2 ^ (n % 2 ^ 6 + 12))
      ∧ (e.level = 2 ∨ n / 2 ^ 6 % 2 = 1 ∨ e.leaf.getLsbD 4 = false)
    (good → s.invReqs.length < 64 → ∃ t, exec (.invalidationRequest v) s = .next t ∧ t.invReqs = s.invReqs ++ [(q, s.serial)]
        ∧ (∀ e, e ∈ t.tlb ↔ e ∈ s.tlb ∧ ¬ hit e) ∧ { t with tlb := s.tlb, invReqs := s.invReqs } = s)
    ∧ (good → 64 ≤ s.invReqs.length → exec (.invalidationRequest v) s = .next s)
    ∧ (¬ good → ∃ t, exec (.invalidationRequest v) s = .next t ∧ t.tlb = s.tlb ∧ t.invReqs = s.invReqs ∧ t.evseq = s.evseq + 1))
  ∧ (∀ (s : State) (v : BitVec 128) (before : Nat) (r : List (BitVec 128 × Nat)), s.invReqs = (v, before) :: r →
      (s.invWaits v before = true ∨ s.invLocked v = true → exec .invalidationComplete s = .next s)
      ∧ (s.invWaits v before = false → s.invLocked v = false →
          (before ≠ 0 → exec .invalidationComplete s = .next { s.pushCovered v with invReqs := (v, 0) :: r })
          ∧ (before = 0 → ∃ t : State, exec .invalidationComplete s = .next (t.seeMigrations v) ∧ (s.invSpaces v = [] → t.seeMigrations v = t)
              ∧ t.invReqs = r ∧ t.reg 0x20 = s.reg 0x20 + 1 ∧ t.mem = s.mem ∧ t.warps = s.warps
              ∧ t.parked = s.parked.map (fun e => if e.covered v then { e with due := 0 } else e)))))
  ∧ (∀ (s : State) (v : BitVec 64) (d : BitVec 3) (off : BitVec 16),
    let clears := fun (i : Instr) (r : Nat) => ∃ t, exec i s = .next t ∧ t.reg r = 0 ∧ (∀ o, o ≠ r → t.reg o = s.reg o) ∧ { t with bar := s.bar } = s
    let o := off.toNat
    (v = 1 → s.enabled = false → s.ready = true →
      exec (.enable v) s = .next (if s.initOk then { s with enabled := true, refused := false } else { s with refused := true }))
    ∧ (v ≠ 1 ∨ s.enabled = true ∨ s.ready = false → exec (.enable v) s = .next s)
    ∧ clears (.errcnt d) (0x2100 + 8 * d.toNat) ∧ clears (.congest v) 0x2200 ∧ clears (.evlost v) 0x160
    ∧ (let named := o ∈ [0x0, 0x10, 0x18, 0x28, 0x30, 0x40, 0x158, 0x160, 0x170, 0x2200] ∨ 0x100 ≤ o ∧ o ≤ 0x148 ∨ 0x800 ≤ o ∧ o < 0x1400
          ∨ 0x2100 ≤ o ∧ o < 0x2140 ∨ 0x2300 ≤ o ∧ o ≤ 0x2318
       o % 8 ≠ 0 ∨ ¬ named → exec (.registerWrite off v) s = .next s)
    ∧ (o = 0x0 → exec (.registerWrite off v) s = exec (.doorbell 0 v) s)
    ∧ (o = 0x10 → exec (.registerWrite off v) s = .next { s with invLow := v })
    ∧ (o = 0x18 → exec (.registerWrite off v) s = exec (.invalidationRequest v) s)
    ∧ (o = 0x160 → exec (.registerWrite off v) s = exec (.evlost v) s)
    ∧ (o = 0x170 → exec (.registerWrite off v) s = exec (.enable v) s)
    ∧ (o = 0x2100 + 8 * d.toNat → exec (.registerWrite off v) s = exec (.errcnt d) s)
    ∧ (o = 0x2200 → exec (.registerWrite off v) s = exec (.congest v) s)
    ∧ (o = 0x28 → exec (.registerWrite off v) s = .next { s with meterCmds := s.meterCmds ++ [v.toNat] })
    ∧ (o = 0x30 → exec (.registerWrite off v) s = .next { s with regCmds := s.regCmds ++ [v.toNat] })
    ∧ (o % 8 = 0 → (0x100 ≤ o ∧ o ≤ 0x148 ∧ s.enabled = false) ∨ o = 0x40 ∨ o = 0x158 ∨ 0x2300 ≤ o ∧ o ≤ 0x2318 →
        ∃ t, exec (.registerWrite off v) s = .next t ∧ t.reg o = v ∧ (∀ p, p ≠ o → t.reg p = s.reg p) ∧ { t with bar := s.bar } = s)
    ∧ (o % 8 = 0 → 0x100 ≤ o → o ≤ 0x148 → s.enabled = true → ∃ t, exec (.registerWrite off v) s = .next t
        ∧ (∀ p, 0x100 ≤ p → p ≤ 0x148 → t.reg p = s.reg p) ∧ t.evseq = s.evseq + 1)
    ∧ (o % 8 = 0 → 0x800 ≤ o → o < 0x1000 →
        let down := (∃ p < 24, v.getLsbD p = true) ∧ ∀ p < 24, v.getLsbD p = true → (s.port p).rate = 0 ∧ (s.port p).since + 2 ^ 20 ≤ s.cycle
        ∃ t, exec (.registerWrite off v) s = .next t ∧ t.reg o = v ∧ (∀ p, p ≠ o → t.reg p = s.reg p)
          ∧ (∀ p, p ∈ t.lost ↔ p ∈ s.lost ∧ (p ≠ (o - 0x800) / 8 ∨ down)) ∧ { t with bar := s.bar, lost := s.lost } = s)
    ∧ (o % 8 = 0 → 0x1000 ≤ o → o < 0x1400 →
        let lo := (if o % 16 = 0 then v else s.reg (o - 8)).toNat
        let hi := (if o % 16 = 0 then s.reg (o + 8) else v).toNat
        let bad := lo / 2 ^ 63 = 1 ∧ (2 ^ 19 ≤ hi ∨ lo / 2 ^ 40 % 2 ^ 21 ≠ 0 ∨ lo / 2 ^ 19 % 2 ^ 13 ≠ 0 ∨ hi = 0 ∨ 393216 < lo % 2 ^ 19 + hi)
        ∃ t, exec (.registerWrite off v) s = .next t ∧ t.reg o = v ∧ (∀ p, 0x1000 ≤ p → p < 0x1400 → p ≠ o → t.reg p = s.reg p)
          ∧ (bad → t.evseq = s.evseq + 1) ∧ (¬ bad → (∀ p, p ≠ o → t.reg p = s.reg p) ∧ { t with bar := s.bar } = s)))

/-- R355, R361, R191: a BAR2 read answers the bytes of device memory, once the locks of their lines are free (R215), and a BAR2 write leaves its bytes
at home, each line's tag one up, and every other byte as it was; beyond 768 GiB, or the size that BAR2 has (R354, log entry 5), it does nothing. A
peer's request has the same effect, or the atomic's, where an entry of the export table in use gives it the right for every byte, and none
elsewhere. What a refused request answers is log entry 45. -/
def Obligations.OutsideAccesses : Prop :=
  ∀ (s : State) (pa n : Nat) (data : BitVec 512) (peer : BitVec 8),
    let stop := pa + Nat.min n 64
    let written := fun (t : State) => (∀ a, t.peek a = if pa ≤ a ∧ a < stop then data.extractLsb' (8 * (a - pa)) 8 else s.peek a)
      ∧ (pa + n ≤ deviceBytes → ∀ a, pa ≤ a → a < stop → t.tagOf (a / 128) = s.tagOf (a / 128) + 1) ∧ t.warps.length = s.warps.length
    let may := fun (right : Nat → Prop) => ∃ e < 64, ∃ b z : Nat,
      let lo := (s.reg (0x1000 + 16 * e)).toNat
      let hi := (s.reg (0x1008 + 16 * e)).toNat
      b = lo % 2 ^ 19 ∧ z = hi ∧ 1 ≤ z ∧ b + z ≤ 393216 ∧ lo / 2 ^ 19 % 2 ^ 13 = 0 ∧ lo / 2 ^ 40 % 2 ^ 21 = 0 ∧ lo / 2 ^ 63 = 1
        ∧ lo / 2 ^ 32 % 2 ^ 8 = peer.toNat ∧ right lo ∧ b * 2 ^ 21 ≤ pa ∧ pa + n ≤ (b + z) * 2 ^ 21
    let rd := fun (lo : Nat) => lo / 2 ^ 61 % 2 = 1
    let wr := fun (lo : Nat) => lo / 2 ^ 62 % 2 = 1
    let fn := data.toNat / 2 ^ 128 % 16
    let read := fun (i : Instr) => ∃ t, exec i s = .next t ∧ t.hostRead = s.bytes pa n ∧ t.mem = s.mem
      ∧ (s.invs = [] → t = { s with hostRead := s.bytes pa n })
    (s.booted = true → pa + n ≤ deviceBytes → pa + n ≤ s.bar2 * 2 ^ 30 →
      read (.hostBar2Access false pa n data)
      ∧ ∃ t, exec (.hostBar2Access true pa n data) s = .next t ∧ written t)
    ∧ (s.booted = false ∨ deviceBytes < pa + n ∨ s.bar2 * 2 ^ 30 < pa + n → ∀ w, exec (.hostBar2Access w pa n data) s = .next { s with hostRead := [] })
    ∧ (may rd → read (.colInboundRequest peer 0 pa n data))
    ∧ (may wr → ∃ t, exec (.colInboundRequest peer 1 pa n data) s = .next t ∧ written t)
    ∧ (¬ may rd → exec (.colInboundRequest peer 0 pa n data) s = .next { s with hostRead := [] })
    ∧ (¬ may wr → exec (.colInboundRequest peer 1 pa n data) s = .next { s with hostRead := [] })
    ∧ (¬ may (fun lo => rd lo ∧ wr lo) → exec (.colInboundRequest peer 2 pa n data) s = .next { s with hostRead := [] })
    ∧ (may (fun lo => rd lo ∧ wr lo) → n = 4 ∨ n = 8 → pa % n = 0 → fn ≤ 8 → s.rangePoison pa n = false →
        ∃ t, exec (.colInboundRequest peer 2 pa n data) s = .next t ∧ t.hostRead = s.bytes pa n
          ∧ match rmwNew fn (n == 8) (BitVec.ofNat 64 (natLE (s.bytes pa n))) (data.extractLsb' 0 64) (data.extractLsb' 64 64) with
            | none => t.mem = s.mem
            | some v => t.bytes pa n = bytesLE n v.toNat ∧ ∀ a, a < pa ∨ pa + n ≤ a → t.peek a = s.peek a)
    ∧ (may (fun lo => rd lo ∧ wr lo) → n = 4 ∨ n = 8 → pa % n = 0 → fn = 0 ∨ fn = 2 ∨ fn = 8 ∨ fn = 9 ∧ n = 4 → s.rangePoison pa n = false →
        ∃ t, exec (.colInboundRequest peer 3 pa n data) s = .next t ∧ t.hostRead = s.hostRead
          ∧ ∀ v, rmwNew fn (n == 8) (BitVec.ofNat 64 (natLE (s.bytes pa n))) (data.extractLsb' 0 64) (data.extractLsb' 64 64) = some v →
              t.bytes pa n = bytesLE n v.toNat ∧ ∀ a, a < pa ∨ pa + n ≤ a → t.peek a = s.peek a)

/-- R354, R357, R358, R362: the host port trains to a rate and a width that it supports; a Col port trains to Col-1 or Col-2, or goes down, and its
count of cycles starts. A route that has ports, all of them down for 2^20 cycles, is lost, no other; it is lost no longer once a port of it has
trained (the model's choice, log entry 21). R243, R389, R390, R393: in the event of a failing check, a flit whose CRC fails counts as one
corrected error of its domain (Networks, Col or PCIe), and nothing else changes; where another check finds its error, and whether it can correct
it, is open (log entry 55). A check of memory, the caches or an SRAM counts an error that it corrects, and poisons the granule of one that it
cannot correct, counts it and tells of it, unless it is poisoned already. A parity error marks a register poisoned, and one in per-warp state is a
data-poison fault that is not recoverable. A congestion event of a unit that there is (R12) is counted, to 2^32 - 1; the first since CONGEST was
cleared leaves its source. The patrol scrub counts a corrected granule, and poisons and logs one it cannot correct, unless it is poisoned already
(both stated of a granule outside the event ring, whose records are written meanwhile; what it counts again is log entry 46). -/
def Obligations.LinksAndErrors : Prop :=
  (∀ (s : State) (rate width port : Nat) (peer : BitVec 8),
    let mask := s.reg (0x800 + 8 * peer.toNat)
    let gone := (∃ p < 24, mask.getLsbD p = true) ∧ ∀ p < 24, mask.getLsbD p = true → (s.port p).rate = 0 ∧ (s.port p).since + 2 ^ 20 ≤ s.cycle
    (exec (.pcieLinkTrain rate width) s = .next
      (if rate ∈ [32, 64, 128] ∧ width ∈ [4, 8, 16] then { s with pcieRate := rate, pcieWidth := width } else s))
    ∧ (port < 24 → rate = 1 ∨ rate = 2 → ∃ t, exec (.colPortTrain port rate) s = .next t ∧ t.port port = { rate := rate, since := s.cycle }
        ∧ (∀ p, p ≠ port → t.port p = s.port p) ∧ (∀ p, p ∈ t.lost ↔ p ∈ s.lost ∧ (s.reg (0x800 + 8 * p)).getLsbD port = false)
        ∧ { t with ports := s.ports, lost := s.lost } = s)
    ∧ (24 ≤ port ∨ rate ≠ 1 ∧ rate ≠ 2 → exec (.colPortTrain port rate) s = .next s)
    ∧ ((s.port port).rate ≠ 0 → ∃ t, exec (.colPortDown port) s = .next t ∧ t.port port = { rate := 0, since := s.cycle }
        ∧ (∀ p, p ≠ port → t.port p = s.port p) ∧ { t with ports := s.ports } = s)
    ∧ ((s.port port).rate = 0 → exec (.colPortDown port) s = .next s)
    ∧ (gone → ∃ t, exec (.routeLost peer) s = .next t ∧ (∀ p, p ∈ t.lost ↔ p = peer.toNat ∨ p ∈ s.lost) ∧ { t with lost := s.lost } = s)
    ∧ (¬ gone → exec (.routeLost peer) s = .next s))
  ∧ (∀ (s : State) (d : BitVec 3) (unit : BitVec 16) (cls : BitVec 3) (g : Nat),
    let sat := fun (x : Nat) => Nat.min (x + 1) (2 ^ 32 - 1)
    let low := fun (r : Nat) (t : State) => (t.reg r).toNat % 2 ^ 32 = sat ((s.reg r).toNat % 2 ^ 32)
      ∧ (t.reg r).toNat / 2 ^ 32 = (s.reg r).toNat / 2 ^ 32 ∧ (∀ o, o ≠ r → t.reg o = s.reg o) ∧ { t with bar := s.bar } = s
    let ring := (s.reg 0x140).toNat
    let r := 0x2100 + 8 * d.toNat
    let high := fun (t : State) => (t.reg r).toNat / 2 ^ 32 = sat ((s.reg r).toNat / 2 ^ 32) ∧ t.evseq = s.evseq + 1
    (4 ≤ d.toNat → d.toNat ≤ 6 → ∃ t, exec (.flitCrcFailure d) s = .next t ∧ low r t)
    ∧ (d.toNat < 4 ∨ d = 7 → ∃ u place b, exec (.flitCrcFailure d) s = .next (({ s with free := s.free + 4 } : State).checkFinds d.toNat u place b))
    ∧ (∀ u place, d.toNat ≤ 1 ∧ isCached place = true ∨ d = 2 ∧ isCached place = false →
        low r (s.checkFinds d.toNat u place false)
        ∧ (s.isPoison place = true → s.copied u 0 place = false → s.checkFinds d.toNat u place true = s)
        ∧ (s.isPoison place = false → place / 32 * 32 + 32 ≤ ring ∨ ring + 128 * 2 ^ (s.reg 0x148).toNat ≤ place / 32 * 32 →
            let t := s.checkFinds d.toNat u place true
            (∀ k, k < 32 → t.isPoison (place / 32 * 32 + k) = true) ∧ high t))
    ∧ (∀ key w l k b, d = 3 → s.warp key = some w → l < 32 → l < w.lanes.length → k < 64 →
        ((mgetD (w.lane l).regs k {}).poison = true → s.checkFinds 3 key (128 * l + k) b = s)
        ∧ ((mgetD (w.lane l).regs k {}).poison = false → ∃ v,
            let t := s.checkFinds 3 key (128 * l + k) b
            high t ∧ t.warp key = some v ∧ mgetD (v.lane l).regs k {} = { mgetD (w.lane l).regs k {} with poison := true }))
    ∧ (∀ key w place b, d = 3 → s.warp key = some w → 4096 ≤ place → ∃ t opc rpc, high t
        ∧ s.checkFinds 3 key place b = t.takeFault key { cls := 0x11, lanes := w.live, fatal := true } opc rpc)
    ∧ (512 ≤ unit.toNat → exec (.congestionEvent unit cls) s = .next s)
    ∧ (unit.toNat < 512 → (s.reg 0x2200).toNat < 2 ^ 32 → ∃ t, exec (.congestionEvent unit cls) s = .next t ∧ { t with bar := s.bar } = s
        ∧ (t.reg 0x2200).toNat = sat (s.reg 0x2200).toNat
        ∧ t.reg 0x2208 = (if s.reg 0x2200 = 0 then BitVec.ofNat 64 (unit.toNat + cls.toNat * 2 ^ 16) else s.reg 0x2208)
        ∧ ∀ o, o ≠ 0x2200 → o ≠ 0x2208 → t.reg o = s.reg o)
    ∧ (∀ c, 32 * g < deviceBytes → s.rangePoison (32 * g) 32 = true → exec (.patrolScrub g c true) s = .next s)
    ∧ (∀ c, 32 * g < deviceBytes → s.rangePoison (32 * g) 32 = false →
        32 * g + 32 ≤ ring ∨ ring + 128 * 2 ^ (s.reg 0x148).toNat ≤ 32 * g →
        ∃ t, exec (.patrolScrub g c true) s = .next t ∧ (∀ k, k < 32 → t.isPoison (32 * g + k) = true)
          ∧ (t.reg 0x2138).toNat / 2 ^ 32 = sat ((s.reg 0x2138).toNat / 2 ^ 32) ∧ t.evseq = s.evseq + 2)
    ∧ (32 * g < deviceBytes → ∃ t, exec (.patrolScrub g true false) s = .next t ∧ low 0x2138 t)
    ∧ exec (.patrolScrub g false false) s = .next s)

/-- R395, R396: after a cold reset nothing runs and nothing is held: no warp, node, meter, tag or register value, memory of the device all 0; only
what lies outside the device and the creation count stay. A function-level reset ends every admitted node, without event records, and keeps the
meters (log entry 47). TEMP and POWER set or end throttling. Above 120 °C, in any measurement, or below 40 V issue stops and an event is written;
from then on the agenda does nothing but a cold reset. -/
def Obligations.ResetsAndLimits : Prop :=
  ∀ (s : State) (ok : Bool) (temp power : BitVec 64),
    (∃ t, exec (.coldReset ok) s = .next t ∧ t.warps = [] ∧ t.wgs = [] ∧ t.nodes = [] ∧ t.meters = [] ∧ t.tags = [] ∧ t.ops = []
      ∧ t.l1 = [] ∧ t.cc = [] ∧ (∀ r, t.reg r = State.reset.reg r) ∧ t.enabled = false ∧ t.tripped = false ∧ t.booted = ok
      ∧ t.creation = s.creation
      ∧ ∀ a, t.peek a = if hostBase ≤ a ∧ a < scratchFlat 0 0 ∨ peerFlat 0 0 ≤ a then s.peek a else 0)
    ∧ (∃ t, exec .functionLevelReset s = .next t ∧ t.meters = s.meters ∧ t.evseq = s.evseq ∧ t.admitted = 0
      ∧ ∀ k n, mget s.nodes k = some n → n.region.chain ≠ [] → n.status = .copying ∨ n.status = .pooled ∨ n.status = .placed →
          (t.node k).faulted = true ∧ ∀ g x, mget s.wgs g = some x → x.node = k → (t.wg g).status = .ended)
    ∧ (∀ i ∈ [Instr.throttleStart temp power, .throttleEnd temp power], temp.toNat ≤ 960 → ∃ t, exec i s = .next t ∧ t.reg 0x2400 = temp ∧ t.reg 0x2408 = power
      ∧ (∀ o, o ≠ 0x2400 → o ≠ 0x2408 → t.reg o = s.reg o) ∧ t.throttled = decide (840 < temp.toNat ∨ 2600 < power.toNat)
      ∧ { t with bar := s.bar, throttled := s.throttled } = s)
    ∧ (let trips := fun (i : Instr) => ∃ t, exec i s = .next t ∧ t.tripped = true ∧ t.ready = false ∧ t.cur.go = false ∧ t.second = none
          ∧ t.turns = [] ∧ t.evseq = s.evseq + 1 ∧ (s.invs = [] → t.warps = s.warps) ∧ t.reg 0x2400 = temp
       s.tripped = false →
        (960 < temp.toNat → trips (.throttleStart temp power) ∧ trips (.throttleEnd temp power) ∧ trips (.trip temp false))
        ∧ trips (.trip temp true)
        ∧ (temp.toNat ≤ 960 → ∃ t, exec (.trip temp false) s = .next t ∧ t.reg 0x2400 = temp
            ∧ t.throttled = decide (840 < temp.toNat ∨ 2600 < (s.reg 0x2408).toNat) ∧ { t with bar := s.bar, throttled := s.throttled } = s))
    ∧ (s.tripped = true → s.cur.go = false → s.second = none → s.turns = [] → ∀ e r, s.agenda = e :: r → (∀ b, e ≠ .coldReset b) →
        step s = .next { s with agenda := r })

/-- R46, R98, R248 to R252, R317, R396: a cycle raises the count of cycles and gives each core that holds warps a turn; where no array operation is
chosen and no drain has started, it does nothing else. A turn tries the next word of every lane set, which leaves nothing behind but whether each
is held, and the scratch pages that a held word touches (log entry 52). After a trip, and in every second cycle of a device that throttles, no
port is given. Else a hint group in progress keeps the primary port, and issues if its set is ready; else the ready set with the lowest PC of the
highest-ranked warp that can issue has it, or its promoted set. The second port's word pairs with the primary port's, and does not stand at the
instruction of a hint group that the primary set has begun. A ready warp that is given no port has waited one cycle more. The second port's word
comes to issue after the primary port's where its lanes still stand at it. The corners of the second port are log entry 3, the counters log entry
23. -/
def Obligations.Cycles : Prop :=
  (∀ (s : State), ∃ t, exec .clockCycle s = .next t ∧ t.cycle = s.cycle + 1
    ∧ (∀ c, c ∈ t.turns ↔ c ∈ s.halted ∨ ∃ e ∈ s.warps, e.2.core = c ∧ e.2.ended = false ∧ (s.wg e.2.wg).status ≠ .saved)
    ∧ ((∀ o ∈ s.arrays, o.chosen = []) → (∀ d ∈ s.drains, d.started = []) → { t with cycle := s.cycle, turns := s.turns } = s))
  ∧ (∀ (s : State) (c : Nat) (r : List Nat), s.cur.go = false → s.second = none → s.turns = c :: r →
    let s1 := ({ s with turns := r } : State).probeCore State.issueStep c
    let withheld := s.tripped = true ∨ s.throttled = true ∧ s.cycle % 2 = 0
    let ready := fun (w : Warp) (ls : List Nat) => ∀ m ∈ ls.take 1, (w.lane m).live = true ∧ (w.lane m).yield = 0 ∧ (w.lane m).blocked = 0
    { s1 with warps := s.warps, wgs := s.wgs } = { s with turns := r }
    ∧ (∀ k w, s.warp k = some w → ∃ v, s1.warp k = some v ∧ { v with lanes := w.lanes } = w
        ∧ ∀ l, { v.lane l with blocked := 0 } = { w.lane l with blocked := 0 })
    ∧ ∃ t, step s = .next t ∧ t.turns = r
      ∧ { t with warps := s.warps, wgs := s.wgs, coreStall := s.coreStall, cur := s.cur, second := none, turns := s.turns } = s
      ∧ (withheld → t.cur = s.cur ∧ t.second = none)
      ∧ (¬ withheld → ∀ k w ls, s1.groupOn c = some (k, w, ls) →
          ((w.leadOf ls).blocked ≠ 0 → t.cur = s.cur ∧ t.second = none)
          ∧ ((w.leadOf ls).blocked = 0 → t.cur = { warp := k, lanes := maskOf ls, go := true }))
      ∧ (¬ withheld → s1.groupOn c = none → s1.contenders c = [] → t.cur = s.cur ∧ t.second = none)
      ∧ (¬ withheld → s1.groupOn c = none → s1.contenders c ≠ [] → (∀ e ∈ s1.warps, s1.prioOf e.2 ≤ 11) → ∃ k w rs others p, s1.contenders c = (k, w, rs) :: others
          ∧ p ∈ rs ∧ ready w p ∧ t.cur = { warp := k, lanes := maskOf p, go := true } ∧ (∀ e ∈ others, s1.rank e.2.1 ≤ s1.rank w)
          ∧ ((∀ q ∈ rs, (w.leadOf p).place ≤ (w.leadOf q).place) ∨ 32 ≤ w.ageOf p)
          ∧ ∀ n, t.second = some n → ∃ v q, n.lanes = maskOf q ∧ ready v q
              ∧ (n.warp = k ∧ v = w ∧ q ∈ rs ∧ pairs true (s1.wordOf w p) (s1.wordOf w q) = true ∧ s1.awaits w p q = false
                ∨ (∃ qs, (n.warp, v, qs) ∈ others ∧ q ∈ qs) ∧ pairs false (s1.wordOf w p) (s1.wordOf v q) = true))
      ∧ (¬ withheld → ∀ k w, s1.warp k = some w → w.core = c → w.ended = false → (s1.wg w.wg).status ≠ .saved → s.halted.elem c = false →
          s1.offered w = true → w.away = 0 → w.ready (s1.code w) ≠ [] → ¬ (t.cur.go = true ∧ t.cur.warp = k) →
          (∀ n, t.second = some n → n.warp ≠ k) → ∃ v, t.warp k = some v ∧ v.wait = w.wait + 1))
  ∧ (∀ (s : State) (n : Second), s.cur.go = false → s.second = some n →
    let stands := ∃ w, s.warp n.warp = some w ∧ w.ended = false ∧ w.held = none ∧ ∀ l, l < 32 → n.lanes.getLsbD l = true →
      (w.lane l).live = true ∧ (w.lane l).pc = n.pc ∧ (w.lane l).runPc = n.run ∧ (w.lane l).park = .no
    (stands → step s = .next { s with second := none, cur := { warp := n.warp, lanes := n.lanes, go := true } })
    ∧ (¬ stands → step s = .next { s with second := none }))

/-- R348, R350, R353: with verified firmware, meter commands are served in order; without, none is. A bad block completes with STATUS 2; CREATE,
RESUME and RESTART of a slot in use, REQ and SEAL of one that is not live, REQ with 64 reports held, RESUME and RESTART of a report that does not
verify, and RESUME of one that is no SEAL report (log entry 10) complete with 3, and change no slot. CREATE makes a live instance with zero
counters and its allowed set, and a first report; REQ emits a report; SEAL marks the slot, and the hand-over, once no workgroup bound to it is
left, emits the SEAL report and frees the slot. RESUME goes on with the counters of the record, and with an allowed set of the record's hash, if a
command has named one here, else with an open one of 1 to 256 digests (log entry 10); RESTART begins anew, linked to it. A bad OP is answered by
CREATE (log entry 42). The model's choice (log entry 56): with 64 reports held, CREATE, RESUME, RESTART and the hand-over wait. A held report goes
into the ring, with its signature, and RPTWR rises, when the ring has room; the next of the metering block, if one is due, follows. -/
def Obligations.MeterCommands : Prop :=
  (∀ (s : State) (a : Nat) (r : List Nat), s.meterCmds = a :: r → physOk a = true →
    let op := s.cmd a 0 8
    let slot := s.cmd a 16 10
    let of := fun (n : Nat) => [Instr.create, .create, .req, .seal, .resume, .restart].getD n .create
    let ends := fun (t : State) (v : Byte) => t.meterCmds = r ∧ t.peek (a + 1) = v
    let refused := ∃ t, exec (of op) s = .next t ∧ ends t 3 ∧ t.meters = s.meters ∧ t.reports = s.reports
    let room := s.reports.length < 64
    (s.ready = false → ∀ i ∈ [Instr.create, .req, .seal, .resume, .restart], exec i s = .next s)
    ∧ (∀ i ∈ [Instr.create, .req, .seal, .resume, .restart], i ≠ of op → exec i s = .next s)
    ∧ (s.ready = true → s.cmdBad a = true → ∃ t, exec (of op) s = .next t ∧ ends t 2 ∧ t.meters = s.meters ∧ t.reports = s.reports)
    ∧ (s.ready = true → s.cmdBad a = false →
      (op = 1 ∨ op = 4 ∨ op = 5 → ¬ room → exec (of op) s = .next s)
      ∧ (op = 1 ∨ op = 4 ∨ op = 5 → room → (mget s.meters slot).isSome = true → refused)
      ∧ (op = 2 ∨ op = 3 → mget s.meters slot = none ∨ (∃ m, mget s.meters slot = some m ∧ m.sealing = true) → refused)
      ∧ (op = 2 → ¬ room → refused)
      ∧ (op = 4 ∨ op = 5 → room → s.checkedReport a = none → refused)
      ∧ (∀ b, op = 4 → room → s.checkedReport a = some b → b.getLsbD 802 = false → refused)
      ∧ (op = 1 → room → mget s.meters slot = none → ∃ t m, exec .create s = .next t ∧ ends t 1 ∧ t.creation = s.creation + 1
          ∧ mget t.meters slot = some m ∧ m.macs = 0 ∧ m.rbytes = 0 ∧ m.seq = 0 ∧ m.sealing = false
          ∧ m.allowed = (List.range (s.cmd a 32 9)).map (fun i => BitVec.ofNat 512 (s.num (s.cmd a 320 64 + 64 * i) 64))
          ∧ (∀ k, k ≠ slot → mget t.meters k = mget s.meters k)
          ∧ ∃ x, t.reports = s.reports ++ [x] ∧ x.slot = slot ∧ x.body.extractLsb' 800 32 = 8#32 ∧ x.body.extractLsb' 640 64 = 0#64)
      ∧ (∀ m, op = 2 → mget s.meters slot = some m → m.sealing = false → room →
          ∃ t x, exec .req s = .next t ∧ ends t 1 ∧ t.reports = s.reports ++ [x] ∧ x.slot = slot
            ∧ x.body.extractLsb' 640 64 = m.seq + 1 ∧ x.body.extractLsb' 832 64 = m.rbytes ∧ x.body.extractLsb' 704 96 = m.macs
            ∧ x.body.getLsbD 801 = true)
      ∧ (∀ m, op = 3 → mget s.meters slot = some m → m.sealing = false → ∃ t, exec .seal s = .next t ∧ t.meterCmds = r ∧ t.mem = s.mem
          ∧ mget t.meters slot = some { m with sealing := true, sealCmd := a })
      ∧ (∀ b, op = 4 → room → mget s.meters slot = none → s.checkedReport a = some b → b.getLsbD 802 = true →
          ∃ t m, exec .resume s = .next t ∧ ends t 1 ∧ mget t.meters slot = some m ∧ m.inst = b.extractLsb' 512 128
            ∧ m.macs = b.extractLsb' 704 96 ∧ m.rbytes = b.extractLsb' 832 64 ∧ m.seq = b.extractLsb' 640 64 + 1
            ∧ m.allowh = b.extractLsb' 896 512
            ∧ (m.allowed ∈ s.allowedSets ∧ allowHash m.allowed = m.allowh
              ∨ (∀ ds ∈ s.allowedSets, allowHash ds ≠ m.allowh) ∧ ∃ x : Config.AllowedSet, m.allowed = x.digests))
      ∧ (∀ b, op = 5 → room → mget s.meters slot = none → s.checkedReport a = some b →
          ∃ t m x, exec .restart s = .next t ∧ ends t 1 ∧ t.creation = s.creation + 1 ∧ mget t.meters slot = some m ∧ m.macs = 0
            ∧ m.rbytes = 0 ∧ m.seq = 0 ∧ t.reports = s.reports ++ [x] ∧ x.body.extractLsb' 1920 128 = b.extractLsb' 512 128)))
  ∧ (∀ (s : State) (slot : Nat) (m : Meter), mget s.meters slot = some m →
      let full := 64 ≤ s.reports.length
      let left := ∃ g ∈ s.wgs, g.2.status ≠ .ended ∧ ∃ b ∈ ((s.node g.2.node).forWg g.2).region.meter, b.2 = slot
      (m.sealing = false ∨ left ∨ full → exec (.sealHandover slot) s = .next s)
      ∧ (m.sealing = true → ¬ left → ¬ full → physOk m.sealCmd = true → m.sealCmd % 64 = 0 → ∃ t x, exec (.sealHandover slot) s = .next t ∧ mget t.meters slot = none
          ∧ t.peek (m.sealCmd + 1) = 1 ∧ t.reports = s.reports ++ [x] ∧ x.slot = slot ∧ x.body.getLsbD 802 = true
          ∧ x.body.extractLsb' 832 64 = m.rbytes ∧ x.body.extractLsb' 704 96 = m.macs))
  ∧ (∀ (s : State) (x : Report) (rest : List Report), s.reports = x :: rest → (s.reg 0x138).toNat ≤ 12 →
      let n := (s.reg 0x38).toNat
      let slots := 2 ^ (s.reg 0x138).toNat
      let room := s.enabled = true ∧ n - (s.reg 0x40).toNat < slots
      let at' := (s.reg 0x130).toNat + 5120 * (n % slots)
      let image := bytesLE 256 x.body.toNat ++ Config.identity.sign (bytesLE 64 (sha3 (bytesLE 256 x.body.toNat)).toNat) s.signed
      (room → (∀ k, k < 5120 → s.lostAt (at' + k) = false) → ∃ t, exec .reportWrite s = .next t ∧ t.reports.take rest.length = rest
        ∧ ((∀ e ∈ s.meters, e.2.due = false) → t.reports = rest) ∧ t.reg 0x38 = s.reg 0x38 + 1
        ∧ ∀ k, k < 5120 → t.peek (at' + k) = image.getD k 0)
      ∧ (¬ room → exec .reportWrite s = .next s))

/-- R352: in service, the oldest registration record is taken. With a reserved field set, an address that is no multiple of 128, a placement that is
no multiple of 4,096 or no image, it ends with STATUS 4; where a page of the image or of the placement does not translate, with 3; where the image
breaks its rules, with 2; else with 1, and the kernel stands registered with the digest of the image. An image that was read is measured: its
digest stands in the record's second half (stated where no placement follows). Before service nothing is taken. That, and that no right is asked
for, is log entry 42; what rules an image has to keep beside those of R63, log entry 57. -/
def Obligations.Registrations : Prop :=
  ∀ (s : State) (a : Nat) (rest : List Nat), s.regCmds = a :: rest → physOk a = true →
    let f := fun (lo n : Nat) => s.num a 128 / 2 ^ lo % 2 ^ n
    let good := a % 128 = 0 ∧ f 468 36 = 0 ∧ f 440 8 = 0 ∧ f 376 8 = 0 ∧ f 288 32 = 0 ∧ f 248 8 = 0 ∧ f 0 192 = 0 ∧ f 320 12 = 0 ∧ f 384 12 = 0
      ∧ f 256 32 ≠ 0
    let ends := fun (v : Byte) (q : State → Prop) => ∃ t, exec .registration s = .next t ∧ t.regCmds = rest ∧ t.peek (a + 63) = v ∧ q t
    let none' := fun (t : State) => ∀ k ∈ t.kernels, k.kref ≠ a
    let s1 : State := { s with regCmds := rest }
    let img := fun (x : List Nat × List Via) => x.1.map (s1.hubTouch (f 448 20) false x.2).peek
    let image := walkBytes s1 (f 448 20) (f 192 56) (f 256 32) (f 256 32 / 4096 + 2)
    let s2 := fun (x : List Nat × List Via) =>
      (s1.hubTouch (f 448 20) false x.2).deviceWrite (a + 64) (bytesLE 64 (sha3 (img x)).toNat)
    let fits := fun (x : List Nat × List Via) (va n : Nat) => (walkBytes (s2 x) (f 448 20) va n (n / 4096 + 2)).isSome = true
    let placed := fun (x : List Nat × List Via) => fits x (f 320 56) (imgNum (img x) 28 4) ∧ fits x (f 384 56) (imgNum (img x) 36 4)
    let measured := fun (x : List Nat × List Via) (t : State) => ∀ k, k < 64 → t.peek (a + 64 + k) = (sha3 (img x)).extractLsb' (8 * k) 8
    (s.enabled = false → exec .registration s = .next s)
    ∧ (s.enabled = true → ¬ good → ends 4 none')
    ∧ (s.enabled = true → good → image = none → ends 3 none')
    ∧ (∀ x, s.enabled = true → good → image = some x → imageOk (img x) = false → ends 2 (fun t => none' t ∧ measured x t))
    ∧ (∀ x, s.enabled = true → good → image = some x → imageOk (img x) = true → ¬ placed x → ends 3 (fun t => none' t ∧ measured x t))
    ∧ (∀ x, s.enabled = true → good → image = some x → imageOk (img x) = true → placed x →
        ends 1 (fun t => ∃ k ∈ t.kernels, k.kref = a ∧ k.digest = sha3 (img x) ∧ k.pasid = f 448 20
          ∧ k.codeVa = f 320 56 ∧ k.constVa = f 384 56 ∧ k.named = imgNum (img x) 7 1
          ∧ k.codeSize = imgNum (img x) 28 4 ∧ k.entry = imgNum (img x) 20 4))

/-! ### Queues, admission, placement, pre-emption -/

/-- R299 to R301: a doorbell in service whose reserved bits are 0, and whose queue a walk of eight probes finds, writes the queue's WRIDX; another
ends in the error log, or goes on in a walk of the policy core, from the ninth probe on. A queue in STATE 3, or without unread packets, stays; one
with unread packets takes a slot, in STATE 1, or waits for one. R301 to R305: when a queue's turn comes and its packet is a NOP, RDIDX advances; a
NODE with a record in range makes a node, which is ready, or held while predecessors are missing (no early credits, no other queue waiting for a
slot); one out of range stops the queue, and so do a malformed control block, a packet that cannot be read and a malformed header, in the turn of
a NOP. A packet of another type is not these instructions' concern. R304: a WAIT reads its doubleword, at first and again every 4,096 cycles or
when it is due: the value of the packet lets the queue go on, a value from 2^63 stops it, as does an address that cannot be read, and any other
value keeps its slot waiting. Where the page is not present the queue is parked, in STATE 2, gives up its slot, and its address is walked again
after 2^20 cycles, not before: still absent, it waits as long again; else the queue is looked for in the table, and goes on, or is lost or
stopped. When a doorbell acts, where a walk ends, and which row stops a queue are log entry 32; how the reads translate, log entry 34. -/
def Obligations.HostQueues : Prop :=
  ((∀ (s : State) (pasid : BitVec 20) (v : BitVec 64),
    let qnum := v.toNat % 2 ^ 16
    let good := v.toNat < 2 ^ 48 ∧ s.enabled = true
    let lost := fun (i : Instr) => ∃ t, exec i s = .next t ∧ t.evseq = s.evseq + 1 ∧ t.slots = s.slots ∧ t.nodes = s.nodes
    (¬ good → lost (.doorbell pasid v))
    ∧ (good → s.probe pasid.toNat qnum 0 8 = .empty → lost (.doorbell pasid v))
    ∧ (good → s.probe pasid.toNat qnum 0 8 = .more → exec (.doorbell pasid v) s = .next { s with walks := s.walks ++ [(pasid.toNat, v)] })
    ∧ (∀ q, good → s.probe pasid.toNat qnum 0 8 = .found q → exec (.doorbell pasid v) s = .next (s.ring q v))
    ∧ (∀ p r, s.walks = (p, v) :: r →
        let on := s.probe p qnum 8 (2 ^ (s.reg 0x108).toNat)
        (∀ q, on = .found q → exec .qcbFirmwareWalk s = .next (({ s with walks := r } : State).ring q v))
        ∧ ((∀ q, on ≠ .found q) → lost .qcbFirmwareWalk)))
  ∧ (∀ (s : State), s.walks = [] → exec .qcbFirmwareWalk s = .next s)
  ∧ (∀ (s : State) (q : Nat) (v : Word), physOk q = true → q % 64 = 0 →
      let t := s.ring q v
      let u := s.setWrIdx q (v.toNat / 2 ^ 16 % 2 ^ 32)
      (u.wrIdx q = v.toNat / 2 ^ 16 % 2 ^ 32)
      ∧ (u.qcb q 61 2 = 3 ∨ u.qcbOk q = true ∧ u.rdIdx q = u.wrIdx q → t = u)
      ∧ (u.qcb q 61 2 ≠ 3 → u.qcbOk q = true → u.rdIdx q ≠ u.wrIdx q → (∀ x ∈ s.slots, x.qcb ≠ q) → q ∉ s.queueWait → (∀ e ∈ s.parked, e.isOf u q = false) →
          (s.slots.length < 128 → s.queueWait = [] → t.slots = s.slots ++ [{ qcb := q }] ∧ t.qcb q 61 2 = 1 ∧ t.wrIdx q = u.wrIdx q)
          ∧ (128 ≤ s.slots.length → t.slots = s.slots ∧ t.queueWait = s.queueWait ++ [q]))
      ∧ (u.qcb q 61 2 ≠ 3 → u.qcbOk q = false → q ∉ t.queueWait ∧ (∀ x ∈ t.slots, x.qcb ≠ q) ∧ t.evseq = s.evseq + 1
          ∧ ∀ e ∈ t.parked, e.isOf u q = false)))
  ∧ (∀ (s t : State) (slot q p va : Nat), s.turn slot = some q → s.qcbOk q = true → s.packetOf q = some (t, p, va) → headerOk p = true →
    t.queueWait = [] → t.creditOf (t.qcb q 32 20) (t.qcb q 0 16) (t.rdIdx q) = none → physOk q = true → q % 64 = 0 →
    let f := fun (lo n : Nat) => p / 2 ^ lo % 2 ^ n
    let served := fun (u : State) => u.rdIdx q = (t.rdIdx q + 1) % 2 ^ 32
      ∧ u.slots = (if u.rdIdx q = t.wrIdx q then t.slots.filter (fun x => x.qcb != q) else t.slots.filter (fun x => x.qcb != q) ++ [{ qcb := q }])
    (f 0 8 = 0 → ∃ u, exec (.nop slot) s = .next u ∧ served u ∧ u.nodes = t.nodes)
    ∧ (f 0 8 ≠ 0 → exec (.nop slot) s = .next s) ∧ (f 0 8 ≠ 1 → exec (.node slot) s = .next s) ∧ (f 0 8 ≠ 2 → exec (.wait slot) s = .next s)
    ∧ (f 0 8 = 1 → nodeRecordOk p = true → ∃ u n, exec (.node slot) s = .next u ∧ served u ∧ mget u.nodes t.serial = some n
        ∧ n.kref.toNat = f 64 64 ∧ n.argp.toNat = f 128 64 ∧ n.grid = f 192 32 ∧ n.wgsize = f 224 32 ∧ n.maddr.toNat = f 256 64
        ∧ n.mval.toNat = f 320 64 ∧ n.source = BitVec.ofNat 64 va ∧ n.rcb = t.qcb q 192 56 ∧ n.pasid = t.qcb q 32 20
        ∧ n.packet = some (t.qcb q 0 16, t.rdIdx q) ∧ n.cores = decide (f 12 1 = 1)
        ∧ (f 8 4 = 2 → n.succ.toNat = f 512 64 ∧ n.nsucc = f 576 16 ∧ n.expcyc = f 640 64)
        ∧ n.pred = (if f 8 4 = 2 then f 16 16 else 0) ∧ n.status = (if n.pred = 0 then .ready else .held))
    ∧ (f 0 8 = 1 → nodeRecordOk p = false → ∃ u, exec (.node slot) s = .next u ∧ u.nodes = t.nodes ∧ (∀ x ∈ u.slots, x.qcb ≠ q) ∧ u.evseq = t.evseq + 1))
  ∧ (∀ (s t : State) (slot q : Nat), s.turn slot = some q → s.qcbOk q = false ∧ t = s ∨ s.packetOf q = none ∧ t = s
      ∨ (∃ p va, s.qcbOk q = true ∧ s.packetOf q = some (t, p, va) ∧ headerOk p = false) →
      exec (.node slot) s = .next s ∧ exec (.wait slot) s = .next s
      ∧ ∃ u, exec (.nop slot) s = .next u ∧ (∀ x ∈ u.slots, x.qcb ≠ q) ∧ q ∉ u.queueWait ∧ u.evseq = t.evseq + 1 ∧ u.nodes = t.nodes)
  ∧ ((∀ (s t : State) (slot q p va : Nat), s.packetOf q = some (t, p, va) → t.queueWait = [] → physOk q = true → q % 64 = 0 →
    t.creditOf (t.qcb q 32 20) (t.qcb q 0 16) (t.rdIdx q) = none →
    let f := fun (lo n : Nat) => p / 2 ^ lo % 2 ^ n
    let first := s.turn slot = some q ∧ s.qcbOk q = true ∧ headerOk p = true ∧ f 0 8 = 2 ∧ f 64 3 = 0 ∧ f 192 320 = 0
    let again := ∃ x, s.slots[slot]? = some x ∧ x.qcb = q ∧ x.waiting = true ∧ (x.due = true ∨ x.since + 4096 ≤ s.cycle)
    let stops := fun (u : State) => (∀ x ∈ u.slots, x.qcb ≠ q) ∧ u.evseq = t.evseq + 1
    ∀ i, (i = Instr.wait slot ∧ first) ∨ (i = .waitReread slot ∧ again) →
      (∀ v u, t.waitRead (t.qcb q 32 20) (f 64 64) = .value v u → u.queueWait = [] →
        u.creditOf (u.qcb q 32 20) (u.qcb q 0 16) (u.rdIdx q) = none →
        (v = f 128 64 → ∃ x, exec i s = .next x ∧ x.rdIdx q = (u.rdIdx q + 1) % 2 ^ 32)
        ∧ (v ≠ f 128 64 → v < 2 ^ 63 → ∃ x, exec i s = .next x ∧ x.mem = u.mem ∧ x.slots = u.slots.map (fun y =>
            if y.qcb = q then { y with waiting := true, due := false, since := u.cycle } else y))
        ∧ (v ≠ f 128 64 → 2 ^ 63 ≤ v → ∃ x, exec i s = .next x ∧ (∀ y ∈ x.slots, y.qcb ≠ q) ∧ x.evseq = u.evseq + 1))
      ∧ (t.waitRead (t.qcb q 32 20) (f 64 64) = .absent → ∃ x, exec i s = .next x ∧ (∀ y ∈ x.slots, y.qcb ≠ q)
          ∧ x.qcb q 61 2 = 2
          ∧ x.parked = t.parked ++ [{ qcb := q, pasid := t.qcb q 32 20, qnum := t.qcb q 0 16, addr := f 64 64, due := t.cycle + 2 ^ 20 }])
      ∧ (t.waitRead (t.qcb q 32 20) (f 64 64) = .broken → ∃ x, exec i s = .next x ∧ stops x))
  ∧ (∀ (s : State) (slot : Nat) (x : QSlot), s.slots[slot]? = some x → x.waiting = false ∨ x.due = false ∧ s.cycle < x.since + 4096 →
      exec (.waitReread slot) s = .next s)
  ∧ (∀ (s : State) (q : Nat), (∀ e ∈ s.parked, e.qcb = q → s.cycle < e.due) → exec (.waitParkedRewalk q) s = .next s)
  ∧ (∀ (s : State) (q : Nat) (e : ParkedWait), s.parked.find? (fun x => decide (x.qcb = q ∧ x.due ≤ s.cycle)) = some e →
      let r := s.waitRead e.pasid e.addr
      let others := s.parked.filter (fun x => x != e)
      (r = .absent → exec (.waitParkedRewalk q) s
        = .next { s with parked := s.parked.map (fun x => if x = e then { e with due := s.cycle + 2 ^ 20 } else x) })
      ∧ (r ≠ .absent → s.findQueue e.pasid e.qnum = none →
          ∃ u, exec (.waitParkedRewalk q) s = .next u ∧ u.parked = others ∧ u.slots = s.slots ∧ u.evseq = s.evseq + 1)
      ∧ (∀ x, s.findQueue e.pasid e.qnum = some x →
        (r = .broken → ∃ u, exec (.waitParkedRewalk q) s = .next u ∧ u.evseq = s.evseq + 1 ∧ (∀ y ∈ u.slots, y.qcb ≠ x)
          ∧ ∀ y ∈ u.parked, y.isOf s x = false)
        ∧ (∀ v w, r = .value v w → physOk x = true → x % 64 = 0 → s.qcb x 61 2 = 2 →
            let g := ({ s with parked := others } : State).setQState x 0
            g.qcbOk x = true → g.rdIdx x ≠ g.wrIdx x → (∀ y ∈ s.slots, y.qcb ≠ x) → s.queueWait = [] → (∀ y ∈ others, y.isOf s x = false) →
            s.slots.length < 128 → ∃ u, exec (.waitParkedRewalk q) s = .next u ∧ u.slots = s.slots ++ [{ qcb := x }] ∧ u.qcb x 61 2 = 1
              ∧ u.parked = others))))

/-- R235, R305, R337: a node is complete once its workgroups have ended, none is left to place and what they held is given back; not before. It then
leaves the device with its workgroups, and its mirror word has the value, with bit 63 set after a fault. (Stated of a node without successors and
without argument copy.) A successor's credit takes one predecessor from its held node, the last makes it ready; where the packet has not been
read, the table keeps the credit, or the credit waits while the table is full or an earlier one waits. Which dirty lines its release sends home is
log entry 18; which credits wait for which, and when a packet has passed, log entry 33. -/
def Obligations.NodeCompletion : Prop :=
  (∀ (s : State) (k : Nat) (n : Node), mget s.nodes k = some n →
    let isOver := n.status = .placed ∧ n.grid ≤ n.next ∧ n.flushed = [] ∧ ∀ g ∈ s.wgs, g.2.node = k → g.2.status = .ended ∧ g.2.cores = []
    (¬ isOver → exec (.nodeComplete k) s = .next s)
    ∧ (isOver → s.crediting = [] → n.nsucc = 0 → (∀ a ∈ s.arenas, ¬ (a.2.2.2.2.1 = 0 ∧ a.2.2.2.2.2 = k)) →
        ∃ t, exec (.nodeComplete k) s = .next t ∧ mget t.nodes k = none ∧ (∀ g ∈ t.wgs, g.2.node ≠ k)
          ∧ (n.maddr = 0 → t.mem = s.publish.mem)
          ∧ (∀ r, n.maddr ≠ 0 → hubReach s.publish n.pasid n.maddr.toNat 8 .store 2 = .ok r → r.flats.Nodup →
              (∀ f ∈ r.flats, s.lostAt (f / 128 * 128) = false ∧ s.lostAt f = false) →
              r.flats.map t.peek = bytesLE 8 (n.mval.toNat + if n.faulted then 2 ^ 63 else 0))))
  ∧ (∀ (s : State) (room : Bool) (pasid k : Nat) (e : Word) (n : Node), e.toNat < 2 ^ 48 →
      s.nodes.find? (fun x => x.2.status == .held && x.2.pasid == pasid && x.2.packet == some (e.toNat % 2 ^ 16, e.toNat / 2 ^ 16 % 2 ^ 32))
        = some (k, n) → mget s.nodes k = some n →
      ∃ t, s.placeCredit room pasid e = some t ∧ t.credits = s.credits
        ∧ mget t.nodes k = some (if n.pred ≤ 1 then { n with status := .ready, pred := 0, order := s.serial } else { n with pred := n.pred - 1 }))
  ∧ (∀ (s : State) (pasid q : Nat) (e : Word),
      let qnum := e.toNat % 2 ^ 16
      let index := e.toNat / 2 ^ 16 % 2 ^ 32
      e.toNat < 2 ^ 48 → (∀ x ∈ s.nodes, ¬ (x.2.status = .held ∧ x.2.pasid = pasid ∧ x.2.packet = some (qnum, index))) →
      s.findQueue pasid qnum = some q → (index + 2 ^ 32 - s.rdIdx q) % 2 ^ 32 < 2 ^ 31 → s.creditOf pasid qnum index = none →
      (s.pending < 4096 → s.placeCredit true pasid e
        = some { s with credits := s.credits ++ [{ pasid := pasid, qnum := qnum, index := index, count := 1 }] })
      ∧ (∀ room, room = false ∨ 4096 ≤ s.pending → s.placeCredit room pasid e = none))

/-- R306, R308, R394: admission takes the next ready node, gives it the next admission number, and lets it into the pool, or to its
argument copy where the kernel has arguments; a node with a reason against it is rejected: it counts as faulted, nothing of it is placed,
and an event tells the reason. An unregistered kernel, more than 16 cores, a chain that breaks its rules are such reasons. The argument
copy is the block at ARGP, rounded to its classes, and a copy that faults rejects the node. R65, R183: with the pool a kernel's constant
segment is write-protected. R293: rounding keeps the value in the doubleword after the key, and puts the least bound not below it, if there
is one, into the key. -/
def Obligations.Admission : Prop :=
  (∀ (s : State), s.nextAdmission = none → exec .admission s = .next s)
  ∧ (∀ (s : State) (k : Nat), s.nextAdmission = some k →
      let j := s.judge (s.node k)
      ∃ t, exec .admission s = .next t ∧ t.admitted = s.admitted + 1
        ∧ (j.2 = [] → (t.node k).number = s.admitted + 1 ∧ (t.node k).status = (if j.1.kernel.args = 0 then .pooled else .copying)
            ∧ (t.node k).kernel = j.1.kernel ∧ (t.node k).region = j.1.region ∧ t.mem = s.mem
            ∧ (j.1.kernel.args = 0 → j.1.kernel.constSize ≠ 0 → (j.1.region.pasid, j.1.kernel.constVa, j.1.kernel.constSize) ∈ t.constants))
        ∧ (j.2 ≠ [] → (t.node k).number = s.admitted + 1 ∧ (t.node k).faulted = true ∧ (t.node k).grid ≤ (t.node k).next
            ∧ (t.node k).status = .placed ∧ t.evseq = s.evseq + 1)
        ∧ (∀ q ∈ t.dqueue, k ∉ q.2))
  ∧ (∀ (s : State) (n : Node),
      (s.rcbChain n.rcb 8 = none → (s.judge n).2 = [5])
      ∧ (∀ c, s.rcbChain n.rcb 8 = some c → (∃ a ∈ c, s.rcbOk a = false) ∨ s.prioOk c = false → (s.judge n).2 = [5])
      ∧ ∀ c, s.rcbChain n.rcb 8 = some c → (∀ a ∈ c, s.rcbOk a = true) → s.prioOk c = true →
          let r := s.regionOf c
          (s.kernelOf n.pasid r.pasid n.kref = none → 1 ∈ (s.judge n).2)
          ∧ ((∃ a ∈ c, s.rcb a 568 2 = 1) → 9 ∈ (s.judge n).2)
          ∧ ∀ x, s.kernelOf n.pasid r.pasid n.kref = some x →
              (x.named ≤ 63 → 512 * Nat.min 32 (1536 / (x.named + 16)) < n.wgsize → 2 ∈ (s.judge n).2))
  ∧ (∀ (s : State) (page k : Nat) (n : Node), s.nextCopy page = some (k, n) → mget s.nodes k = some n → n.kernel.args ≤ 4096 →
      let from' := hubReach s n.pasid n.argp.toNat n.kernel.args .load 3
      let into := hubReach s n.region.pasid (page * 4096) n.kernel.args .store 3
      (∀ a b, from' = .ok a → into = .ok b → b.flats.Nodup → (∀ f ∈ b.flats, s.lostAt f = false ∧ s.lostAt (f / 128 * 128) = false) →
        (∀ f ∈ b.flats, f < n.region.arenaOf + 95 ∨ n.region.arenaOf + 99 ≤ f) →
        ∃ t, exec (.argumentCopy page) s = .next t ∧ (t.node k).status = .pooled ∧ (t.node k).argCopy = page * 4096
          ∧ ((∀ e ∈ n.kernel.keys, e.1 + 8 ≤ n.kernel.args ∧ (e.2 ≠ [] → e.1 + 16 ≤ n.kernel.args)) →
            b.flats.map t.peek = classRound n.kernel.keys (a.flats.map (s.hubTouch n.pasid false a.vias).peek)))
      ∧ (∀ e, from' = .error e ∨ into = .error e → ∃ t, exec (.argumentCopy page) s = .next t ∧ (t.node k).faulted = true
          ∧ (t.node k).status = .placed ∧ t.evseq = s.evseq + 1))
  ∧ (∀ (bs : List Byte) (o : Nat) (bounds : List Nat), bounds ≠ [] → o + 16 ≤ bs.length →
      let x := dwordAt bs o
      dwordAt (classRound [(o, bounds)] bs) (o + 8) = x
      ∧ dwordAt (classRound [(o, bounds)] bs) o = (match bounds.find? (fun b => decide (x ≤ b)) with | none => x | some b => b % 2 ^ 64)
      ∧ ∀ k, k < o ∨ o + 16 ≤ k → (classRound [(o, bounds)] bs).getD k 0 = bs.getD k 0)

/-- R309 to R311, R18, R24: the first node of the pool that can place one places its next workgroup: on the cores chosen, with its warps in order, and
each lane's thread index; lanes past the workgroup's size are not live, and the others start at the kernel's entry, where no residual code is
chosen. (A node that is not CORESIDENT, without private memory.) The other warps keep what they hold, but that those of workgroups that have ended
and given back their cores go (R173). A CORESIDENT node places all that are left, or none (R312). Nothing where no node can, or a saved workgroup
comes first. R292, R296: the Jig's entry for a job lies in the arena with its code, and the nodes that wait for its key run it; where no place can
be made for it, they run the original code (log entries 37, 38). -/
def Obligations.Placement : Prop :=
  (∀ (s : State) (page : Nat), (s.nextPlaced = none → exec (.placeWorkgroup page) s = .next { s with placing := none })
      ∧ ∀ k n, s.nextPlaced = some (k, n) → s.savedOf k ≠ [] → exec (.placeWorkgroup page) s = .next s)
  ∧ (∀ (s u : State) (page k : Nat) (m n : Node) (cs : List Nat), s.nextPlaced = some (k, n) → mget s.nodes k = some m → n = s.live m →
      s.savedOf k = [] → n.cores = true ∨ n.kernel.coresident = true → n.privPages = 0 → s.placeable k n = some cs →
      s.placeAll k page (n.grid + 1) = some u → exec (.placeWorkgroup page) s = .next { u with placing := some k }
        ∧ (u.node k).flushed = [] ∧ (u.node k).grid ≤ (u.node k).next)
  ∧ (∀ (s : State) (page k i : Nat) (m n : Node) (cs : List Nat), s.nextPlaced = some (k, n) → mget s.nodes k = some m → n = s.live m →
      s.savedOf k = [] → n.cores = false → n.kernel.coresident = false → n.privPages = 0 → n.nextWg = some i → s.placeable k n = some cs →
      ∃ t g x, exec (.placeWorkgroup page) s = .next t ∧ t.placing = some k ∧ mget t.wgs g = some x ∧ x.node = k ∧ x.index = i ∧ x.size = n.wgsize
        ∧ (∀ c, (mget x.cores c).isSome = true ↔ c ∈ cs)
        ∧ (∀ w, w < cdiv n.wgsize 32 → ∃ e ∈ t.warps, e.2.wg = g ∧ e.2.index = w ∧ e.2.core = cs.getD (w / n.kernel.limit) 0
            ∧ ∀ l, l < 32 → (e.2.lane l).tid = 32 * w + l ∧ (e.2.lane l).live = decide (32 * w + l < n.wgsize)
              ∧ ((t.node k).jig = none → (t.node k).jigWait = false → (e.2.lane l).pc = BitVec.ofNat 64 (n.kernel.codeVa + n.kernel.entry)))
        ∧ (n.flushed = [] → (t.node k).next = i + 1)
        ∧ ∀ e ∈ s.warps, ¬ ((s.wg e.2.wg).status = .ended ∧ (s.wg e.2.wg).cores = []) → ∃ v, (e.1, v) ∈ t.warps ∧ { v with lanes := e.2.lanes } = e.2 ∧ ∀ l, Safety.SameLane (e.2.lane l) (v.lane l))
  ∧ (∀ (s : State) (job base : Nat), (∀ j ∈ s.jigJobs, j.id ≠ job) → exec (.jigJobDone job base) s = .next s)
  ∧ (∀ (s u : State) (job base : Nat) (j : JigJob), s.jigJobs.find? (fun j => j.id == job) = some j →
      let e := s.jigEntry j base
      let s1 : State := { s with jigJobs := s.jigJobs.filter (fun x => x.id != job), serial := s.serial + 1 }
      e.special = true → s1.evictFor e.size 4097 = some u → u.jigFits base e.size = true →
      base + e.size ≤ deviceBytes →
      ∃ t, exec (.jigJobDone job base) s = .next t ∧ t.jigCache = u.jigCache ++ [e] ∧ t.jigJobs = s1.jigJobs
        ∧ (∀ i, i < e.words.length → BitVec.ofNat 32 (t.num (base + 4 * i) 4) = e.words.getD i 0)
        ∧ ∀ k n, mget s.nodes k = some n → n.jigWait = true → n.jigKey = j.key → (t.node k).jigWait = false ∧ (t.node k).jig = some e.id)
  ∧ (∀ (s : State) (job base : Nat) (j : JigJob), s.jigJobs.find? (fun j => j.id == job) = some j →
      let e := s.jigEntry j base
      let s1 : State := { s with jigJobs := s.jigJobs.filter (fun x => x.id != job), serial := s.serial + 1 }
      s1.evictFor (if e.special then e.size else 0) 4097 = none →
      ∃ t, exec (.jigJobDone job base) s = .next t ∧ t.jigCache = s.jigCache ∧ t.jigJobs = s1.jigJobs ∧ t.mem = s.mem
        ∧ ∀ k n, mget s.nodes k = some n → n.jigWait = true → n.jigKey = j.key → (t.node k).jigWait = false ∧ (t.node k).jig = none)

/-- R313, R379 to R387: a node that has stood 65,536 cycles at the head of its priority blocks, not before; the workgroups it asks to leave are of
lower priority, and asked under its bound. A draining workgroup whose time is over is decided again: it is saved or flushed, or runs on. A
workgroup to be saved, once quiet, is saved: its warps keep their registers, queues and guards, and its area is taken, or used again; where the
arena has no room any more, the choice is made again. One to be flushed leaves nothing but its index, which its node places again. A saved
workgroup resumes when its turn comes in the pool, where its cores have room and no workgroup of its node drains on them, with what its lanes
held, and its messages are in their FIFOs again. What a save area holds where is log entry 39; whom a blocking node asks, log entry 40. -/
def Obligations.Preemption : Prop :=
  (∀ (s : State) (k : Nat) (n : Node), mget s.nodes k = some n →
    let due := ∃ c, n.head = some c ∧ c + 65536 ≤ s.cycle
    let m := s.live n
    (due → ∃ t, exec (.nodeBlocking k) s = .next t ∧ (t.node k).blocking = true ∧ { t with nodes := s.nodes, wgs := s.wgs } = s
      ∧ ∀ g, t.wg g ≠ s.wg g → (t.wg g).request = some m.region.pbound
        ∧ ∃ e ∈ s.wgs, e.1 = g ∧ ((s.node e.2.node).forWg e.2).region.prio < m.region.prio)
    ∧ (¬ due → exec (.nodeBlocking k) s = .next s))
  ∧ (∀ (s : State) (g : Nat), (mget s.wgs g).isSome = true →
      let isOver := (s.wg g).status = .draining ∧ (s.node (s.wg g).node).expcyc ≤ s.elapsed g
      (¬ isOver → exec (.drainExpiry g) s = .next s)
      ∧ (isOver → ∀ b, (s.wg g).request = some b → ∃ t, exec (.drainExpiry g) s = .next t ∧ t.warps = s.warps ∧ t.mem = s.mem
          ∧ ((t.wg g).status = .saving ∧ s.saveRoom g = true
            ∨ (t.wg g).status = .flushing ∧ ((s.node (s.wg g).node).restart = true ∨ (s.node (s.wg g).node).kernel.restart = true)
            ∨ (t.wg g).status = .resident ∧ s.saveRoom g = false ∧ (s.node (s.wg g).node).restart = false
              ∧ (s.node (s.wg g).node).kernel.restart = false)))
  ∧ (∀ (s : State) (g page : Nat) (x : Wg), mget s.wgs g = some x → x.pools = [] → x.absent = [] →
      let pages := (s.saveSize g + 4095) / 4096
      let arena := ((s.node x.node).forWg x).region.arenaOf
      (x.status ≠ .saving ∨ s.quiet g = false → exec (.save g page) s = .next s)
      ∧ (x.status = .saving → s.quiet g = true → x.saveArea = none → s.someRun arena true pages = true → s.pagesFree arena true page pages = true →
          ∃ t, exec (.save g page) s = .next t ∧ (t.wg g).status = .saved ∧ (t.wg g).saveArea = some (page, pages)
            ∧ (∀ k w, s.warp k = some w → w.wg = g → w.wants = none → w.claim.count = 0 → (s.warpsOf g).Nodup →
                ∃ v, t.warp k = some v ∧ { v with lanes := w.lanes } = w
                  ∧ ∀ l, (v.lane l).regs = (w.lane l).regs ∧ (v.lane l).queue = (w.lane l).queue ∧ (v.lane l).guards = (w.lane l).guards
                      ∧ (v.lane l).live = (w.lane l).live ∧ (v.lane l).pc = (w.lane l).rested.pc))
      ∧ (∀ a n, x.status = .saving → s.quiet g = true → x.saveArea = some (a, n) → pages ≤ n →
          ∃ t, exec (.save g page) s = .next t ∧ (t.wg g).status = .saved ∧ (t.wg g).saveArea = some (a, n))
      ∧ (x.status = .saving → s.quiet g = true → (∀ a, x.saveArea = some a → a.2 < pages) → s.someRun arena true pages = false →
          exec (.save g page) s = .next (s.choose g)))
  ∧ (∀ (s : State) (g : Nat) (x : Wg), mget s.wgs g = some x → x.pools = [] → (mget s.nodes x.node).isSome = true →
      (x.status ≠ .flushing ∨ s.quiet g = false → exec (.flush g) s = .next s)
      ∧ (x.status = .flushing → s.quiet g = true → ∃ t, exec (.flush g) s = .next t ∧ mget t.wgs g = none ∧ (∀ e ∈ t.warps, e.2.wg ≠ g)
          ∧ x.index ∈ (t.node x.node).flushed ∧ (t.node x.node).status = .pooled))
  ∧ (∀ (s : State) (g : Nat) (x : Wg), mget s.wgs g = some x →
      let turn := s.nextResumed = some g
      (¬ turn → exec (.resumeWorkgroup g) s = .next s)
      ∧ (turn → ∃ k n, (k, n) ∈ s.pool ∧ s.resumes k n g = true ∧ ∀ c ∈ x.cores, s.drained k c.1 = false)
      ∧ (turn → s.poison = [] → (s.warpsOf g).Nodup → ∃ t, exec (.resumeWorkgroup g) s = .next t ∧ (t.wg g).status = .resident ∧ t.placing = some x.node
          ∧ (∀ m ∈ x.messages, (mget x.cores m.1).isSome = true →
              let y : Message := { dst := m.1, src := m.1, region := ((s.node x.node).forWg x).region.rcb, value := m.2.1, poison := m.2.2 }
              y ∈ t.fifo)
          ∧ ∀ k w, s.warp k = some w → w.wg = g → ∃ v, t.warp k = some v ∧ v.claim = w.claim
              ∧ ∀ l n, l < w.lanes.length → l < 32 →
                  (n < (s.node x.node).kernel.named → mgetD (v.lane l).regs n {} = mgetD (w.lane l).regs n {})
                  ∧ (v.lane l).guards = (w.lane l).guards ∧ (v.lane l).pc = (w.lane l).pc ∧ (v.lane l).live = (w.lane l).live
                  ∧ (n < (w.lane l).queue.length → n < 16 → (v.lane l).queue.getD n {} = (w.lane l).queue.getD n {})))

/-! ### Words, the step, and the state -/

/-- R3, R35 to R42 and the tables of R41: the words of the spec's worked examples, one or more of each family that it writes out, decode
to the instruction that they stand for. -/
def Obligations.WordsDecode : Prop :=
  decode 0x04481040#32 = .ok (.add 4 0x40 0x41 0) ∧ decode 0x0440A1A0#32 = .ok (.add 4 5 6 1)
  ∧ decode 0x0840BC07#32 = .ok (.popc 4 5 0) ∧ decode 0x0C30814A#32 = .ok (.glt 3 4 5)
  ∧ decode 0x1040A188#32 = .ok (.madW 4 5 6 2) ∧ decode 0x144E200A#32 = .ok (.addi 4 0x71 10)
  ∧ decode 0x1C40A190#32 = .ok (.sel 4 5 6 2) ∧ decode 0x20608140#32 = .ok (.fadd 6 4 5)
  ∧ decode 0x24808187#32 = .ok (.dfma 8 4 6 1) ∧ decode 0x2C608141#32 = .ok (.dot4 6 4 5 0)
  ∧ decode 0x34609C07#32 = .ok (.cvtBf16F32 6 4) ∧ decode 0x38208148#32 = .ok (.fglt 2 4 5)
  ∧ decode 0x3C509C27#32 = .ok (.tanh 5 4 1) ∧ decode 0x40609C01#32 = .ok (.qse5 6 4)
  ∧ decode 0x4A3A6001#32 = .ok (.uaddi 1 3 0x53 1) ∧ decode 0x504E3C01#32 = .ok (.ufirst 4 0x71)
  ∧ decode 0x4E3E0002#32 = .ok (.ulda 1 3 0x70 2) ∧ decode 0x60302EA8#32 = .ok (.ld 6 2 1 6 5 1 0)
  ∧ decode 0x643044B3#32 = .ok (.st 6 4 0 4 5 2 3) ∧ decode 0x686086A3#32 = .ok (.atomExch 6 4 0 5 0 3)
  ∧ decode 0x6CCA20A2#32 = .ok (.redAdd 12 0x51 0 5 0 2) ∧ decode 0x706A5C00#32 = .ok (.fenceR 0x54 5 3)
  ∧ decode 0x809FFFFE#32 = .ok (.br 1 0x1FFFFE) ∧ decode 0x85D20006#32 = .ok (.brunz 0 0x74 6)
  ∧ decode 0x8BF0BC00#32 = .ok (.jmpi 5) ∧ decode 0x8FFE1C02#32 = .ok .exit ∧ decode 0x901A7C01#32 = .ok (.part 1 0x53)
  ∧ decode 0x94608153#32 = .ok (.shfl 6 4 5 1) ∧ decode 0x98608148#32 = .ok (.compress 6 4 5 2)
  ∧ decode 0xA1D20186#32 = .ok (.loop 1 0x69 12 1 1 0) ∧ decode 0xA52387E0#32 = .ok (.lbrk 2 1)
  ∧ decode 0xA88D4AA0#32 = .ok (.adcoef 2 0x54 0x55) ∧ decode 0xC0C80400#32 = .ok (.mms 2 0 1)
  ∧ decode 0xC1060840#32 = .ok (.mrd 6 4 1) ∧ decode 0xC48D1A40#32 = .ok (.thshape 2 0x51 0x52)
  ∧ decode 0xC822E000#32 = .ok (.cpy 8 5 1 1) ∧ decode 0xD1A5C100#32 = .ok (.jarv 0x52 0x70 2)
  ∧ decode 0xD6D74000#32 = .ok (.tlwait 1 0x57 2) ∧ decode 0xE2000000#32 = .ok .eret
  ∧ decode 0xE5FE9002#32 = .ok (.csrw 0x52 2) ∧ decode 0xFC000048#32 = .ok (.himm 0x48)
  ∧ decode 0xFE000009#32 = .ok (.hmod 0 0 0 1 1)

/-- R41, R43: for every instruction that has a word, decoding its word gives it back with every field; and a word that decodes is the word
of the instruction it decodes to, so that no two words mean one instruction, and no bit of a word is dropped. The bytes of a word, least
significant first (R4), decode to the same, and leave the bytes after them. -/
def Obligations.RoundTrip : Prop :=
  (∀ i : Instr, i.wf = true → ∃ w, encode i = [w] ∧ decode w = .ok i
    ∧ ∀ rest, decodeBytes (bytesOfWord w ++ rest) = .ok (i, rest))
  ∧ ∀ (w : BitVec 32) (i : Instr), decode w = .ok i → i.wf = true ∧ encode i = [w]

/-- R43, R48, R366: a step at which a set is to issue runs the instruction its word decodes to (the walk of the fetch sets A before); a word that
encodes none is an illegal-instruction fault with the word as ADDR, and a PC that cannot be fetched a fault at that PC. An HMOD word whose payload
R51 forbids is a hint all the same, and the fault comes at its group's instruction (R51, R87). With nothing to issue and no core's turn left in
the cycle, a step takes the agenda's next entry. How the hint of a forbidden HMOD stands until then is log entry 20; that the agenda's entries
come between, log entry 2. -/
def Obligations.StepRunsDecoded : Prop :=
  (∀ (s : State) (j : Iss), s.cur.go = true →
    let u := ({ s with cur := { s.cur with go := false } } : State).touchIssue
    u.issue = some j →
    (∀ w i, u.fetchLane j.w j.lead = .ok w → decode w = .ok i → step s = exec i u)
    ∧ (∀ w e, u.fetchLane j.w j.lead = .ok w → decode w = .error e →
        step s = exec (.illegalInstruction w) u)
    ∧ (∀ c, u.fetchLane j.w j.lead = .error c →
        step s = exec .instructionFetchFault u))
  ∧ (∀ (s : State) (j : Iss), s.issue = some j →
      (∀ v : BitVec 32, badModifier v = none → exec (.illegalInstruction v) s
        = .next (j.fault s { cls := 0x01, addr := BitVec.ofNat 64 v.toNat, lanes := j.lanes }))
      ∧ (∀ (v : BitVec 32) (n c e : BitVec 1) (z m : BitVec 3), badModifier v = some (n ++ c ++ z ++ e ++ m) →
          exec (.illegalInstruction v) s = exec (.hmod n c z e m) s)
      ∧ (∀ c, s.fetchLane j.w j.lead = .error c → exec .instructionFetchFault s
          = .next (s.takeFault j.k { cls := c, addr := j.lead.pc, lanes := j.lanes } j.lead.pc j.lead.pc)))
  ∧ (∀ (s : State) (e : Instr) (r : List Instr), s.cur.go = false → s.second = none → s.turns = [] → s.agenda = e :: r → e.isWord = false →
      s.tripped = false →
      step s = exec e { s with agenda := r })

/-- The memory keeps its canonical form: from every state whose memory has it, a step leaves one whose memory has it. -/
def Obligations.MemoryKept : Prop :=
  ∀ s t : State, Sound s → step s = .next t → Sound t

/-- R391, R395: right after reset memory is all 0 and in its canonical form; no warp, node, workgroup or meter is there, no line has a tag; every
register holds 0 but JSIZE, 256 MiB, and reads so, but that FEATLV reads 1 and DEVSTAT has its bits 0 and 1, boot passed and ready; the device is
not in service. That host, peer and bank memory are 0 too is log entry 4; that TEMP and POWER are, and that State.reset is the device after its
boot, so that DEVSTAT is not 0, log entry 5. -/
def Obligations.ResetState : Prop :=
  Sound State.reset ∧ (∀ a, State.reset.peek a = 0 ∧ State.reset.isPoison a = false)
  ∧ State.reset.warps = [] ∧ State.reset.wgs = [] ∧ State.reset.nodes = [] ∧ State.reset.meters = [] ∧ State.reset.kernels = []
  ∧ (∀ l, State.reset.tagOf l = 0) ∧ (∀ o, State.reset.reg o = if o = 0x128 then 0x10000000 else 0)
  ∧ (∀ o, State.reset.barRead o = if o = 0x128 then 0x10000000 else if o = 0x2000 then 1 else if o = 0x2008 then 3 else 0)
  ∧ State.reset.enabled = false ∧ State.reset.evseq = 0
end

