-- ==== Sys2Proof/Laws/Memory.lean ====
section
/-! SUPPORT. Memory: a read after a write, and the canonical form, which every operation over memory keeps. -/

namespace Sys2Proof.Laws

set_option Elab.async false

open Sys2Proof.Machine Sys2Proof.Safety

/-! ### A read after a write -/

theorem peekCells_merase (m : List Host.Cell) (a c : Nat) :
    peekCells (merase m a) c = if c = a then 0 else peekCells m c := by
  induction m with
  | nil => simp [merase, peekCells]
  | cons e r ih =>
    obtain ⟨j, x⟩ := e
    by_cases h : j = a <;> by_cases h' : j = c <;> by_cases h'' : c = a <;> simp_all [merase, peekCells]

theorem peekCells_mset (m : List Host.Cell) (a c : Nat) (b : Byte) :
    peekCells (mset m a b) c = if c = a then b else peekCells m c := by
  induction m with
  | nil => by_cases h : c = a <;> simp_all [mset, peekCells, eq_comm]
  | cons e r ih =>
    obtain ⟨j, x⟩ := e
    simp only [mset]
    split
    · by_cases h : a = c
      · subst h; simp [peekCells]
      · rw [peekCells, if_neg h, if_neg (Ne.symm h)]
    · split
      · subst_vars
        by_cases h : j = c
        · subst h; simp [peekCells]
        · rw [peekCells, if_neg h, if_neg (Ne.symm h), peekCells, if_neg h]
      · by_cases h : c = a <;> by_cases h' : j = c <;> simp_all [peekCells]

/-- A byte written is read back, and every other byte is as before. -/
@[simp] theorem peekCells_pokeCells (m : List Host.Cell) (a c : Nat) (b : Byte) :
    peekCells (pokeCells m a b) c = if c = a then b else peekCells m c := by
  unfold pokeCells mput
  split
  · rw [peekCells_merase]; simp_all
  · exact peekCells_mset m a c b

/-- Bytes written in a row are read back at their places, and every byte outside is as before. -/
theorem peekCells_pokeList (bs : List Byte) (m : List Host.Cell) (a c : Nat) :
    peekCells (pokeList m a bs) c = if a ≤ c ∧ c < a + bs.length then bs.getD (c - a) 0 else peekCells m c := by
  induction bs generalizing m a with
  | nil => simp only [pokeList, List.length_nil]; split <;> first | omega | rfl
  | cons b r ih =>
    rw [pokeList, ih, peekCells_pokeCells]
    simp only [List.length_cons]
    by_cases h : c = a
    · subst h; rw [if_neg (by omega), if_pos rfl, if_pos (by omega)]; simp
    · by_cases h1 : a + 1 ≤ c ∧ c < a + 1 + r.length
      · rw [if_pos h1, if_pos (by omega)]
        obtain ⟨n, rfl⟩ : ∃ n, c = a + 1 + n := ⟨c - (a + 1), by omega⟩
        simp [show a + 1 + n - (a + 1) = n by omega, show a + 1 + n - a = n + 1 by omega]
      · rw [if_neg h1, if_neg h, if_neg (by omega)]

/-- Writes of pairs leave every address that none of them names as it was. -/
theorem peekCells_pokePairs_of_not_mem (ps : List (Nat × Byte)) (m : List Host.Cell) (c : Nat) (h : ∀ p ∈ ps, p.1 ≠ c) :
    peekCells (pokePairs m ps) c = peekCells m c := by
  induction ps generalizing m with
  | nil => rfl
  | cons p r ih =>
    rw [pokePairs, ih _ (fun q hq => h q (List.mem_cons_of_mem _ hq)), peekCells_pokeCells, if_neg]
    exact fun e => h p (List.mem_cons_self ..) e.symm

/-- Writes of pairs: an address holds the byte of the last pair that names it. -/
theorem peekCells_pokePairs (ps : List (Nat × Byte)) (m : List Host.Cell) (c : Nat) :
    peekCells (pokePairs m ps) c = lastOf ps c (peekCells m c) := by
  induction ps generalizing m with
  | nil => rfl
  | cons p r ih =>
    rw [pokePairs, ih, peekCells_pokeCells]
    unfold lastOf
    rw [List.filter_cons (x := p)]
    by_cases h : p.1 = c
    · rw [if_pos h.symm, if_pos (beq_iff_eq.2 h), List.getLast?_cons]
      cases (List.filter (fun q => q.1 == c) r).getLast? <;> simp
    · rw [if_neg (Ne.symm h), if_neg (fun e => h (beq_iff_eq.1 e))]

/-! ### The canonical form -/

/-- Every address of a list is above a bound. -/
def above (a : Nat) (m : List Host.Cell) : Prop := ∀ e ∈ m, a < e.1

theorem memWf_cons (a : Nat) (b : Byte) (r : List Host.Cell) :
    memWf ((a, b) :: r) = true ↔ b ≠ 0 ∧ above a r ∧ memWf r = true := by
  induction r generalizing a b with
  | nil => simp [memWf, above]
  | cons e r ih =>
    obtain ⟨c, d⟩ := e
    rw [memWf]
    simp only [Bool.and_eq_true, bne_iff_ne, decide_eq_true_eq, above, List.mem_cons, forall_eq_or_imp]
    rw [ih c d]
    refine ⟨fun ⟨⟨h1, h2⟩, h3⟩ => ⟨h1, ⟨h2, fun e he => Nat.lt_trans h2 (h3.2.1 e he)⟩, h3⟩,
      fun ⟨h1, h2, h3⟩ => ⟨⟨h1, h2.1⟩, h3⟩⟩

theorem above_mset (m : List Host.Cell) (a k : Nat) (b : Byte) (h : above a m) (hk : a < k) : above a (mset m k b) := by
  induction m with
  | nil => simpa [mset, above] using hk
  | cons e r ih =>
    obtain ⟨j, x⟩ := e
    have hr : above a r := fun e he => h e (List.mem_cons_of_mem _ he)
    have hj : a < j := h (j, x) (List.mem_cons_self ..)
    simp only [mset]
    split
    · intro e he; simp only [List.mem_cons] at he; obtain rfl | rfl | he := he <;> first | exact hk | exact hj | exact hr _ he
    · split
      · intro e he; simp only [List.mem_cons] at he; obtain rfl | he := he <;> first | exact hk | exact hr _ he
      · intro e he; simp only [List.mem_cons] at he; obtain rfl | he := he <;> first | exact hj | exact ih hr _ he

theorem above_merase (m : List Host.Cell) (a k : Nat) (h : above a m) : above a (merase m k) := by
  induction m with
  | nil => exact h
  | cons e r ih =>
    obtain ⟨j, x⟩ := e
    have hr := ih (fun e he => h e (List.mem_cons_of_mem _ he))
    simp only [merase]
    split
    · exact hr
    · intro e he; simp only [List.mem_cons] at he; obtain rfl | he := he
      · exact h (j, x) (List.mem_cons_self ..)
      · exact hr _ he

theorem memWf_mset (m : List Host.Cell) (k : Nat) (b : Byte) (hb : b ≠ 0) (h : memWf m = true) : memWf (mset m k b) = true := by
  induction m with
  | nil => exact (memWf_cons k b []).2 ⟨hb, fun _ h => (List.not_mem_nil h).elim, rfl⟩
  | cons e r ih =>
    obtain ⟨j, x⟩ := e
    have h' := (memWf_cons j x r).1 h
    simp only [mset]
    split
    · refine (memWf_cons ..).2 ⟨hb, ?_, h⟩
      intro e he; simp only [List.mem_cons] at he; obtain rfl | he := he
      · assumption
      · exact Nat.lt_trans ‹k < j› (h'.2.1 e he)
    · split
      · subst_vars; exact (memWf_cons ..).2 ⟨hb, h'.2⟩
      · exact (memWf_cons ..).2 ⟨h'.1, above_mset r j k b h'.2.1 (by omega), ih h'.2.2⟩

theorem memWf_merase (m : List Host.Cell) (k : Nat) (h : memWf m = true) : memWf (merase m k) = true := by
  induction m with
  | nil => exact h
  | cons e r ih =>
    obtain ⟨j, x⟩ := e
    have h' := (memWf_cons j x r).1 h
    simp only [merase]
    split
    · exact ih h'.2.2
    · exact (memWf_cons ..).2 ⟨h'.1, above_merase r j k h'.2.1, ih h'.2.2⟩

/-- A byte's write keeps the canonical form. -/
theorem memWf_pokeCells (m : List Host.Cell) (a : Nat) (b : Byte) (h : memWf m = true) : memWf (pokeCells m a b) = true := by
  unfold pokeCells mput
  split
  · exact memWf_merase m a h
  · exact memWf_mset m a b ‹_› h

theorem memWf_pokeList (bs : List Byte) (m : List Host.Cell) (a : Nat) (h : memWf m = true) :
    memWf (pokeList m a bs) = true := by
  induction bs generalizing m a with
  | nil => exact h
  | cons b r ih => exact ih _ _ (memWf_pokeCells m a b h)

theorem memWf_pokePairs (ps : List (Nat × Byte)) (m : List Host.Cell) (h : memWf m = true) :
    memWf (pokePairs m ps) = true := by
  induction ps generalizing m with
  | nil => exact h
  | cons p r ih => exact ih _ (memWf_pokeCells m p.1 p.2 h)

/-- Leaving entries out keeps the canonical form. -/
theorem memWf_filter (p : Host.Cell → Bool) (m : List Host.Cell) (h : memWf m = true) : memWf (m.filter p) = true := by
  induction m with
  | nil => exact h
  | cons e r ih =>
    obtain ⟨j, x⟩ := e
    have h' := (memWf_cons j x r).1 h
    rw [List.filter_cons]
    split
    · exact (memWf_cons ..).2 ⟨h'.1, fun e he => h'.2.1 e (List.mem_filter.1 he).1, ih h'.2.2⟩
    · exact ih h'.2.2

/-! ### What the operations of the state do to memory -/

@[simp] theorem cleanRange_mem (s : State) (a n : Nat) : (s.cleanRange a n).mem = s.mem := rfl
@[simp] theorem poisonRange_mem (s : State) (a n : Nat) : (s.poisonRange a n).mem = s.mem := rfl
@[simp] theorem poisonGranule_mem (s : State) (a : Nat) : (s.poisonGranule a).mem = s.mem := by
  unfold State.poisonGranule; exact poisonRange_mem ..
@[simp] theorem takeTag_mem (s : State) (l : Nat) : (s.takeTag l).mem = s.mem := rfl
@[simp] theorem invalidateOthers_mem (s : State) (c l : Nat) : (s.invalidateOthers c l).mem = s.mem := by
  unfold State.invalidateOthers; split <;> rfl
@[simp] theorem wakeWatchers_mem (s : State) (p : Nat → Bool) (l : Nat) : (s.wakeWatchers p l).mem = s.mem := rfl
@[simp] theorem clearRange_mem (s : State) (a n : Nat) :
    (s.clearRange a n).mem = s.mem.filter (fun c => decide (c.1 < a ∨ a + n ≤ c.1)) := rfl

@[simp] theorem cleanCovered_mem (s : State) (l : List Nat) : (s.cleanCovered l).mem = s.mem := by
  unfold State.cleanCovered; split <;> rfl

@[simp] theorem setCache_mem (s : State) (l1 : Bool) (u : Nat) (ls : List Line) : (s.setCache l1 u ls).mem = s.mem := by
  unfold State.setCache; split <;> rfl

@[simp] theorem cacheWrite_mem (s : State) (l1 : Bool) (u a : Nat) (b : Byte) (d : Bool) : (s.cacheWrite l1 u a b d).mem = s.mem := by
  simp [State.cacheWrite]

@[simp] theorem cacheUpdate_mem (s : State) (l1 : Bool) (u a : Nat) (b : Byte) : (s.cacheUpdate l1 u a b).mem = s.mem := by
  unfold State.cacheUpdate; split <;> simp

@[simp] theorem fill_mem (s : State) (l1 : Bool) (u l : Nat) : (s.fill l1 u l).mem = s.mem := by simp [State.fill]

@[simp] theorem discardLines_mem (s : State) (l1 : Bool) (u : Nat) (p : Line → Bool) : (s.discardLines l1 u p).mem = s.mem := by
  simp [State.discardLines]

@[simp] theorem useLines_mem (s : State) (l1 : Bool) (u : Nat) (us : List LineUser) (ls : List Nat) :
    (s.useLines l1 u us ls).mem = s.mem := by simp [State.useLines]

@[simp] theorem discardClean_mem (s : State) (l1 : Bool) (u : Nat) (p : Nat → Bool) : (s.discardClean l1 u p).mem = s.mem := by
  simp [State.discardClean]

@[simp] theorem markClean_mem (s : State) (l1 : Bool) (u l : Nat) : (s.markClean l1 u l).mem = s.mem := by
  unfold State.markClean; dsimp only; split <;> simp

/-- Folds whose steps keep memory keep memory. -/
theorem foldl_mem {β : Type} (ls : List β) (f : State → β → State) (h : ∀ s b, (f s b).mem = s.mem) (s : State) :
    (ls.foldl f s).mem = s.mem := by
  induction ls generalizing s with
  | nil => rfl
  | cons b r ih => exact (ih _).trans (h s b)

@[simp] theorem invalidate_mem (s : State) (c l : Nat) : (s.invalidate c l).mem = s.mem := by
  unfold State.invalidate
  dsimp only
  rw [wakeWatchers_mem, foldl_mem _ _ (fun _ _ => discardClean_mem ..), discardClean_mem]

@[simp] theorem unlock_mem (s : State) (ls : List Nat) : (s.unlock ls).mem = s.mem := foldl_mem _ _ (fun _ _ => invalidate_mem ..) s

/-- Folds whose steps keep the canonical form keep it. -/
theorem foldl_wf {β : Type} (ls : List β) (f : State → β → State) (h : ∀ s b, Memory.wf s → Memory.wf (f s b)) (s : State)
    (hs : Memory.wf s) : Memory.wf (ls.foldl f s) := by
  induction ls generalizing s with
  | nil => exact hs
  | cons b r ih => exact ih _ (h s b hs)

/-- Memory after a write at home: the bytes written, or none where the route of the line is lost. -/
theorem homeWrite_mem (s : State) (c : Nat) (ps : List (Nat × Byte)) (l : Nat) :
    (s.homeWrite c ps l).mem = if s.lostAt (l * 128) then s.mem else pokePairs s.mem ps := by
  unfold State.homeWrite
  split
  · rfl
  · simp only [invalidateOthers_mem]; split <;> simp

theorem clearRange_wf (s : State) (a n : Nat) (h : Memory.wf s) : Memory.wf (s.clearRange a n) := memWf_filter _ _ h

theorem homeWrite_wf (s : State) (c : Nat) (ps : List (Nat × Byte)) (l : Nat) (h : Memory.wf s) : Memory.wf (s.homeWrite c ps l) := by
  unfold Memory.wf
  rw [homeWrite_mem]
  split
  · exact h
  · exact memWf_pokePairs ps _ h

theorem pushL1_mem (s : State) (c l : Nat) : (s.pushL1 c l).mem = s.mem := by
  unfold State.pushL1
  split
  · rfl
  · rw [markClean_mem, useLines_mem]; exact foldl_mem _ _ (fun _ _ => cacheWrite_mem ..) s

theorem pushCc_wf (s : State) (c l : Nat) (h : Memory.wf s) : Memory.wf (s.pushCc c l) := by
  unfold State.pushCc
  split
  · exact h
  · unfold Memory.wf; rw [markClean_mem]; exact homeWrite_wf s c _ l h

theorem pushTo_wf (s : State) (core point l : Nat) (h : Memory.wf s) : Memory.wf (s.pushTo core point l) := by
  unfold State.pushTo
  split
  · exact h
  · split
    · unfold Memory.wf; rw [pushL1_mem]; exact h
    · exact pushCc_wf _ _ _ (by unfold Memory.wf; rw [pushL1_mem]; exact h)

theorem writeAt_wf (s : State) (core point l : Nat) (ps : List (Nat × Byte)) (h : Memory.wf s) :
    Memory.wf (s.writeAt core point l ps) := by
  have h1 := pushTo_wf s core point l h
  unfold State.writeAt Memory.wf
  dsimp only
  rw [wakeWatchers_mem]
  split
  · rw [foldl_mem _ _ (fun _ _ => cacheWrite_mem ..)]; exact h1
  · split
    · rw [foldl_mem _ _ (fun _ _ => by simp)]; exact h1
    · rw [foldl_mem _ _ (fun _ _ => by simp)]; exact homeWrite_wf _ _ _ _ h1

theorem writeRaw_wf (s : State) (ps : List (Nat × Byte)) (h : Memory.wf s) : Memory.wf (s.writeRaw ps) := by
  unfold State.writeRaw Memory.wf
  dsimp only
  rw [foldl_mem _ _ (fun _ _ => wakeWatchers_mem ..), cleanCovered_mem]
  exact memWf_pokePairs ps _ h

theorem writeBytes_wf (s : State) (core point : Nat) (ps : List (Nat × Byte)) (h : Memory.wf s) :
    Memory.wf (s.writeBytes core point ps) := by
  unfold State.writeBytes
  refine foldl_wf _ _ (fun _ _ hs => writeAt_wf _ _ _ _ _ hs) _ ?_
  split
  · exact h
  · exact writeRaw_wf _ _ h

theorem deviceWrite_wf (s : State) (a : Nat) (bs : List Byte) (h : Memory.wf s) : Memory.wf (s.deviceWrite a bs) :=
  foldl_wf _ _ (fun _ _ hs => homeWrite_wf _ _ _ _ hs) _ (by unfold Memory.wf; rw [unlock_mem]; exact h)

/-- Reset memory lists nothing, so it has the canonical form. -/
theorem reset_mem_wf : Memory.wf State.reset := rfl

end Sys2Proof.Laws
end

