-- ==== Sys2Proof/Laws/Moves.lean ====
section
/-! SUPPORT. What moving lanes on can change: nothing but places, loop levels and scheduling. The one lemma about ending an issue,
and the one about words that issue at once. -/

namespace Sys2Proof.Laws

set_option Elab.async false

open Sys2Proof.Machine Sys2Proof.Safety

/-- Two warps agree but for places and loop levels. -/
def Kept (w v : Warp) : Prop := SameWarp w v ∧ ∀ l, SameLane (w.lane l) (v.lane l)

theorem SameLane.refl (x : Lane) : SameLane x x := rfl

theorem SameLane.trans {x y z : Lane} (h : SameLane x y) (k : SameLane y z) : SameLane x z := by
  unfold SameLane at *
  cases x; cases y; cases z
  simp only [Lane.mk.injEq] at *
  simp_all

theorem SameWarp.trans {u v w : Warp} (h : SameWarp u v) (k : SameWarp v w) : SameWarp u w := by
  unfold SameWarp at *
  cases u; cases v; cases w
  simp only [Warp.mk.injEq] at *
  simp_all

theorem Kept.refl (w : Warp) : Kept w w := ⟨rfl, fun _ => rfl⟩

theorem Kept.trans {u v w : Warp} (h : Kept u v) (k : Kept v w) : Kept u w :=
  ⟨SameWarp.trans h.1 k.1, fun l => SameLane.trans (h.2 l) (k.2 l)⟩

theorem setAt_getD {α : Type} (l : List α) (i j : Nat) (f : α → α) (d : α) :
    (setAt l i f).getD j d = if i = j ∧ j < l.length then f (l.getD j d) else l.getD j d := by
  induction l generalizing i j with
  | nil => simp [setAt]
  | cons x r ih =>
    cases i with
    | zero => cases j <;> simp [setAt]
    | succ i => cases j with
      | zero => simp [setAt]
      | succ j => simpa [setAt] using ih i j

theorem modLane_lane (w : Warp) (i j : Nat) (f : Lane → Lane) :
    (w.modLane i f).lane j = if i = j ∧ j < w.lanes.length then f (w.lane j) else w.lane j :=
  setAt_getD w.lanes i j f {}

/-- A change of one lane's place keeps the rest. -/
theorem modLane_kept (w : Warp) (i : Nat) (f : Lane → Lane) (h : ∀ x, SameLane x (f x)) : Kept w (w.modLane i f) := by
  refine ⟨rfl, fun l => ?_⟩
  rw [modLane_lane]
  split
  · exact h _
  · exact SameLane.refl _

theorem foldl_kept {β : Type} (ls : List β) (f : Warp → β → Warp) (h : ∀ w b, Kept w (f w b)) (w : Warp) :
    Kept w (ls.foldl f w) := by
  induction ls generalizing w with
  | nil => exact Kept.refl w
  | cons b r ih => exact (h w b).trans (ih _)

theorem modLanes_kept (w : Warp) (ls : List Nat) (f : Nat → Lane → Lane) (h : ∀ l x, SameLane x (f l x)) :
    Kept w (w.modLanes ls f) :=
  foldl_kept ls _ (fun w l => modLane_kept w l (f l) (h l)) w

/-- A change of the levels keeps the rest. -/
theorem levels_kept (w : Warp) (vs : List Level) : Kept w { w with levels := vs } := ⟨rfl, fun _ => rfl⟩

theorem placeLane_same (w : Warp) (e : Option JigEntry) (c l : Nat) (p : Word) (o : Bool) (x : Lane) :
    SameLane x (w.placeLane e c l p o x) := by
  unfold Warp.placeLane
  split
  · rfl
  · split
    · rfl
    · dsimp only
      split <;> rfl

theorem runTo_same (w : Warp) (e : Option JigEntry) (c l : Nat) (a : Word) (x : Lane) : SameLane x (w.runTo e c l a x) := by
  unfold Warp.runTo placeRun
  split
  · split
    · rename_i h
      split at h
      · cases h
      · cases h; rfl
    · rfl
  · exact placeLane_same ..

theorem goTo_same (w : Warp) (c : Code) (l : Nat) (res : Bool) (a o : Word) (x : Lane) : SameLane x (w.goTo c l res a o x) := by
  unfold Warp.goTo
  split
  · rename_i h
    split at h
    · obtain ⟨j, -, hj⟩ := Option.bind_eq_some_iff.mp h
      unfold placeRun at hj
      split at hj
      · cases hj
      · cases hj; rfl
    · cases h
  · exact placeLane_same ..

theorem park_same (x y : Lane) (p : Park) (h : SameLane x y) : SameLane x { y with park := p } :=
  h.trans rfl

theorem reachEnd_kept (w : Warp) (c : Code) (k l : Nat) : Kept w (w.reachEnd c k l) :=
  (levels_kept w _).trans (modLane_kept _ l _ (fun _ => park_same _ _ _ (goTo_same ..)))

theorem leaveTo_kept (w : Warp) (c : Code) (k l : Nat) : Kept w (w.leaveTo c k l) := by
  unfold Warp.leaveTo
  dsimp only
  split
  · exact modLane_kept _ l _ (fun _ => park_same _ _ _ (goTo_same ..))
  · split
    · exact reachEnd_kept ..
    · exact modLane_kept _ l _ (fun _ => park_same _ _ _ (goTo_same ..))

theorem pop_kept (w : Warp) (c : Code) (k : Nat) : Kept w (w.pop c k) :=
  (foldl_kept _ _ (fun w l => leaveTo_kept w c k l) w).trans (levels_kept _ _)

theorem ite_kept {w u v : Warp} (c : Prop) [Decidable c] (h : Kept w u) (k : Kept w v) : Kept w (if c then u else v) := by
  split
  · exact h
  · exact k

theorem fire_kept (w : Warp) (c : Code) (k : Nat) : Kept w (w.fire c k) := by
  unfold Warp.fire
  refine ite_kept _ (pop_kept ..) ((levels_kept w _).trans (modLanes_kept _ _ _ (fun _ x => ?_)))
  split
  · rfl
  · rfl

theorem settleLoops_kept (w : Warp) (c : Code) (n : Nat) : Kept w (w.settleLoops c n) := by
  induction n generalizing w with
  | zero => exact Kept.refl w
  | succ n ih =>
    unfold Warp.settleLoops
    split
    · exact Kept.refl w
    · dsimp only
      split
      · exact (pop_kept ..).trans (ih _)
      · split
        · split
          · exact fire_kept ..
          · exact (fire_kept ..).trans (ih _)
        · exact Kept.refl w

theorem moveLane_kept (w : Warp) (c : Code) (l : Nat) (m : Move) : Kept w (w.moveLane c l m) := by
  have h0 : Kept w (w.modLane l (fun x => { x with hint := none, age := 0, park := .no, blocked := 0 })) :=
    modLane_kept _ _ _ (fun _ => rfl)
  unfold Warp.moveLane
  dsimp only
  split
  · exact h0.trans (modLane_kept _ _ _ (fun _ => runTo_same ..))
  · exact h0.trans (modLane_kept _ _ _ (fun _ => placeLane_same ..))
  · exact h0.trans (modLane_kept _ _ _ (fun _ => goTo_same ..))
  · split
    · exact h0.trans (modLane_kept _ _ _ (fun _ => runTo_same ..))
    · split
      · exact h0.trans (reachEnd_kept ..)
      · exact h0.trans (modLane_kept _ _ _ (fun _ => runTo_same ..))

/-- Moving lanes changes nothing but places and loop levels. -/
theorem moveLanes_kept (w : Warp) (c : Code) (ls : List Nat) (m : Nat → Move) : Kept w (w.moveLanes c ls m) :=
  (foldl_kept ls _ (fun w l => moveLane_kept w c l (m l)) w).trans (settleLoops_kept ..)

/-! ### Maps -/

theorem mget_mset_self {α : Type} (m : SMap α) (k : Nat) (v : α) : mget (mset m k v) k = some v := by
  induction m with
  | nil => simp [mset, mget]
  | cons e r ih =>
    unfold mset
    split
    · simp [mget]
    · split
      · simp [mget]
      · simp only [mget]
        split
        · rename_i h; exact absurd h.symm ‹_›
        · exact ih

theorem mget_mset_ne {α : Type} (m : SMap α) (k j : Nat) (v : α) (h : j ≠ k) : mget (mset m k v) j = mget m j := by
  induction m with
  | nil => simp [mset, mget, Ne.symm h]
  | cons e r ih =>
    unfold mset
    split
    · simp [mget, Ne.symm h]
    · split
      · rename_i h2
        subst h2
        simp [mget, Ne.symm h]
      · simp only [mget, ih]

/-! ### Ending an issue -/

theorem setWarp_warp (s : State) (k : Nat) (w : Warp) : (s.setWarp k w).warp k = some w := mget_mset_self ..

theorem setWarp_only (s : State) (k : Nat) (w : Warp) : OnlyWarp s (s.setWarp k w) k :=
  ⟨rfl, fun _ h => mget_mset_ne _ _ _ _ h⟩

/-- The post-issue hint and the wait are all that an issue changes of a warp beside its lanes. -/
theorem posted_same (j : Iss) (w : Warp) : SameWarp w (j.posted w) := by
  unfold Iss.posted SameWarp
  split <;> rfl

theorem posted_lanes (j : Iss) (w : Warp) : (j.posted w).lanes = w.lanes := by
  unfold Iss.posted
  split <;> rfl

theorem posted_lane (j : Iss) (w : Warp) (l : Nat) : (j.posted w).lane l = w.lane l := by
  unfold Warp.lane
  rw [posted_lanes]

/-- What leaving an instruction does to the state: the warp is w but for places, levels and scheduling; nothing else changes. -/
theorem leave_reaches (j : Iss) (s : State) (w : Warp) (m : Nat → Move) : Reaches s (j.leave s w m) j.k w := by
  refine ⟨setWarp_only .., _, setWarp_warp .., ?_, ?_⟩
  · exact SameWarp.trans (moveLanes_kept w j.code j.lanes m).1 (posted_same ..)
  · intro l
    rw [posted_lane]
    exact (moveLanes_kept w j.code j.lanes m).2 l

/-! ### Where lanes land without loop levels and residual code -/

/-- The address a move leads to from a lane that runs original code. -/
def moveTarget (m : Move) (x : Lane) : Word :=
  match m with
  | .fall => x.pc + 4
  | .run a => a
  | .orig a => a
  | .place _ _ o => o

theorem setAt_setAt {α : Type} (l : List α) (i : Nat) (f g : α → α) : setAt (setAt l i f) i g = setAt l i (fun x => g (f x)) := by
  induction l generalizing i with
  | nil => rfl
  | cons x r ih => cases i with
    | zero => rfl
    | succ i => simp only [setAt, ih]

theorem setAt_length {α : Type} (l : List α) (i : Nat) (f : α → α) : (setAt l i f).length = l.length := by
  induction l generalizing i with
  | nil => rfl
  | cons x r ih => cases i <;> simp [setAt, ih]

theorem setAt_congr {α : Type} (l : List α) (i : Nat) (f g : α → α) (d : α) (h : f (l.getD i d) = g (l.getD i d)) :
    setAt l i f = setAt l i g := by
  induction l generalizing i with
  | nil => rfl
  | cons x r ih => cases i with
    | zero => simpa [setAt] using h
    | succ i => simp only [setAt]; rw [ih]; simpa using h

theorem moveLane_plain (w : Warp) (c : Code) (l : Nat) (m : Move) (hd : w.depth = 0) (hj : c.jig = none)
    (hr : (w.lane l).rpc = none) : w.moveLane c l m = w.modLane l (fun x => landed (moveTarget m x) x) := by
  have hd0 : (w.modLane l (fun x => { x with hint := none, age := 0, park := .no, blocked := 0 })).depth = 0 := hd
  have key : ∀ f : Lane → Lane, f { w.lane l with hint := none, age := 0, park := .no, blocked := 0 } = landed (moveTarget m (w.lane l)) (w.lane l) →
      (w.modLane l (fun x => { x with hint := none, age := 0, park := .no, blocked := 0 })).modLane l f
        = w.modLane l (fun x => landed (moveTarget m x) x) := by
    intro f hf
    unfold Warp.modLane
    simp only [setAt_setAt]
    rw [setAt_congr w.lanes l _ (fun x => landed (moveTarget m x) x) {}]
    exact hf
  unfold Warp.moveLane
  dsimp only
  cases m with
  | run a => exact key _ (by simp [Warp.runTo, hr, Warp.placeLane, hj, landed, moveTarget])
  | orig a => exact key _ (by simp [Warp.placeLane, hj, landed, moveTarget])
  | place res a o => exact key _ (by simp [Warp.goTo, hr, Warp.placeLane, hj, landed, moveTarget])
  | fall =>
    dsimp only
    rw [hd0]
    exact key _ (by simp [Warp.runTo, hr, Warp.placeLane, hj, landed, moveTarget, Lane.runPc])

theorem moveFold_plain (c : Code) (ls : List Nat) (m : Nat → Move) (w : Warp) (hd : w.depth = 0) (hj : c.jig = none)
    (hr : ∀ l ∈ ls, (w.lane l).rpc = none) (hn : ls.Nodup) (hl : ∀ l ∈ ls, l < w.lanes.length) :
    (ls.foldl (fun w l => w.moveLane c l (m l)) w).depth = 0
      ∧ ∀ k, (ls.foldl (fun w l => w.moveLane c l (m l)) w).lane k
          = if k ∈ ls then landed (moveTarget (m k) (w.lane k)) (w.lane k) else w.lane k := by
  induction ls generalizing w with
  | nil => exact ⟨hd, fun k => by simp⟩
  | cons a r ih =>
    rw [List.foldl_cons, moveLane_plain w c a (m a) hd hj (hr a (by simp))]
    have ha : a ∉ r := (List.nodup_cons.mp hn).1
    have hlane : ∀ k, (w.modLane a (fun x => landed (moveTarget (m a) x) x)).lane k
        = if k = a then landed (moveTarget (m a) (w.lane a)) (w.lane a) else w.lane k := by
      intro k
      rw [modLane_lane]
      by_cases hk : a = k
      · subst hk
        simp [hl a (by simp)]
      · simp [hk, Ne.symm hk]
    obtain ⟨h1, h2⟩ := ih (w.modLane a (fun x => landed (moveTarget (m a) x) x)) hd
      (fun l h => by
        rw [hlane]
        split
        · rfl
        · exact hr l (by simp [h]))
      (List.nodup_cons.mp hn).2
      (fun l h => by
        have := hl l (by simp [h])
        simpa [Warp.modLane, setAt_length] using this)
    refine ⟨h1, fun k => ?_⟩
    rw [h2 k, hlane k]
    by_cases hk : k = a
    · subst hk
      simp [ha]
    · simp [hk]

theorem settleLoops_plain (w : Warp) (c : Code) (n : Nat) (h : w.depth = 0) : w.settleLoops c n = w := by
  cases n with
  | zero => rfl
  | succ n => simp [Warp.settleLoops, h]

/-- The lanes of an issue are live, without repeats. -/
theorem issue_lanes {s : State} {j : Iss} (h : s.issue = some j) : j.lanes.Nodup ∧ ∀ l ∈ j.lanes, (j.w.lane l).live = true := by
  unfold State.issue at h
  split at h
  · cases h
  · cases h
    refine ⟨(List.nodup_range.filter _).filter _, fun l hl => ?_⟩
    exact (List.mem_filter.mp hl).2

/-- A live lane is one of the warp's list. -/
theorem live_lt {w : Warp} {l : Nat} (h : (w.lane l).live = true) : l < w.lanes.length := by
  by_cases hl : l < w.lanes.length
  · exact hl
  · unfold Warp.lane at h
    rw [List.getD_eq_getElem?_getD, List.getElem?_eq_none (by omega)] at h
    cases h

/-- Where the lanes of an issue stand after it, without loop levels and residual code. -/
theorem lands_of {b : State} {j : Iss} (hn : j.lanes.Nodup) (hlive : ∀ l ∈ j.lanes, l < j.w.lanes.length) (hp : Plain j) (w : Warp)
    (m : Nat → Move) (hd : w.depth = j.w.depth) (hl : w.lanes.length = j.w.lanes.length)
    (hr : ∀ l, (w.lane l).rpc = (j.w.lane l).rpc) :
    ∃ v, (j.leave b w m).warp j.k = some v
      ∧ ∀ l, v.lane l = if l ∈ j.lanes then landed (moveTarget (m l) (w.lane l)) (w.lane l) else w.lane l := by
  refine ⟨_, setWarp_warp .., fun l => ?_⟩
  obtain ⟨h1, h2⟩ := moveFold_plain j.code j.lanes m w (by rw [hd]; exact hp.1) hp.2.1 (fun l h => by rw [hr]; exact hp.2.2 l h) hn
    (fun l h => by rw [hl]; exact hlive l h)
  rw [← h2 l, posted_lane]
  rw [Warp.moveLanes, settleLoops_plain _ _ _ h1]

/-- The same for the issue of a state. -/
theorem leave_lands {s b : State} {j : Iss} (hi : s.issue = some j) (hp : Plain j) (w : Warp) (m : Nat → Move)
    (hd : w.depth = j.w.depth) (hl : w.lanes.length = j.w.lanes.length) (hr : ∀ l, (w.lane l).rpc = (j.w.lane l).rpc) :
    ∃ v, (j.leave b w m).warp j.k = some v
      ∧ ∀ l, v.lane l = if l ∈ j.lanes then landed (moveTarget (m l) (w.lane l)) (w.lane l) else w.lane l :=
  lands_of (issue_lanes hi).1 (fun l h => live_lt ((issue_lanes hi).2 l h)) hp w m hd hl hr

/-- A word that issues at once and whose own rule ends by moving its lanes from the warp g completes. -/
theorem completes_of_leave {i : Instr} {u : State → Iss → Uses} {p : State → Iss → Prop} {b : State → Iss → State}
    {g : State → Iss → Warp} {dest : State → Iss → Nat → Word} (u' : State → Iss → Uses) (body : State → Iss → Res)
    (m : State → Iss → Nat → Move)
    (he : ∀ s, exec i s = atIssue s (u' s) (body s)) (hu : ∀ s j, u' s j = u s j)
    (hb : ∀ s j, Executes s j (u s j) → p s j → body s j = .done (j.leave (b s j) (g s j) (m s j)))
    (hg : ∀ s j, Executes s j (u s j) → p s j → (g s j).depth = j.w.depth ∧ (g s j).lanes.length = j.w.lanes.length
      ∧ ∀ l, ((g s j).lane l).rpc = (j.w.lane l).rpc)
    (ht : ∀ s j, Executes s j (u s j) → p s j → ∀ l ∈ j.lanes, moveTarget (m s j l) ((g s j).lane l) = dest s j l) :
    CompletesFrom i u p b g dest := by
  intro s j hx hp
  have hb := hb s j hx hp
  obtain ⟨g1, g2, g3⟩ := hg s j hx hp
  refine ⟨j.leave (b s j) (g s j) (m s j), _, ?_, leave_reaches .., setWarp_warp .., fun hpl l => ?_⟩
  · obtain ⟨h1, h2, h3⟩ := hx
    simp only [he, atIssue, h1, hu, h2, h3, hb, Iss.finish]
  · obtain ⟨v, hv, hv2⟩ := leave_lands (b := b s j) hx.1 hpl (g s j) (m s j) g1 g2 g3
    have e := (setWarp_warp (b s j) j.k _).symm.trans hv
    have := hv2 l
    rw [← Option.some.inj e] at this
    rw [this]
    split
    · rw [ht s j hx hp l ‹_›]
    · rfl

/-- The same where nothing but the warp changes. -/
theorem completes_of_atIssue {i : Instr} {u : State → Iss → Uses} {p : State → Iss → Prop} {g : State → Iss → Warp}
    {dest : State → Iss → Nat → Word} (u' : State → Iss → Uses) (body : State → Iss → Res) (m : State → Iss → Nat → Move)
    (he : ∀ s, exec i s = atIssue s (u' s) (body s)) (hu : ∀ s j, u' s j = u s j)
    (hb : ∀ s j, Executes s j (u s j) → p s j → body s j = .done (j.leave s (g s j) (m s j)))
    (hg : ∀ s j, Executes s j (u s j) → p s j → (g s j).depth = j.w.depth ∧ (g s j).lanes.length = j.w.lanes.length
      ∧ ∀ l, ((g s j).lane l).rpc = (j.w.lane l).rpc)
    (ht : ∀ s j, Executes s j (u s j) → p s j → ∀ l ∈ j.lanes, moveTarget (m s j l) ((g s j).lane l) = dest s j l) :
    CompletesTo i u p g dest :=
  completes_of_leave u' body m he hu hb hg ht

/-! ### Changing the lanes of a set -/

theorem modLanes_length (w : Warp) (ls : List Nat) (f : Nat → Lane → Lane) : (w.modLanes ls f).lanes.length = w.lanes.length := by
  unfold Warp.modLanes
  induction ls generalizing w with
  | nil => rfl
  | cons a r ih => rw [List.foldl_cons, ih]; exact setAt_length ..

theorem modLanes_rpc (w : Warp) (ls : List Nat) (f : Nat → Lane → Lane) (h : ∀ l x, (f l x).rpc = x.rpc) (k : Nat) :
    ((w.modLanes ls f).lane k).rpc = (w.lane k).rpc := by
  unfold Warp.modLanes
  induction ls generalizing w with
  | nil => rfl
  | cons a r ih =>
    rw [List.foldl_cons, ih, modLane_lane]
    split
    · exact h _ _
    · rfl

theorem modLanes_pc (w : Warp) (ls : List Nat) (f : Nat → Lane → Lane) (h : ∀ l x, (f l x).pc = x.pc) (k : Nat) :
    ((w.modLanes ls f).lane k).pc = (w.lane k).pc := by
  unfold Warp.modLanes
  induction ls generalizing w with
  | nil => rfl
  | cons a r ih =>
    rw [List.foldl_cons, ih, modLane_lane]
    split
    · exact h _ _
    · rfl

theorem modLanes_levels (w : Warp) (ls : List Nat) (f : Nat → Lane → Lane) : (w.modLanes ls f).levels = w.levels := by
  unfold Warp.modLanes
  induction ls generalizing w with
  | nil => rfl
  | cons a r ih => rw [List.foldl_cons, ih]; rfl

/-- What each lane holds after a change of the lanes of a set. -/
theorem modLanes_lane (w : Warp) (ls : List Nat) (f : Nat → Lane → Lane) (hn : ls.Nodup) (k : Nat) :
    (w.modLanes ls f).lane k = if k ∈ ls ∧ k < w.lanes.length then f k (w.lane k) else w.lane k := by
  unfold Warp.modLanes
  induction ls generalizing w with
  | nil => simp
  | cons a r ih =>
    have ha : a ∉ r := (List.nodup_cons.mp hn).1
    rw [List.foldl_cons, ih _ (List.nodup_cons.mp hn).2, modLane_lane]
    have hlen : (w.modLane a (f a)).lanes.length = w.lanes.length := setAt_length ..
    rw [hlen]
    by_cases hk : k = a
    · subst hk
      simp [ha]
    · simp [hk, Ne.symm hk]

end Sys2Proof.Laws
end

