-- ==== Sys2Proof/Laws/PerInstr.lean ====
section
/-! SUPPORT. Per instruction: the number its word is fits 32 bits, and reading its fields gives every operand back. -/

namespace Sys2Proof.Laws

set_option Elab.async false

/-- The family Encoding: an instruction that has a word has a number below 2^32 whose fields, read as R37 and R41 place them, are its
operands. -/
def Encoding.Statement (i : Instr) : Prop := i.wf = true → encodeNat i < 4294967296 ∧ readFields (encodeNat i) = .ok i

theorem fld_eq {n : Nat} (w lo : Nat) (x : BitVec n) (h : w / 2 ^ lo % 2 ^ n = x.toNat) : fld w lo n = x :=
  BitVec.eq_of_toNat_eq (by rw [fld, BitVec.toNat_ofNat, h])

/-- A row without a word meets the family's statement. -/
theorem Encoding.of_event {i : Instr} (h : i.isWord = false) : Encoding.Statement i := fun k => by simp [Instr.wf, h] at k

theorem Encoding.add (d a b w) : Encoding.Statement (.add d a b w) := by
  intro _
  have := d.isLt
  have := a.isLt
  have := b.isLt
  have := w.isLt
  generalize hn : encodeNat (.add d a b w) = v
  replace hn : 0x04000000 + d.toNat * 0x100000 + a.toNat * 0x2000 + b.toNat * 0x40 + w.toNat * 0x20 = v := hn
  refine ⟨by omega, ?_⟩
  have hm : v / 0x4000000 % 64 = 1 := by omega
  have hf : v / 1 % 32 = 0 := by omega
  simp only [readFields, hm, decodeIalu, hf]
  rw [fld_eq v 20 d (by omega), fld_eq v 13 a (by omega), fld_eq v 6 b (by omega), fld_eq v 5 w (by omega)]
theorem Encoding.sub (d a b w) : Encoding.Statement (.sub d a b w) := by
  intro _
  have := d.isLt
  have := a.isLt
  have := b.isLt
  have := w.isLt
  generalize hn : encodeNat (.sub d a b w) = v
  replace hn : 0x04000001 + d.toNat * 0x100000 + a.toNat * 0x2000 + b.toNat * 0x40 + w.toNat * 0x20 = v := hn
  refine ⟨by omega, ?_⟩
  have hm : v / 0x4000000 % 64 = 1 := by omega
  have hf : v / 1 % 32 = 1 := by omega
  simp only [readFields, hm, decodeIalu, hf]
  rw [fld_eq v 20 d (by omega), fld_eq v 13 a (by omega), fld_eq v 6 b (by omega), fld_eq v 5 w (by omega)]
theorem Encoding.mul (d a b w) : Encoding.Statement (.mul d a b w) := by
  intro _
  have := d.isLt
  have := a.isLt
  have := b.isLt
  have := w.isLt
  generalize hn : encodeNat (.mul d a b w) = v
  replace hn : 0x04000002 + d.toNat * 0x100000 + a.toNat * 0x2000 + b.toNat * 0x40 + w.toNat * 0x20 = v := hn
  refine ⟨by omega, ?_⟩
  have hm : v / 0x4000000 % 64 = 1 := by omega
  have hf : v / 1 % 32 = 2 := by omega
  simp only [readFields, hm, decodeIalu, hf]
  rw [fld_eq v 20 d (by omega), fld_eq v 13 a (by omega), fld_eq v 6 b (by omega), fld_eq v 5 w (by omega)]
theorem Encoding.mulhu (d a b w) : Encoding.Statement (.mulhu d a b w) := by
  intro _
  have := d.isLt
  have := a.isLt
  have := b.isLt
  have := w.isLt
  generalize hn : encodeNat (.mulhu d a b w) = v
  replace hn : 0x04000003 + d.toNat * 0x100000 + a.toNat * 0x2000 + b.toNat * 0x40 + w.toNat * 0x20 = v := hn
  refine ⟨by omega, ?_⟩
  have hm : v / 0x4000000 % 64 = 1 := by omega
  have hf : v / 1 % 32 = 3 := by omega
  simp only [readFields, hm, decodeIalu, hf]
  rw [fld_eq v 20 d (by omega), fld_eq v 13 a (by omega), fld_eq v 6 b (by omega), fld_eq v 5 w (by omega)]
theorem Encoding.min (d a b w) : Encoding.Statement (.min d a b w) := by
  intro _
  have := d.isLt
  have := a.isLt
  have := b.isLt
  have := w.isLt
  generalize hn : encodeNat (.min d a b w) = v
  replace hn : 0x04000004 + d.toNat * 0x100000 + a.toNat * 0x2000 + b.toNat * 0x40 + w.toNat * 0x20 = v := hn
  refine ⟨by omega, ?_⟩
  have hm : v / 0x4000000 % 64 = 1 := by omega
  have hf : v / 1 % 32 = 4 := by omega
  simp only [readFields, hm, decodeIalu, hf]
  rw [fld_eq v 20 d (by omega), fld_eq v 13 a (by omega), fld_eq v 6 b (by omega), fld_eq v 5 w (by omega)]
theorem Encoding.max (d a b w) : Encoding.Statement (.max d a b w) := by
  intro _
  have := d.isLt
  have := a.isLt
  have := b.isLt
  have := w.isLt
  generalize hn : encodeNat (.max d a b w) = v
  replace hn : 0x04000005 + d.toNat * 0x100000 + a.toNat * 0x2000 + b.toNat * 0x40 + w.toNat * 0x20 = v := hn
  refine ⟨by omega, ?_⟩
  have hm : v / 0x4000000 % 64 = 1 := by omega
  have hf : v / 1 % 32 = 5 := by omega
  simp only [readFields, hm, decodeIalu, hf]
  rw [fld_eq v 20 d (by omega), fld_eq v 13 a (by omega), fld_eq v 6 b (by omega), fld_eq v 5 w (by omega)]
theorem Encoding.minu (d a b w) : Encoding.Statement (.minu d a b w) := by
  intro _
  have := d.isLt
  have := a.isLt
  have := b.isLt
  have := w.isLt
  generalize hn : encodeNat (.minu d a b w) = v
  replace hn : 0x04000006 + d.toNat * 0x100000 + a.toNat * 0x2000 + b.toNat * 0x40 + w.toNat * 0x20 = v := hn
  refine ⟨by omega, ?_⟩
  have hm : v / 0x4000000 % 64 = 1 := by omega
  have hf : v / 1 % 32 = 6 := by omega
  simp only [readFields, hm, decodeIalu, hf]
  rw [fld_eq v 20 d (by omega), fld_eq v 13 a (by omega), fld_eq v 6 b (by omega), fld_eq v 5 w (by omega)]
theorem Encoding.maxu (d a b w) : Encoding.Statement (.maxu d a b w) := by
  intro _
  have := d.isLt
  have := a.isLt
  have := b.isLt
  have := w.isLt
  generalize hn : encodeNat (.maxu d a b w) = v
  replace hn : 0x04000007 + d.toNat * 0x100000 + a.toNat * 0x2000 + b.toNat * 0x40 + w.toNat * 0x20 = v := hn
  refine ⟨by omega, ?_⟩
  have hm : v / 0x4000000 % 64 = 1 := by omega
  have hf : v / 1 % 32 = 7 := by omega
  simp only [readFields, hm, decodeIalu, hf]
  rw [fld_eq v 20 d (by omega), fld_eq v 13 a (by omega), fld_eq v 6 b (by omega), fld_eq v 5 w (by omega)]
theorem Encoding.divu (d a b w) : Encoding.Statement (.divu d a b w) := by
  intro _
  have := d.isLt
  have := a.isLt
  have := b.isLt
  have := w.isLt
  generalize hn : encodeNat (.divu d a b w) = v
  replace hn : 0x04000008 + d.toNat * 0x100000 + a.toNat * 0x2000 + b.toNat * 0x40 + w.toNat * 0x20 = v := hn
  refine ⟨by omega, ?_⟩
  have hm : v / 0x4000000 % 64 = 1 := by omega
  have hf : v / 1 % 32 = 8 := by omega
  simp only [readFields, hm, decodeIalu, hf]
  rw [fld_eq v 20 d (by omega), fld_eq v 13 a (by omega), fld_eq v 6 b (by omega), fld_eq v 5 w (by omega)]
theorem Encoding.remu (d a b w) : Encoding.Statement (.remu d a b w) := by
  intro _
  have := d.isLt
  have := a.isLt
  have := b.isLt
  have := w.isLt
  generalize hn : encodeNat (.remu d a b w) = v
  replace hn : 0x04000009 + d.toNat * 0x100000 + a.toNat * 0x2000 + b.toNat * 0x40 + w.toNat * 0x20 = v := hn
  refine ⟨by omega, ?_⟩
  have hm : v / 0x4000000 % 64 = 1 := by omega
  have hf : v / 1 % 32 = 9 := by omega
  simp only [readFields, hm, decodeIalu, hf]
  rw [fld_eq v 20 d (by omega), fld_eq v 13 a (by omega), fld_eq v 6 b (by omega), fld_eq v 5 w (by omega)]
theorem Encoding.and (d a b w) : Encoding.Statement (.and d a b w) := by
  intro _
  have := d.isLt
  have := a.isLt
  have := b.isLt
  have := w.isLt
  generalize hn : encodeNat (.and d a b w) = v
  replace hn : 0x08000000 + d.toNat * 0x100000 + a.toNat * 0x2000 + b.toNat * 0x40 + w.toNat * 0x20 = v := hn
  refine ⟨by omega, ?_⟩
  have hm : v / 0x4000000 % 64 = 2 := by omega
  have hf : v / 1 % 32 = 0 := by omega
  simp only [readFields, hm, decodeIlogic, hf]
  rw [fld_eq v 20 d (by omega), fld_eq v 13 a (by omega), fld_eq v 6 b (by omega), fld_eq v 5 w (by omega)]
theorem Encoding.or (d a b w) : Encoding.Statement (.or d a b w) := by
  intro _
  have := d.isLt
  have := a.isLt
  have := b.isLt
  have := w.isLt
  generalize hn : encodeNat (.or d a b w) = v
  replace hn : 0x08000001 + d.toNat * 0x100000 + a.toNat * 0x2000 + b.toNat * 0x40 + w.toNat * 0x20 = v := hn
  refine ⟨by omega, ?_⟩
  have hm : v / 0x4000000 % 64 = 2 := by omega
  have hf : v / 1 % 32 = 1 := by omega
  simp only [readFields, hm, decodeIlogic, hf]
  rw [fld_eq v 20 d (by omega), fld_eq v 13 a (by omega), fld_eq v 6 b (by omega), fld_eq v 5 w (by omega)]
theorem Encoding.xor (d a b w) : Encoding.Statement (.xor d a b w) := by
  intro _
  have := d.isLt
  have := a.isLt
  have := b.isLt
  have := w.isLt
  generalize hn : encodeNat (.xor d a b w) = v
  replace hn : 0x08000002 + d.toNat * 0x100000 + a.toNat * 0x2000 + b.toNat * 0x40 + w.toNat * 0x20 = v := hn
  refine ⟨by omega, ?_⟩
  have hm : v / 0x4000000 % 64 = 2 := by omega
  have hf : v / 1 % 32 = 2 := by omega
  simp only [readFields, hm, decodeIlogic, hf]
  rw [fld_eq v 20 d (by omega), fld_eq v 13 a (by omega), fld_eq v 6 b (by omega), fld_eq v 5 w (by omega)]
theorem Encoding.andn (d a b w) : Encoding.Statement (.andn d a b w) := by
  intro _
  have := d.isLt
  have := a.isLt
  have := b.isLt
  have := w.isLt
  generalize hn : encodeNat (.andn d a b w) = v
  replace hn : 0x08000003 + d.toNat * 0x100000 + a.toNat * 0x2000 + b.toNat * 0x40 + w.toNat * 0x20 = v := hn
  refine ⟨by omega, ?_⟩
  have hm : v / 0x4000000 % 64 = 2 := by omega
  have hf : v / 1 % 32 = 3 := by omega
  simp only [readFields, hm, decodeIlogic, hf]
  rw [fld_eq v 20 d (by omega), fld_eq v 13 a (by omega), fld_eq v 6 b (by omega), fld_eq v 5 w (by omega)]
theorem Encoding.shl (d a b w) : Encoding.Statement (.shl d a b w) := by
  intro _
  have := d.isLt
  have := a.isLt
  have := b.isLt
  have := w.isLt
  generalize hn : encodeNat (.shl d a b w) = v
  replace hn : 0x08000004 + d.toNat * 0x100000 + a.toNat * 0x2000 + b.toNat * 0x40 + w.toNat * 0x20 = v := hn
  refine ⟨by omega, ?_⟩
  have hm : v / 0x4000000 % 64 = 2 := by omega
  have hf : v / 1 % 32 = 4 := by omega
  simp only [readFields, hm, decodeIlogic, hf]
  rw [fld_eq v 20 d (by omega), fld_eq v 13 a (by omega), fld_eq v 6 b (by omega), fld_eq v 5 w (by omega)]
theorem Encoding.shr (d a b w) : Encoding.Statement (.shr d a b w) := by
  intro _
  have := d.isLt
  have := a.isLt
  have := b.isLt
  have := w.isLt
  generalize hn : encodeNat (.shr d a b w) = v
  replace hn : 0x08000005 + d.toNat * 0x100000 + a.toNat * 0x2000 + b.toNat * 0x40 + w.toNat * 0x20 = v := hn
  refine ⟨by omega, ?_⟩
  have hm : v / 0x4000000 % 64 = 2 := by omega
  have hf : v / 1 % 32 = 5 := by omega
  simp only [readFields, hm, decodeIlogic, hf]
  rw [fld_eq v 20 d (by omega), fld_eq v 13 a (by omega), fld_eq v 6 b (by omega), fld_eq v 5 w (by omega)]
theorem Encoding.sar (d a b w) : Encoding.Statement (.sar d a b w) := by
  intro _
  have := d.isLt
  have := a.isLt
  have := b.isLt
  have := w.isLt
  generalize hn : encodeNat (.sar d a b w) = v
  replace hn : 0x08000006 + d.toNat * 0x100000 + a.toNat * 0x2000 + b.toNat * 0x40 + w.toNat * 0x20 = v := hn
  refine ⟨by omega, ?_⟩
  have hm : v / 0x4000000 % 64 = 2 := by omega
  have hf : v / 1 % 32 = 6 := by omega
  simp only [readFields, hm, decodeIlogic, hf]
  rw [fld_eq v 20 d (by omega), fld_eq v 13 a (by omega), fld_eq v 6 b (by omega), fld_eq v 5 w (by omega)]
theorem Encoding.popc (d a w) : Encoding.Statement (.popc d a w) := by
  intro _
  have := d.isLt
  have := a.isLt
  have := w.isLt
  generalize hn : encodeNat (.popc d a w) = v
  replace hn : 0x08001C07 + d.toNat * 0x100000 + a.toNat * 0x2000 + w.toNat * 0x20 = v := hn
  refine ⟨by omega, ?_⟩
  have hm : v / 0x4000000 % 64 = 2 := by omega
  have hf : v / 1 % 32 = 7 := by omega
  simp only [readFields, hm, decodeIlogic, hf]
  rw [fld_eq v 20 d (by omega), fld_eq v 13 a (by omega), fld_eq v 5 w (by omega)]
theorem Encoding.clz (d a w) : Encoding.Statement (.clz d a w) := by
  intro _
  have := d.isLt
  have := a.isLt
  have := w.isLt
  generalize hn : encodeNat (.clz d a w) = v
  replace hn : 0x08001C08 + d.toNat * 0x100000 + a.toNat * 0x2000 + w.toNat * 0x20 = v := hn
  refine ⟨by omega, ?_⟩
  have hm : v / 0x4000000 % 64 = 2 := by omega
  have hf : v / 1 % 32 = 8 := by omega
  simp only [readFields, hm, decodeIlogic, hf]
  rw [fld_eq v 20 d (by omega), fld_eq v 13 a (by omega), fld_eq v 5 w (by omega)]
theorem Encoding.ctz (d a w) : Encoding.Statement (.ctz d a w) := by
  intro _
  have := d.isLt
  have := a.isLt
  have := w.isLt
  generalize hn : encodeNat (.ctz d a w) = v
  replace hn : 0x08001C09 + d.toNat * 0x100000 + a.toNat * 0x2000 + w.toNat * 0x20 = v := hn
  refine ⟨by omega, ?_⟩
  have hm : v / 0x4000000 % 64 = 2 := by omega
  have hf : v / 1 % 32 = 9 := by omega
  simp only [readFields, hm, decodeIlogic, hf]
  rw [fld_eq v 20 d (by omega), fld_eq v 13 a (by omega), fld_eq v 5 w (by omega)]
theorem Encoding.bfx (d a b w) : Encoding.Statement (.bfx d a b w) := by
  intro _
  have := d.isLt
  have := a.isLt
  have := b.isLt
  have := w.isLt
  generalize hn : encodeNat (.bfx d a b w) = v
  replace hn : 0x0800000A + d.toNat * 0x100000 + a.toNat * 0x2000 + b.toNat * 0x40 + w.toNat * 0x20 = v := hn
  refine ⟨by omega, ?_⟩
  have hm : v / 0x4000000 % 64 = 2 := by omega
  have hf : v / 1 % 32 = 10 := by omega
  simp only [readFields, hm, decodeIlogic, hf]
  rw [fld_eq v 20 d (by omega), fld_eq v 13 a (by omega), fld_eq v 6 b (by omega), fld_eq v 5 w (by omega)]
theorem Encoding.ceq (d a b) : Encoding.Statement (.ceq d a b) := by
  intro _
  have := d.isLt
  have := a.isLt
  have := b.isLt
  generalize hn : encodeNat (.ceq d a b) = v
  replace hn : 0x0C000000 + d.toNat * 0x100000 + a.toNat * 0x2000 + b.toNat * 0x40 = v := hn
  refine ⟨by omega, ?_⟩
  have hm : v / 0x4000000 % 64 = 3 := by omega
  have hf : v / 1 % 64 = 0 := by omega
  simp only [readFields, hm, decodeIcmp, hf]
  rw [fld_eq v 20 d (by omega), fld_eq v 13 a (by omega), fld_eq v 6 b (by omega)]
theorem Encoding.clt (d a b) : Encoding.Statement (.clt d a b) := by
  intro _
  have := d.isLt
  have := a.isLt
  have := b.isLt
  generalize hn : encodeNat (.clt d a b) = v
  replace hn : 0x0C000001 + d.toNat * 0x100000 + a.toNat * 0x2000 + b.toNat * 0x40 = v := hn
  refine ⟨by omega, ?_⟩
  have hm : v / 0x4000000 % 64 = 3 := by omega
  have hf : v / 1 % 64 = 1 := by omega
  simp only [readFields, hm, decodeIcmp, hf]
  rw [fld_eq v 20 d (by omega), fld_eq v 13 a (by omega), fld_eq v 6 b (by omega)]
theorem Encoding.cltu (d a b) : Encoding.Statement (.cltu d a b) := by
  intro _
  have := d.isLt
  have := a.isLt
  have := b.isLt
  generalize hn : encodeNat (.cltu d a b) = v
  replace hn : 0x0C000002 + d.toNat * 0x100000 + a.toNat * 0x2000 + b.toNat * 0x40 = v := hn
  refine ⟨by omega, ?_⟩
  have hm : v / 0x4000000 % 64 = 3 := by omega
  have hf : v / 1 % 64 = 2 := by omega
  simp only [readFields, hm, decodeIcmp, hf]
  rw [fld_eq v 20 d (by omega), fld_eq v 13 a (by omega), fld_eq v 6 b (by omega)]
theorem Encoding.geq (g a b) : Encoding.Statement (.geq g a b) := by
  intro _
  have := g.isLt
  have := a.isLt
  have := b.isLt
  generalize hn : encodeNat (.geq g a b) = v
  replace hn : 0x0C000008 + g.toNat * 0x100000 + a.toNat * 0x2000 + b.toNat * 0x40 = v := hn
  refine ⟨by omega, ?_⟩
  have hm : v / 0x4000000 % 64 = 3 := by omega
  have hf : v / 1 % 64 = 8 := by omega
  simp only [readFields, hm, decodeIcmp, hf]
  rw [fld_eq v 20 g (by omega), fld_eq v 13 a (by omega), fld_eq v 6 b (by omega)]
theorem Encoding.gne (g a b) : Encoding.Statement (.gne g a b) := by
  intro _
  have := g.isLt
  have := a.isLt
  have := b.isLt
  generalize hn : encodeNat (.gne g a b) = v
  replace hn : 0x0C000009 + g.toNat * 0x100000 + a.toNat * 0x2000 + b.toNat * 0x40 = v := hn
  refine ⟨by omega, ?_⟩
  have hm : v / 0x4000000 % 64 = 3 := by omega
  have hf : v / 1 % 64 = 9 := by omega
  simp only [readFields, hm, decodeIcmp, hf]
  rw [fld_eq v 20 g (by omega), fld_eq v 13 a (by omega), fld_eq v 6 b (by omega)]
theorem Encoding.glt (g a b) : Encoding.Statement (.glt g a b) := by
  intro _
  have := g.isLt
  have := a.isLt
  have := b.isLt
  generalize hn : encodeNat (.glt g a b) = v
  replace hn : 0x0C00000A + g.toNat * 0x100000 + a.toNat * 0x2000 + b.toNat * 0x40 = v := hn
  refine ⟨by omega, ?_⟩
  have hm : v / 0x4000000 % 64 = 3 := by omega
  have hf : v / 1 % 64 = 10 := by omega
  simp only [readFields, hm, decodeIcmp, hf]
  rw [fld_eq v 20 g (by omega), fld_eq v 13 a (by omega), fld_eq v 6 b (by omega)]
theorem Encoding.gle (g a b) : Encoding.Statement (.gle g a b) := by
  intro _
  have := g.isLt
  have := a.isLt
  have := b.isLt
  generalize hn : encodeNat (.gle g a b) = v
  replace hn : 0x0C00000B + g.toNat * 0x100000 + a.toNat * 0x2000 + b.toNat * 0x40 = v := hn
  refine ⟨by omega, ?_⟩
  have hm : v / 0x4000000 % 64 = 3 := by omega
  have hf : v / 1 % 64 = 11 := by omega
  simp only [readFields, hm, decodeIcmp, hf]
  rw [fld_eq v 20 g (by omega), fld_eq v 13 a (by omega), fld_eq v 6 b (by omega)]
theorem Encoding.gltu (g a b) : Encoding.Statement (.gltu g a b) := by
  intro _
  have := g.isLt
  have := a.isLt
  have := b.isLt
  generalize hn : encodeNat (.gltu g a b) = v
  replace hn : 0x0C00000C + g.toNat * 0x100000 + a.toNat * 0x2000 + b.toNat * 0x40 = v := hn
  refine ⟨by omega, ?_⟩
  have hm : v / 0x4000000 % 64 = 3 := by omega
  have hf : v / 1 % 64 = 12 := by omega
  simp only [readFields, hm, decodeIcmp, hf]
  rw [fld_eq v 20 g (by omega), fld_eq v 13 a (by omega), fld_eq v 6 b (by omega)]
theorem Encoding.gleu (g a b) : Encoding.Statement (.gleu g a b) := by
  intro _
  have := g.isLt
  have := a.isLt
  have := b.isLt
  generalize hn : encodeNat (.gleu g a b) = v
  replace hn : 0x0C00000D + g.toNat * 0x100000 + a.toNat * 0x2000 + b.toNat * 0x40 = v := hn
  refine ⟨by omega, ?_⟩
  have hm : v / 0x4000000 % 64 = 3 := by omega
  have hf : v / 1 % 64 = 13 := by omega
  simp only [readFields, hm, decodeIcmp, hf]
  rw [fld_eq v 20 g (by omega), fld_eq v 13 a (by omega), fld_eq v 6 b (by omega)]
theorem Encoding.gand (g h j) : Encoding.Statement (.gand g h j) := by
  intro _
  have := g.isLt
  have := h.isLt
  have := j.isLt
  generalize hn : encodeNat (.gand g h j) = v
  replace hn : 0x0C000010 + g.toNat * 0x100000 + h.toNat * 0x2000 + j.toNat * 0x40 = v := hn
  refine ⟨by omega, ?_⟩
  have hm : v / 0x4000000 % 64 = 3 := by omega
  have hf : v / 1 % 64 = 16 := by omega
  simp only [readFields, hm, decodeIcmp, hf]
  rw [fld_eq v 20 g (by omega), fld_eq v 13 h (by omega), fld_eq v 6 j (by omega)]
theorem Encoding.gor (g h j) : Encoding.Statement (.gor g h j) := by
  intro _
  have := g.isLt
  have := h.isLt
  have := j.isLt
  generalize hn : encodeNat (.gor g h j) = v
  replace hn : 0x0C000011 + g.toNat * 0x100000 + h.toNat * 0x2000 + j.toNat * 0x40 = v := hn
  refine ⟨by omega, ?_⟩
  have hm : v / 0x4000000 % 64 = 3 := by omega
  have hf : v / 1 % 64 = 17 := by omega
  simp only [readFields, hm, decodeIcmp, hf]
  rw [fld_eq v 20 g (by omega), fld_eq v 13 h (by omega), fld_eq v 6 j (by omega)]
theorem Encoding.gnot (g h) : Encoding.Statement (.gnot g h) := by
  intro _
  have := g.isLt
  have := h.isLt
  generalize hn : encodeNat (.gnot g h) = v
  replace hn : 0x0C001C12 + g.toNat * 0x100000 + h.toNat * 0x2000 = v := hn
  refine ⟨by omega, ?_⟩
  have hm : v / 0x4000000 % 64 = 3 := by omega
  have hf : v / 1 % 64 = 18 := by omega
  simp only [readFields, hm, decodeIcmp, hf]
  rw [fld_eq v 20 g (by omega), fld_eq v 13 h (by omega)]
theorem Encoding.madW (d a b c) : Encoding.Statement (.madW d a b c) := by
  intro _
  have := d.isLt
  have := a.isLt
  have := b.isLt
  have := c.isLt
  generalize hn : encodeNat (.madW d a b c) = v
  replace hn : 0x10000000 + d.toNat * 0x100000 + a.toNat * 0x2000 + b.toNat * 0x40 + c.toNat * 0x4 = v := hn
  refine ⟨by omega, ?_⟩
  have hm : v / 0x4000000 % 64 = 4 := by omega
  have hf : v / 1 % 4 = 0 := by omega
  simp only [readFields, hm, decodeIl4, hf]
  rw [fld_eq v 20 d (by omega), fld_eq v 13 a (by omega), fld_eq v 6 b (by omega), fld_eq v 2 c (by omega)]
theorem Encoding.madD (d a b c) : Encoding.Statement (.madD d a b c) := by
  intro _
  have := d.isLt
  have := a.isLt
  have := b.isLt
  have := c.isLt
  generalize hn : encodeNat (.madD d a b c) = v
  replace hn : 0x10000001 + d.toNat * 0x100000 + a.toNat * 0x2000 + b.toNat * 0x40 + c.toNat * 0x4 = v := hn
  refine ⟨by omega, ?_⟩
  have hm : v / 0x4000000 % 64 = 4 := by omega
  have hf : v / 1 % 4 = 1 := by omega
  simp only [readFields, hm, decodeIl4, hf]
  rw [fld_eq v 20 d (by omega), fld_eq v 13 a (by omega), fld_eq v 6 b (by omega), fld_eq v 2 c (by omega)]
theorem Encoding.shadd (d a b c) : Encoding.Statement (.shadd d a b c) := by
  intro _
  have := d.isLt
  have := a.isLt
  have := b.isLt
  have := c.isLt
  generalize hn : encodeNat (.shadd d a b c) = v
  replace hn : 0x10000002 + d.toNat * 0x100000 + a.toNat * 0x2000 + b.toNat * 0x40 + c.toNat * 0x4 = v := hn
  refine ⟨by omega, ?_⟩
  have hm : v / 0x4000000 % 64 = 4 := by omega
  have hf : v / 1 % 4 = 2 := by omega
  simp only [readFields, hm, decodeIl4, hf]
  rw [fld_eq v 20 d (by omega), fld_eq v 13 a (by omega), fld_eq v 6 b (by omega), fld_eq v 2 c (by omega)]
theorem Encoding.bfi (d a b c) : Encoding.Statement (.bfi d a b c) := by
  intro _
  have := d.isLt
  have := a.isLt
  have := b.isLt
  have := c.isLt
  generalize hn : encodeNat (.bfi d a b c) = v
  replace hn : 0x10000003 + d.toNat * 0x100000 + a.toNat * 0x2000 + b.toNat * 0x40 + c.toNat * 0x4 = v := hn
  refine ⟨by omega, ?_⟩
  have hm : v / 0x4000000 % 64 = 4 := by omega
  have hf : v / 1 % 4 = 3 := by omega
  simp only [readFields, hm, decodeIl4, hf]
  rw [fld_eq v 20 d (by omega), fld_eq v 13 a (by omega), fld_eq v 6 b (by omega), fld_eq v 2 c (by omega)]
theorem Encoding.addi (d a i) : Encoding.Statement (.addi d a i) := by
  intro _
  have := d.isLt
  have := a.isLt
  have := i.isLt
  generalize hn : encodeNat (.addi d a i) = v
  replace hn : 0x14000000 + d.toNat * 0x100000 + a.toNat * 0x2000 + i.toNat * 0x1 = v := hn
  refine ⟨by omega, ?_⟩
  have hm : v / 0x4000000 % 64 = 5 := by omega
  have hf : v / 1024 % 8 = 0 := by omega
  simp only [readFields, hm, decodeIimm, hf]
  rw [fld_eq v 20 d (by omega), fld_eq v 13 a (by omega), fld_eq v 0 i (by omega)]
theorem Encoding.andi (d a i) : Encoding.Statement (.andi d a i) := by
  intro _
  have := d.isLt
  have := a.isLt
  have := i.isLt
  generalize hn : encodeNat (.andi d a i) = v
  replace hn : 0x14000400 + d.toNat * 0x100000 + a.toNat * 0x2000 + i.toNat * 0x1 = v := hn
  refine ⟨by omega, ?_⟩
  have hm : v / 0x4000000 % 64 = 5 := by omega
  have hf : v / 1024 % 8 = 1 := by omega
  simp only [readFields, hm, decodeIimm, hf]
  rw [fld_eq v 20 d (by omega), fld_eq v 13 a (by omega), fld_eq v 0 i (by omega)]
theorem Encoding.ori (d a i) : Encoding.Statement (.ori d a i) := by
  intro _
  have := d.isLt
  have := a.isLt
  have := i.isLt
  generalize hn : encodeNat (.ori d a i) = v
  replace hn : 0x14000800 + d.toNat * 0x100000 + a.toNat * 0x2000 + i.toNat * 0x1 = v := hn
  refine ⟨by omega, ?_⟩
  have hm : v / 0x4000000 % 64 = 5 := by omega
  have hf : v / 1024 % 8 = 2 := by omega
  simp only [readFields, hm, decodeIimm, hf]
  rw [fld_eq v 20 d (by omega), fld_eq v 13 a (by omega), fld_eq v 0 i (by omega)]
theorem Encoding.xori (d a i) : Encoding.Statement (.xori d a i) := by
  intro _
  have := d.isLt
  have := a.isLt
  have := i.isLt
  generalize hn : encodeNat (.xori d a i) = v
  replace hn : 0x14000C00 + d.toNat * 0x100000 + a.toNat * 0x2000 + i.toNat * 0x1 = v := hn
  refine ⟨by omega, ?_⟩
  have hm : v / 0x4000000 % 64 = 5 := by omega
  have hf : v / 1024 % 8 = 3 := by omega
  simp only [readFields, hm, decodeIimm, hf]
  rw [fld_eq v 20 d (by omega), fld_eq v 13 a (by omega), fld_eq v 0 i (by omega)]
theorem Encoding.shli (d a i) : Encoding.Statement (.shli d a i) := by
  intro _
  have := d.isLt
  have := a.isLt
  have := i.isLt
  generalize hn : encodeNat (.shli d a i) = v
  replace hn : 0x14001000 + d.toNat * 0x100000 + a.toNat * 0x2000 + i.toNat * 0x1 = v := hn
  refine ⟨by omega, ?_⟩
  have hm : v / 0x4000000 % 64 = 5 := by omega
  have hf : v / 1024 % 8 = 4 := by omega
  simp only [readFields, hm, decodeIimm, hf]
  rw [fld_eq v 20 d (by omega), fld_eq v 13 a (by omega), fld_eq v 0 i (by omega)]
theorem Encoding.shri (d a i) : Encoding.Statement (.shri d a i) := by
  intro _
  have := d.isLt
  have := a.isLt
  have := i.isLt
  generalize hn : encodeNat (.shri d a i) = v
  replace hn : 0x14001400 + d.toNat * 0x100000 + a.toNat * 0x2000 + i.toNat * 0x1 = v := hn
  refine ⟨by omega, ?_⟩
  have hm : v / 0x4000000 % 64 = 5 := by omega
  have hf : v / 1024 % 8 = 5 := by omega
  simp only [readFields, hm, decodeIimm, hf]
  rw [fld_eq v 20 d (by omega), fld_eq v 13 a (by omega), fld_eq v 0 i (by omega)]
theorem Encoding.sari (d a i) : Encoding.Statement (.sari d a i) := by
  intro _
  have := d.isLt
  have := a.isLt
  have := i.isLt
  generalize hn : encodeNat (.sari d a i) = v
  replace hn : 0x14001800 + d.toNat * 0x100000 + a.toNat * 0x2000 + i.toNat * 0x1 = v := hn
  refine ⟨by omega, ?_⟩
  have hm : v / 0x4000000 % 64 = 5 := by omega
  have hf : v / 1024 % 8 = 6 := by omega
  simp only [readFields, hm, decodeIimm, hf]
  rw [fld_eq v 20 d (by omega), fld_eq v 13 a (by omega), fld_eq v 0 i (by omega)]
theorem Encoding.ceqi (d a i) : Encoding.Statement (.ceqi d a i) := by
  intro _
  have := d.isLt
  have := a.isLt
  have := i.isLt
  generalize hn : encodeNat (.ceqi d a i) = v
  replace hn : 0x18000000 + d.toNat * 0x100000 + a.toNat * 0x2000 + i.toNat * 0x1 = v := hn
  refine ⟨by omega, ?_⟩
  have hm : v / 0x4000000 % 64 = 6 := by omega
  have hf : v / 1024 % 8 = 0 := by omega
  simp only [readFields, hm, decodeCimm, hf]
  rw [fld_eq v 20 d (by omega), fld_eq v 13 a (by omega), fld_eq v 0 i (by omega)]
theorem Encoding.clti (d a i) : Encoding.Statement (.clti d a i) := by
  intro _
  have := d.isLt
  have := a.isLt
  have := i.isLt
  generalize hn : encodeNat (.clti d a i) = v
  replace hn : 0x18000400 + d.toNat * 0x100000 + a.toNat * 0x2000 + i.toNat * 0x1 = v := hn
  refine ⟨by omega, ?_⟩
  have hm : v / 0x4000000 % 64 = 6 := by omega
  have hf : v / 1024 % 8 = 1 := by omega
  simp only [readFields, hm, decodeCimm, hf]
  rw [fld_eq v 20 d (by omega), fld_eq v 13 a (by omega), fld_eq v 0 i (by omega)]
theorem Encoding.geqi (g a i) : Encoding.Statement (.geqi g a i) := by
  intro _
  have := g.isLt
  have := a.isLt
  have := i.isLt
  generalize hn : encodeNat (.geqi g a i) = v
  replace hn : 0x18000800 + g.toNat * 0x100000 + a.toNat * 0x2000 + i.toNat * 0x1 = v := hn
  refine ⟨by omega, ?_⟩
  have hm : v / 0x4000000 % 64 = 6 := by omega
  have hf : v / 1024 % 8 = 2 := by omega
  simp only [readFields, hm, decodeCimm, hf]
  rw [fld_eq v 20 g (by omega), fld_eq v 13 a (by omega), fld_eq v 0 i (by omega)]
theorem Encoding.gnei (g a i) : Encoding.Statement (.gnei g a i) := by
  intro _
  have := g.isLt
  have := a.isLt
  have := i.isLt
  generalize hn : encodeNat (.gnei g a i) = v
  replace hn : 0x18000C00 + g.toNat * 0x100000 + a.toNat * 0x2000 + i.toNat * 0x1 = v := hn
  refine ⟨by omega, ?_⟩
  have hm : v / 0x4000000 % 64 = 6 := by omega
  have hf : v / 1024 % 8 = 3 := by omega
  simp only [readFields, hm, decodeCimm, hf]
  rw [fld_eq v 20 g (by omega), fld_eq v 13 a (by omega), fld_eq v 0 i (by omega)]
theorem Encoding.glti (g a i) : Encoding.Statement (.glti g a i) := by
  intro _
  have := g.isLt
  have := a.isLt
  have := i.isLt
  generalize hn : encodeNat (.glti g a i) = v
  replace hn : 0x18001000 + g.toNat * 0x100000 + a.toNat * 0x2000 + i.toNat * 0x1 = v := hn
  refine ⟨by omega, ?_⟩
  have hm : v / 0x4000000 % 64 = 6 := by omega
  have hf : v / 1024 % 8 = 4 := by omega
  simp only [readFields, hm, decodeCimm, hf]
  rw [fld_eq v 20 g (by omega), fld_eq v 13 a (by omega), fld_eq v 0 i (by omega)]
theorem Encoding.sel (d a b g) : Encoding.Statement (.sel d a b g) := by
  intro _
  have := d.isLt
  have := a.isLt
  have := b.isLt
  have := g.isLt
  generalize hn : encodeNat (.sel d a b g) = v
  replace hn : 0x1C000000 + d.toNat * 0x100000 + a.toNat * 0x2000 + b.toNat * 0x40 + g.toNat * 0x8 = v := hn
  refine ⟨by omega, ?_⟩
  have hm : v / 0x4000000 % 64 = 7 := by omega
  have hf : v / 1 % 8 = 0 := by omega
  simp only [readFields, hm, decodeSel, hf]
  rw [fld_eq v 20 d (by omega), fld_eq v 13 a (by omega), fld_eq v 6 b (by omega), fld_eq v 3 g (by omega)]
theorem Encoding.seln (d a b g) : Encoding.Statement (.seln d a b g) := by
  intro _
  have := d.isLt
  have := a.isLt
  have := b.isLt
  have := g.isLt
  generalize hn : encodeNat (.seln d a b g) = v
  replace hn : 0x1C000001 + d.toNat * 0x100000 + a.toNat * 0x2000 + b.toNat * 0x40 + g.toNat * 0x8 = v := hn
  refine ⟨by omega, ?_⟩
  have hm : v / 0x4000000 % 64 = 7 := by omega
  have hf : v / 1 % 8 = 1 := by omega
  simp only [readFields, hm, decodeSel, hf]
  rw [fld_eq v 20 d (by omega), fld_eq v 13 a (by omega), fld_eq v 6 b (by omega), fld_eq v 3 g (by omega)]
theorem Encoding.fadd (d a b) : Encoding.Statement (.fadd d a b) := by
  intro _
  have := d.isLt
  have := a.isLt
  have := b.isLt
  generalize hn : encodeNat (.fadd d a b) = v
  replace hn : 0x20000000 + d.toNat * 0x100000 + a.toNat * 0x2000 + b.toNat * 0x40 = v := hn
  refine ⟨by omega, ?_⟩
  have hm : v / 0x4000000 % 64 = 8 := by omega
  have hf : v / 1 % 64 = 0 := by omega
  simp only [readFields, hm, decodeFp32, hf]
  rw [fld_eq v 20 d (by omega), fld_eq v 13 a (by omega), fld_eq v 6 b (by omega)]
theorem Encoding.fsub (d a b) : Encoding.Statement (.fsub d a b) := by
  intro _
  have := d.isLt
  have := a.isLt
  have := b.isLt
  generalize hn : encodeNat (.fsub d a b) = v
  replace hn : 0x20000001 + d.toNat * 0x100000 + a.toNat * 0x2000 + b.toNat * 0x40 = v := hn
  refine ⟨by omega, ?_⟩
  have hm : v / 0x4000000 % 64 = 8 := by omega
  have hf : v / 1 % 64 = 1 := by omega
  simp only [readFields, hm, decodeFp32, hf]
  rw [fld_eq v 20 d (by omega), fld_eq v 13 a (by omega), fld_eq v 6 b (by omega)]
theorem Encoding.fmul (d a b) : Encoding.Statement (.fmul d a b) := by
  intro _
  have := d.isLt
  have := a.isLt
  have := b.isLt
  generalize hn : encodeNat (.fmul d a b) = v
  replace hn : 0x20000002 + d.toNat * 0x100000 + a.toNat * 0x2000 + b.toNat * 0x40 = v := hn
  refine ⟨by omega, ?_⟩
  have hm : v / 0x4000000 % 64 = 8 := by omega
  have hf : v / 1 % 64 = 2 := by omega
  simp only [readFields, hm, decodeFp32, hf]
  rw [fld_eq v 20 d (by omega), fld_eq v 13 a (by omega), fld_eq v 6 b (by omega)]
theorem Encoding.fmin (d a b) : Encoding.Statement (.fmin d a b) := by
  intro _
  have := d.isLt
  have := a.isLt
  have := b.isLt
  generalize hn : encodeNat (.fmin d a b) = v
  replace hn : 0x20000003 + d.toNat * 0x100000 + a.toNat * 0x2000 + b.toNat * 0x40 = v := hn
  refine ⟨by omega, ?_⟩
  have hm : v / 0x4000000 % 64 = 8 := by omega
  have hf : v / 1 % 64 = 3 := by omega
  simp only [readFields, hm, decodeFp32, hf]
  rw [fld_eq v 20 d (by omega), fld_eq v 13 a (by omega), fld_eq v 6 b (by omega)]
theorem Encoding.fmax (d a b) : Encoding.Statement (.fmax d a b) := by
  intro _
  have := d.isLt
  have := a.isLt
  have := b.isLt
  generalize hn : encodeNat (.fmax d a b) = v
  replace hn : 0x20000004 + d.toNat * 0x100000 + a.toNat * 0x2000 + b.toNat * 0x40 = v := hn
  refine ⟨by omega, ?_⟩
  have hm : v / 0x4000000 % 64 = 8 := by omega
  have hf : v / 1 % 64 = 4 := by omega
  simp only [readFields, hm, decodeFp32, hf]
  rw [fld_eq v 20 d (by omega), fld_eq v 13 a (by omega), fld_eq v 6 b (by omega)]
theorem Encoding.fabs (d a) : Encoding.Statement (.fabs d a) := by
  intro _
  have := d.isLt
  have := a.isLt
  generalize hn : encodeNat (.fabs d a) = v
  replace hn : 0x20001C05 + d.toNat * 0x100000 + a.toNat * 0x2000 = v := hn
  refine ⟨by omega, ?_⟩
  have hm : v / 0x4000000 % 64 = 8 := by omega
  have hf : v / 1 % 64 = 5 := by omega
  simp only [readFields, hm, decodeFp32, hf]
  rw [fld_eq v 20 d (by omega), fld_eq v 13 a (by omega)]
theorem Encoding.fneg (d a) : Encoding.Statement (.fneg d a) := by
  intro _
  have := d.isLt
  have := a.isLt
  generalize hn : encodeNat (.fneg d a) = v
  replace hn : 0x20001C06 + d.toNat * 0x100000 + a.toNat * 0x2000 = v := hn
  refine ⟨by omega, ?_⟩
  have hm : v / 0x4000000 % 64 = 8 := by omega
  have hf : v / 1 % 64 = 6 := by omega
  simp only [readFields, hm, decodeFp32, hf]
  rw [fld_eq v 20 d (by omega), fld_eq v 13 a (by omega)]
theorem Encoding.frint (d a) : Encoding.Statement (.frint d a) := by
  intro _
  have := d.isLt
  have := a.isLt
  generalize hn : encodeNat (.frint d a) = v
  replace hn : 0x20001C07 + d.toNat * 0x100000 + a.toNat * 0x2000 = v := hn
  refine ⟨by omega, ?_⟩
  have hm : v / 0x4000000 % 64 = 8 := by omega
  have hf : v / 1 % 64 = 7 := by omega
  simp only [readFields, hm, decodeFp32, hf]
  rw [fld_eq v 20 d (by omega), fld_eq v 13 a (by omega)]
theorem Encoding.fma (d a b c) : Encoding.Statement (.fma d a b c) := by
  intro _
  have := d.isLt
  have := a.isLt
  have := b.isLt
  have := c.isLt
  generalize hn : encodeNat (.fma d a b c) = v
  replace hn : 0x24000000 + d.toNat * 0x100000 + a.toNat * 0x2000 + b.toNat * 0x40 + c.toNat * 0x4 = v := hn
  refine ⟨by omega, ?_⟩
  have hm : v / 0x4000000 % 64 = 9 := by omega
  have hf : v / 1 % 4 = 0 := by omega
  simp only [readFields, hm, decodeFma, hf]
  rw [fld_eq v 20 d (by omega), fld_eq v 13 a (by omega), fld_eq v 6 b (by omega), fld_eq v 2 c (by omega)]
theorem Encoding.fms (d a b c) : Encoding.Statement (.fms d a b c) := by
  intro _
  have := d.isLt
  have := a.isLt
  have := b.isLt
  have := c.isLt
  generalize hn : encodeNat (.fms d a b c) = v
  replace hn : 0x24000001 + d.toNat * 0x100000 + a.toNat * 0x2000 + b.toNat * 0x40 + c.toNat * 0x4 = v := hn
  refine ⟨by omega, ?_⟩
  have hm : v / 0x4000000 % 64 = 9 := by omega
  have hf : v / 1 % 4 = 1 := by omega
  simp only [readFields, hm, decodeFma, hf]
  rw [fld_eq v 20 d (by omega), fld_eq v 13 a (by omega), fld_eq v 6 b (by omega), fld_eq v 2 c (by omega)]
theorem Encoding.fnma (d a b c) : Encoding.Statement (.fnma d a b c) := by
  intro _
  have := d.isLt
  have := a.isLt
  have := b.isLt
  have := c.isLt
  generalize hn : encodeNat (.fnma d a b c) = v
  replace hn : 0x24000002 + d.toNat * 0x100000 + a.toNat * 0x2000 + b.toNat * 0x40 + c.toNat * 0x4 = v := hn
  refine ⟨by omega, ?_⟩
  have hm : v / 0x4000000 % 64 = 9 := by omega
  have hf : v / 1 % 4 = 2 := by omega
  simp only [readFields, hm, decodeFma, hf]
  rw [fld_eq v 20 d (by omega), fld_eq v 13 a (by omega), fld_eq v 6 b (by omega), fld_eq v 2 c (by omega)]
theorem Encoding.dfma (d a b c) : Encoding.Statement (.dfma d a b c) := by
  intro _
  have := d.isLt
  have := a.isLt
  have := b.isLt
  have := c.isLt
  generalize hn : encodeNat (.dfma d a b c) = v
  replace hn : 0x24000003 + d.toNat * 0x100000 + a.toNat * 0x2000 + b.toNat * 0x40 + c.toNat * 0x4 = v := hn
  refine ⟨by omega, ?_⟩
  have hm : v / 0x4000000 % 64 = 9 := by omega
  have hf : v / 1 % 4 = 3 := by omega
  simp only [readFields, hm, decodeFma, hf]
  rw [fld_eq v 20 d (by omega), fld_eq v 13 a (by omega), fld_eq v 6 b (by omega), fld_eq v 2 c (by omega)]
theorem Encoding.hadd2 (d a b) : Encoding.Statement (.hadd2 d a b) := by
  intro _
  have := d.isLt
  have := a.isLt
  have := b.isLt
  generalize hn : encodeNat (.hadd2 d a b) = v
  replace hn : 0x28000000 + d.toNat * 0x100000 + a.toNat * 0x2000 + b.toNat * 0x40 = v := hn
  refine ⟨by omega, ?_⟩
  have hm : v / 0x4000000 % 64 = 10 := by omega
  have hf : v / 1 % 64 = 0 := by omega
  simp only [readFields, hm, decodeBf2, hf]
  rw [fld_eq v 20 d (by omega), fld_eq v 13 a (by omega), fld_eq v 6 b (by omega)]
theorem Encoding.hmul2 (d a b) : Encoding.Statement (.hmul2 d a b) := by
  intro _
  have := d.isLt
  have := a.isLt
  have := b.isLt
  generalize hn : encodeNat (.hmul2 d a b) = v
  replace hn : 0x28000001 + d.toNat * 0x100000 + a.toNat * 0x2000 + b.toNat * 0x40 = v := hn
  refine ⟨by omega, ?_⟩
  have hm : v / 0x4000000 % 64 = 10 := by omega
  have hf : v / 1 % 64 = 1 := by omega
  simp only [readFields, hm, decodeBf2, hf]
  rw [fld_eq v 20 d (by omega), fld_eq v 13 a (by omega), fld_eq v 6 b (by omega)]
theorem Encoding.hmin2 (d a b) : Encoding.Statement (.hmin2 d a b) := by
  intro _
  have := d.isLt
  have := a.isLt
  have := b.isLt
  generalize hn : encodeNat (.hmin2 d a b) = v
  replace hn : 0x28000002 + d.toNat * 0x100000 + a.toNat * 0x2000 + b.toNat * 0x40 = v := hn
  refine ⟨by omega, ?_⟩
  have hm : v / 0x4000000 % 64 = 10 := by omega
  have hf : v / 1 % 64 = 2 := by omega
  simp only [readFields, hm, decodeBf2, hf]
  rw [fld_eq v 20 d (by omega), fld_eq v 13 a (by omega), fld_eq v 6 b (by omega)]
theorem Encoding.hmax2 (d a b) : Encoding.Statement (.hmax2 d a b) := by
  intro _
  have := d.isLt
  have := a.isLt
  have := b.isLt
  generalize hn : encodeNat (.hmax2 d a b) = v
  replace hn : 0x28000003 + d.toNat * 0x100000 + a.toNat * 0x2000 + b.toNat * 0x40 = v := hn
  refine ⟨by omega, ?_⟩
  have hm : v / 0x4000000 % 64 = 10 := by omega
  have hf : v / 1 % 64 = 3 := by omega
  simp only [readFields, hm, decodeBf2, hf]
  rw [fld_eq v 20 d (by omega), fld_eq v 13 a (by omega), fld_eq v 6 b (by omega)]
theorem Encoding.hfma2 (d a b c) : Encoding.Statement (.hfma2 d a b c) := by
  intro _
  have := d.isLt
  have := a.isLt
  have := b.isLt
  have := c.isLt
  generalize hn : encodeNat (.hfma2 d a b c) = v
  replace hn : 0x2C000000 + d.toNat * 0x100000 + a.toNat * 0x2000 + b.toNat * 0x40 + c.toNat * 0x4 = v := hn
  refine ⟨by omega, ?_⟩
  have hm : v / 0x4000000 % 64 = 11 := by omega
  have hf : v / 1 % 4 = 0 := by omega
  simp only [readFields, hm, decodeHl4, hf]
  rw [fld_eq v 20 d (by omega), fld_eq v 13 a (by omega), fld_eq v 6 b (by omega), fld_eq v 2 c (by omega)]
theorem Encoding.dot4 (d a b c) : Encoding.Statement (.dot4 d a b c) := by
  intro _
  have := d.isLt
  have := a.isLt
  have := b.isLt
  have := c.isLt
  generalize hn : encodeNat (.dot4 d a b c) = v
  replace hn : 0x2C000001 + d.toNat * 0x100000 + a.toNat * 0x2000 + b.toNat * 0x40 + c.toNat * 0x4 = v := hn
  refine ⟨by omega, ?_⟩
  have hm : v / 0x4000000 % 64 = 11 := by omega
  have hf : v / 1 % 4 = 1 := by omega
  simp only [readFields, hm, decodeHl4, hf]
  rw [fld_eq v 20 d (by omega), fld_eq v 13 a (by omega), fld_eq v 6 b (by omega), fld_eq v 2 c (by omega)]
theorem Encoding.dadd (d a b) : Encoding.Statement (.dadd d a b) := by
  intro _
  have := d.isLt
  have := a.isLt
  have := b.isLt
  generalize hn : encodeNat (.dadd d a b) = v
  replace hn : 0x30000000 + d.toNat * 0x100000 + a.toNat * 0x2000 + b.toNat * 0x40 = v := hn
  refine ⟨by omega, ?_⟩
  have hm : v / 0x4000000 % 64 = 12 := by omega
  have hf : v / 1 % 64 = 0 := by omega
  simp only [readFields, hm, decodeFp64, hf]
  rw [fld_eq v 20 d (by omega), fld_eq v 13 a (by omega), fld_eq v 6 b (by omega)]
theorem Encoding.dsub (d a b) : Encoding.Statement (.dsub d a b) := by
  intro _
  have := d.isLt
  have := a.isLt
  have := b.isLt
  generalize hn : encodeNat (.dsub d a b) = v
  replace hn : 0x30000001 + d.toNat * 0x100000 + a.toNat * 0x2000 + b.toNat * 0x40 = v := hn
  refine ⟨by omega, ?_⟩
  have hm : v / 0x4000000 % 64 = 12 := by omega
  have hf : v / 1 % 64 = 1 := by omega
  simp only [readFields, hm, decodeFp64, hf]
  rw [fld_eq v 20 d (by omega), fld_eq v 13 a (by omega), fld_eq v 6 b (by omega)]
theorem Encoding.dmul (d a b) : Encoding.Statement (.dmul d a b) := by
  intro _
  have := d.isLt
  have := a.isLt
  have := b.isLt
  generalize hn : encodeNat (.dmul d a b) = v
  replace hn : 0x30000002 + d.toNat * 0x100000 + a.toNat * 0x2000 + b.toNat * 0x40 = v := hn
  refine ⟨by omega, ?_⟩
  have hm : v / 0x4000000 % 64 = 12 := by omega
  have hf : v / 1 % 64 = 2 := by omega
  simp only [readFields, hm, decodeFp64, hf]
  rw [fld_eq v 20 d (by omega), fld_eq v 13 a (by omega), fld_eq v 6 b (by omega)]
theorem Encoding.dmin (d a b) : Encoding.Statement (.dmin d a b) := by
  intro _
  have := d.isLt
  have := a.isLt
  have := b.isLt
  generalize hn : encodeNat (.dmin d a b) = v
  replace hn : 0x30000003 + d.toNat * 0x100000 + a.toNat * 0x2000 + b.toNat * 0x40 = v := hn
  refine ⟨by omega, ?_⟩
  have hm : v / 0x4000000 % 64 = 12 := by omega
  have hf : v / 1 % 64 = 3 := by omega
  simp only [readFields, hm, decodeFp64, hf]
  rw [fld_eq v 20 d (by omega), fld_eq v 13 a (by omega), fld_eq v 6 b (by omega)]
theorem Encoding.dmax (d a b) : Encoding.Statement (.dmax d a b) := by
  intro _
  have := d.isLt
  have := a.isLt
  have := b.isLt
  generalize hn : encodeNat (.dmax d a b) = v
  replace hn : 0x30000004 + d.toNat * 0x100000 + a.toNat * 0x2000 + b.toNat * 0x40 = v := hn
  refine ⟨by omega, ?_⟩
  have hm : v / 0x4000000 % 64 = 12 := by omega
  have hf : v / 1 % 64 = 4 := by omega
  simp only [readFields, hm, decodeFp64, hf]
  rw [fld_eq v 20 d (by omega), fld_eq v 13 a (by omega), fld_eq v 6 b (by omega)]
theorem Encoding.cvtF32S32 (d a) : Encoding.Statement (.cvtF32S32 d a) := by
  intro _
  have := d.isLt
  have := a.isLt
  generalize hn : encodeNat (.cvtF32S32 d a) = v
  replace hn : 0x34001C00 + d.toNat * 0x100000 + a.toNat * 0x2000 = v := hn
  refine ⟨by omega, ?_⟩
  have hm : v / 0x4000000 % 64 = 13 := by omega
  have hf : v / 1 % 64 = 0 := by omega
  simp only [readFields, hm, decodeCvt, hf]
  rw [fld_eq v 20 d (by omega), fld_eq v 13 a (by omega)]
theorem Encoding.cvtS32F32 (d a) : Encoding.Statement (.cvtS32F32 d a) := by
  intro _
  have := d.isLt
  have := a.isLt
  generalize hn : encodeNat (.cvtS32F32 d a) = v
  replace hn : 0x34001C01 + d.toNat * 0x100000 + a.toNat * 0x2000 = v := hn
  refine ⟨by omega, ?_⟩
  have hm : v / 0x4000000 % 64 = 13 := by omega
  have hf : v / 1 % 64 = 1 := by omega
  simp only [readFields, hm, decodeCvt, hf]
  rw [fld_eq v 20 d (by omega), fld_eq v 13 a (by omega)]
theorem Encoding.cvtU32F32 (d a) : Encoding.Statement (.cvtU32F32 d a) := by
  intro _
  have := d.isLt
  have := a.isLt
  generalize hn : encodeNat (.cvtU32F32 d a) = v
  replace hn : 0x34001C02 + d.toNat * 0x100000 + a.toNat * 0x2000 = v := hn
  refine ⟨by omega, ?_⟩
  have hm : v / 0x4000000 % 64 = 13 := by omega
  have hf : v / 1 % 64 = 2 := by omega
  simp only [readFields, hm, decodeCvt, hf]
  rw [fld_eq v 20 d (by omega), fld_eq v 13 a (by omega)]
theorem Encoding.cvtF64F32 (d a) : Encoding.Statement (.cvtF64F32 d a) := by
  intro _
  have := d.isLt
  have := a.isLt
  generalize hn : encodeNat (.cvtF64F32 d a) = v
  replace hn : 0x34001C03 + d.toNat * 0x100000 + a.toNat * 0x2000 = v := hn
  refine ⟨by omega, ?_⟩
  have hm : v / 0x4000000 % 64 = 13 := by omega
  have hf : v / 1 % 64 = 3 := by omega
  simp only [readFields, hm, decodeCvt, hf]
  rw [fld_eq v 20 d (by omega), fld_eq v 13 a (by omega)]
theorem Encoding.cvtF32F64 (d a) : Encoding.Statement (.cvtF32F64 d a) := by
  intro _
  have := d.isLt
  have := a.isLt
  generalize hn : encodeNat (.cvtF32F64 d a) = v
  replace hn : 0x34001C04 + d.toNat * 0x100000 + a.toNat * 0x2000 = v := hn
  refine ⟨by omega, ?_⟩
  have hm : v / 0x4000000 % 64 = 13 := by omega
  have hf : v / 1 % 64 = 4 := by omega
  simp only [readFields, hm, decodeCvt, hf]
  rw [fld_eq v 20 d (by omega), fld_eq v 13 a (by omega)]
theorem Encoding.cvtF64S64 (d a) : Encoding.Statement (.cvtF64S64 d a) := by
  intro _
  have := d.isLt
  have := a.isLt
  generalize hn : encodeNat (.cvtF64S64 d a) = v
  replace hn : 0x34001C05 + d.toNat * 0x100000 + a.toNat * 0x2000 = v := hn
  refine ⟨by omega, ?_⟩
  have hm : v / 0x4000000 % 64 = 13 := by omega
  have hf : v / 1 % 64 = 5 := by omega
  simp only [readFields, hm, decodeCvt, hf]
  rw [fld_eq v 20 d (by omega), fld_eq v 13 a (by omega)]
theorem Encoding.cvtS64F64 (d a) : Encoding.Statement (.cvtS64F64 d a) := by
  intro _
  have := d.isLt
  have := a.isLt
  generalize hn : encodeNat (.cvtS64F64 d a) = v
  replace hn : 0x34001C06 + d.toNat * 0x100000 + a.toNat * 0x2000 = v := hn
  refine ⟨by omega, ?_⟩
  have hm : v / 0x4000000 % 64 = 13 := by omega
  have hf : v / 1 % 64 = 6 := by omega
  simp only [readFields, hm, decodeCvt, hf]
  rw [fld_eq v 20 d (by omega), fld_eq v 13 a (by omega)]
theorem Encoding.cvtBf16F32 (d a) : Encoding.Statement (.cvtBf16F32 d a) := by
  intro _
  have := d.isLt
  have := a.isLt
  generalize hn : encodeNat (.cvtBf16F32 d a) = v
  replace hn : 0x34001C07 + d.toNat * 0x100000 + a.toNat * 0x2000 = v := hn
  refine ⟨by omega, ?_⟩
  have hm : v / 0x4000000 % 64 = 13 := by omega
  have hf : v / 1 % 64 = 7 := by omega
  simp only [readFields, hm, decodeCvt, hf]
  rw [fld_eq v 20 d (by omega), fld_eq v 13 a (by omega)]
theorem Encoding.cvtF32Bf16 (d a) : Encoding.Statement (.cvtF32Bf16 d a) := by
  intro _
  have := d.isLt
  have := a.isLt
  generalize hn : encodeNat (.cvtF32Bf16 d a) = v
  replace hn : 0x34001C08 + d.toNat * 0x100000 + a.toNat * 0x2000 = v := hn
  refine ⟨by omega, ?_⟩
  have hm : v / 0x4000000 % 64 = 13 := by omega
  have hf : v / 1 % 64 = 8 := by omega
  simp only [readFields, hm, decodeCvt, hf]
  rw [fld_eq v 20 d (by omega), fld_eq v 13 a (by omega)]
theorem Encoding.cvtF16F32 (d a) : Encoding.Statement (.cvtF16F32 d a) := by
  intro _
  have := d.isLt
  have := a.isLt
  generalize hn : encodeNat (.cvtF16F32 d a) = v
  replace hn : 0x34001C09 + d.toNat * 0x100000 + a.toNat * 0x2000 = v := hn
  refine ⟨by omega, ?_⟩
  have hm : v / 0x4000000 % 64 = 13 := by omega
  have hf : v / 1 % 64 = 9 := by omega
  simp only [readFields, hm, decodeCvt, hf]
  rw [fld_eq v 20 d (by omega), fld_eq v 13 a (by omega)]
theorem Encoding.cvtF32F16 (d a) : Encoding.Statement (.cvtF32F16 d a) := by
  intro _
  have := d.isLt
  have := a.isLt
  generalize hn : encodeNat (.cvtF32F16 d a) = v
  replace hn : 0x34001C0A + d.toNat * 0x100000 + a.toNat * 0x2000 = v := hn
  refine ⟨by omega, ?_⟩
  have hm : v / 0x4000000 % 64 = 13 := by omega
  have hf : v / 1 % 64 = 10 := by omega
  simp only [readFields, hm, decodeCvt, hf]
  rw [fld_eq v 20 d (by omega), fld_eq v 13 a (by omega)]
theorem Encoding.pack2 (d a b) : Encoding.Statement (.pack2 d a b) := by
  intro _
  have := d.isLt
  have := a.isLt
  have := b.isLt
  generalize hn : encodeNat (.pack2 d a b) = v
  replace hn : 0x3400000B + d.toNat * 0x100000 + a.toNat * 0x2000 + b.toNat * 0x40 = v := hn
  refine ⟨by omega, ?_⟩
  have hm : v / 0x4000000 % 64 = 13 := by omega
  have hf : v / 1 % 64 = 11 := by omega
  simp only [readFields, hm, decodeCvt, hf]
  rw [fld_eq v 20 d (by omega), fld_eq v 13 a (by omega), fld_eq v 6 b (by omega)]
theorem Encoding.fclt (d a b) : Encoding.Statement (.fclt d a b) := by
  intro _
  have := d.isLt
  have := a.isLt
  have := b.isLt
  generalize hn : encodeNat (.fclt d a b) = v
  replace hn : 0x38000000 + d.toNat * 0x100000 + a.toNat * 0x2000 + b.toNat * 0x40 = v := hn
  refine ⟨by omega, ?_⟩
  have hm : v / 0x4000000 % 64 = 14 := by omega
  have hf : v / 1 % 64 = 0 := by omega
  simp only [readFields, hm, decodeFcmp, hf]
  rw [fld_eq v 20 d (by omega), fld_eq v 13 a (by omega), fld_eq v 6 b (by omega)]
theorem Encoding.fcle (d a b) : Encoding.Statement (.fcle d a b) := by
  intro _
  have := d.isLt
  have := a.isLt
  have := b.isLt
  generalize hn : encodeNat (.fcle d a b) = v
  replace hn : 0x38000001 + d.toNat * 0x100000 + a.toNat * 0x2000 + b.toNat * 0x40 = v := hn
  refine ⟨by omega, ?_⟩
  have hm : v / 0x4000000 % 64 = 14 := by omega
  have hf : v / 1 % 64 = 1 := by omega
  simp only [readFields, hm, decodeFcmp, hf]
  rw [fld_eq v 20 d (by omega), fld_eq v 13 a (by omega), fld_eq v 6 b (by omega)]
theorem Encoding.fceq (d a b) : Encoding.Statement (.fceq d a b) := by
  intro _
  have := d.isLt
  have := a.isLt
  have := b.isLt
  generalize hn : encodeNat (.fceq d a b) = v
  replace hn : 0x38000002 + d.toNat * 0x100000 + a.toNat * 0x2000 + b.toNat * 0x40 = v := hn
  refine ⟨by omega, ?_⟩
  have hm : v / 0x4000000 % 64 = 14 := by omega
  have hf : v / 1 % 64 = 2 := by omega
  simp only [readFields, hm, decodeFcmp, hf]
  rw [fld_eq v 20 d (by omega), fld_eq v 13 a (by omega), fld_eq v 6 b (by omega)]
theorem Encoding.fglt (g a b) : Encoding.Statement (.fglt g a b) := by
  intro _
  have := g.isLt
  have := a.isLt
  have := b.isLt
  generalize hn : encodeNat (.fglt g a b) = v
  replace hn : 0x38000008 + g.toNat * 0x100000 + a.toNat * 0x2000 + b.toNat * 0x40 = v := hn
  refine ⟨by omega, ?_⟩
  have hm : v / 0x4000000 % 64 = 14 := by omega
  have hf : v / 1 % 64 = 8 := by omega
  simp only [readFields, hm, decodeFcmp, hf]
  rw [fld_eq v 20 g (by omega), fld_eq v 13 a (by omega), fld_eq v 6 b (by omega)]
theorem Encoding.fgle (g a b) : Encoding.Statement (.fgle g a b) := by
  intro _
  have := g.isLt
  have := a.isLt
  have := b.isLt
  generalize hn : encodeNat (.fgle g a b) = v
  replace hn : 0x38000009 + g.toNat * 0x100000 + a.toNat * 0x2000 + b.toNat * 0x40 = v := hn
  refine ⟨by omega, ?_⟩
  have hm : v / 0x4000000 % 64 = 14 := by omega
  have hf : v / 1 % 64 = 9 := by omega
  simp only [readFields, hm, decodeFcmp, hf]
  rw [fld_eq v 20 g (by omega), fld_eq v 13 a (by omega), fld_eq v 6 b (by omega)]
theorem Encoding.fgeq (g a b) : Encoding.Statement (.fgeq g a b) := by
  intro _
  have := g.isLt
  have := a.isLt
  have := b.isLt
  generalize hn : encodeNat (.fgeq g a b) = v
  replace hn : 0x3800000A + g.toNat * 0x100000 + a.toNat * 0x2000 + b.toNat * 0x40 = v := hn
  refine ⟨by omega, ?_⟩
  have hm : v / 0x4000000 % 64 = 14 := by omega
  have hf : v / 1 % 64 = 10 := by omega
  simp only [readFields, hm, decodeFcmp, hf]
  rw [fld_eq v 20 g (by omega), fld_eq v 13 a (by omega), fld_eq v 6 b (by omega)]
theorem Encoding.fgne (g a b) : Encoding.Statement (.fgne g a b) := by
  intro _
  have := g.isLt
  have := a.isLt
  have := b.isLt
  generalize hn : encodeNat (.fgne g a b) = v
  replace hn : 0x3800000B + g.toNat * 0x100000 + a.toNat * 0x2000 + b.toNat * 0x40 = v := hn
  refine ⟨by omega, ?_⟩
  have hm : v / 0x4000000 % 64 = 14 := by omega
  have hf : v / 1 % 64 = 11 := by omega
  simp only [readFields, hm, decodeFcmp, hf]
  rw [fld_eq v 20 g (by omega), fld_eq v 13 a (by omega), fld_eq v 6 b (by omega)]
theorem Encoding.fgun (g a b) : Encoding.Statement (.fgun g a b) := by
  intro _
  have := g.isLt
  have := a.isLt
  have := b.isLt
  generalize hn : encodeNat (.fgun g a b) = v
  replace hn : 0x3800000C + g.toNat * 0x100000 + a.toNat * 0x2000 + b.toNat * 0x40 = v := hn
  refine ⟨by omega, ?_⟩
  have hm : v / 0x4000000 % 64 = 14 := by omega
  have hf : v / 1 % 64 = 12 := by omega
  simp only [readFields, hm, decodeFcmp, hf]
  rw [fld_eq v 20 g (by omega), fld_eq v 13 a (by omega), fld_eq v 6 b (by omega)]
theorem Encoding.dglt (g a b) : Encoding.Statement (.dglt g a b) := by
  intro _
  have := g.isLt
  have := a.isLt
  have := b.isLt
  generalize hn : encodeNat (.dglt g a b) = v
  replace hn : 0x38000010 + g.toNat * 0x100000 + a.toNat * 0x2000 + b.toNat * 0x40 = v := hn
  refine ⟨by omega, ?_⟩
  have hm : v / 0x4000000 % 64 = 14 := by omega
  have hf : v / 1 % 64 = 16 := by omega
  simp only [readFields, hm, decodeFcmp, hf]
  rw [fld_eq v 20 g (by omega), fld_eq v 13 a (by omega), fld_eq v 6 b (by omega)]
theorem Encoding.ex2 (d a r) : Encoding.Statement (.ex2 d a r) := by
  intro _
  have := d.isLt
  have := a.isLt
  have := r.isLt
  generalize hn : encodeNat (.ex2 d a r) = v
  replace hn : 0x3C001C00 + d.toNat * 0x100000 + a.toNat * 0x2000 + r.toNat * 0x20 = v := hn
  refine ⟨by omega, ?_⟩
  have hm : v / 0x4000000 % 64 = 15 := by omega
  have hf : v / 1 % 32 = 0 := by omega
  simp only [readFields, hm, decodeSfu, hf]
  rw [fld_eq v 20 d (by omega), fld_eq v 13 a (by omega), fld_eq v 5 r (by omega)]
theorem Encoding.lg2 (d a r) : Encoding.Statement (.lg2 d a r) := by
  intro _
  have := d.isLt
  have := a.isLt
  have := r.isLt
  generalize hn : encodeNat (.lg2 d a r) = v
  replace hn : 0x3C001C01 + d.toNat * 0x100000 + a.toNat * 0x2000 + r.toNat * 0x20 = v := hn
  refine ⟨by omega, ?_⟩
  have hm : v / 0x4000000 % 64 = 15 := by omega
  have hf : v / 1 % 32 = 1 := by omega
  simp only [readFields, hm, decodeSfu, hf]
  rw [fld_eq v 20 d (by omega), fld_eq v 13 a (by omega), fld_eq v 5 r (by omega)]
theorem Encoding.rcp (d a r) : Encoding.Statement (.rcp d a r) := by
  intro _
  have := d.isLt
  have := a.isLt
  have := r.isLt
  generalize hn : encodeNat (.rcp d a r) = v
  replace hn : 0x3C001C02 + d.toNat * 0x100000 + a.toNat * 0x2000 + r.toNat * 0x20 = v := hn
  refine ⟨by omega, ?_⟩
  have hm : v / 0x4000000 % 64 = 15 := by omega
  have hf : v / 1 % 32 = 2 := by omega
  simp only [readFields, hm, decodeSfu, hf]
  rw [fld_eq v 20 d (by omega), fld_eq v 13 a (by omega), fld_eq v 5 r (by omega)]
theorem Encoding.rsq (d a r) : Encoding.Statement (.rsq d a r) := by
  intro _
  have := d.isLt
  have := a.isLt
  have := r.isLt
  generalize hn : encodeNat (.rsq d a r) = v
  replace hn : 0x3C001C03 + d.toNat * 0x100000 + a.toNat * 0x2000 + r.toNat * 0x20 = v := hn
  refine ⟨by omega, ?_⟩
  have hm : v / 0x4000000 % 64 = 15 := by omega
  have hf : v / 1 % 32 = 3 := by omega
  simp only [readFields, hm, decodeSfu, hf]
  rw [fld_eq v 20 d (by omega), fld_eq v 13 a (by omega), fld_eq v 5 r (by omega)]
theorem Encoding.sqrt (d a r) : Encoding.Statement (.sqrt d a r) := by
  intro _
  have := d.isLt
  have := a.isLt
  have := r.isLt
  generalize hn : encodeNat (.sqrt d a r) = v
  replace hn : 0x3C001C04 + d.toNat * 0x100000 + a.toNat * 0x2000 + r.toNat * 0x20 = v := hn
  refine ⟨by omega, ?_⟩
  have hm : v / 0x4000000 % 64 = 15 := by omega
  have hf : v / 1 % 32 = 4 := by omega
  simp only [readFields, hm, decodeSfu, hf]
  rw [fld_eq v 20 d (by omega), fld_eq v 13 a (by omega), fld_eq v 5 r (by omega)]
theorem Encoding.sinpi (d a r) : Encoding.Statement (.sinpi d a r) := by
  intro _
  have := d.isLt
  have := a.isLt
  have := r.isLt
  generalize hn : encodeNat (.sinpi d a r) = v
  replace hn : 0x3C001C05 + d.toNat * 0x100000 + a.toNat * 0x2000 + r.toNat * 0x20 = v := hn
  refine ⟨by omega, ?_⟩
  have hm : v / 0x4000000 % 64 = 15 := by omega
  have hf : v / 1 % 32 = 5 := by omega
  simp only [readFields, hm, decodeSfu, hf]
  rw [fld_eq v 20 d (by omega), fld_eq v 13 a (by omega), fld_eq v 5 r (by omega)]
theorem Encoding.cospi (d a r) : Encoding.Statement (.cospi d a r) := by
  intro _
  have := d.isLt
  have := a.isLt
  have := r.isLt
  generalize hn : encodeNat (.cospi d a r) = v
  replace hn : 0x3C001C06 + d.toNat * 0x100000 + a.toNat * 0x2000 + r.toNat * 0x20 = v := hn
  refine ⟨by omega, ?_⟩
  have hm : v / 0x4000000 % 64 = 15 := by omega
  have hf : v / 1 % 32 = 6 := by omega
  simp only [readFields, hm, decodeSfu, hf]
  rw [fld_eq v 20 d (by omega), fld_eq v 13 a (by omega), fld_eq v 5 r (by omega)]
theorem Encoding.tanh (d a r) : Encoding.Statement (.tanh d a r) := by
  intro _
  have := d.isLt
  have := a.isLt
  have := r.isLt
  generalize hn : encodeNat (.tanh d a r) = v
  replace hn : 0x3C001C07 + d.toNat * 0x100000 + a.toNat * 0x2000 + r.toNat * 0x20 = v := hn
  refine ⟨by omega, ?_⟩
  have hm : v / 0x4000000 % 64 = 15 := by omega
  have hf : v / 1 % 32 = 7 := by omega
  simp only [readFields, hm, decodeSfu, hf]
  rw [fld_eq v 20 d (by omega), fld_eq v 13 a (by omega), fld_eq v 5 r (by omega)]
theorem Encoding.sigm (d a r) : Encoding.Statement (.sigm d a r) := by
  intro _
  have := d.isLt
  have := a.isLt
  have := r.isLt
  generalize hn : encodeNat (.sigm d a r) = v
  replace hn : 0x3C001C08 + d.toNat * 0x100000 + a.toNat * 0x2000 + r.toNat * 0x20 = v := hn
  refine ⟨by omega, ?_⟩
  have hm : v / 0x4000000 % 64 = 15 := by omega
  have hf : v / 1 % 32 = 8 := by omega
  simp only [readFields, hm, decodeSfu, hf]
  rw [fld_eq v 20 d (by omega), fld_eq v 13 a (by omega), fld_eq v 5 r (by omega)]
theorem Encoding.gelu (d a r) : Encoding.Statement (.gelu d a r) := by
  intro _
  have := d.isLt
  have := a.isLt
  have := r.isLt
  generalize hn : encodeNat (.gelu d a r) = v
  replace hn : 0x3C001C09 + d.toNat * 0x100000 + a.toNat * 0x2000 + r.toNat * 0x20 = v := hn
  refine ⟨by omega, ?_⟩
  have hm : v / 0x4000000 % 64 = 15 := by omega
  have hf : v / 1 % 32 = 9 := by omega
  simp only [readFields, hm, decodeSfu, hf]
  rw [fld_eq v 20 d (by omega), fld_eq v 13 a (by omega), fld_eq v 5 r (by omega)]
theorem Encoding.qse3 (d a) : Encoding.Statement (.qse3 d a) := by
  intro _
  have := d.isLt
  have := a.isLt
  generalize hn : encodeNat (.qse3 d a) = v
  replace hn : 0x40001C00 + d.toNat * 0x100000 + a.toNat * 0x2000 = v := hn
  refine ⟨by omega, ?_⟩
  have hm : v / 0x4000000 % 64 = 16 := by omega
  have hf : v / 1 % 64 = 0 := by omega
  simp only [readFields, hm, decodeSeb, hf]
  rw [fld_eq v 20 d (by omega), fld_eq v 13 a (by omega)]
theorem Encoding.qse5 (d a) : Encoding.Statement (.qse5 d a) := by
  intro _
  have := d.isLt
  have := a.isLt
  generalize hn : encodeNat (.qse5 d a) = v
  replace hn : 0x40001C01 + d.toNat * 0x100000 + a.toNat * 0x2000 = v := hn
  refine ⟨by omega, ?_⟩
  have hm : v / 0x4000000 % 64 = 16 := by omega
  have hf : v / 1 % 64 = 1 := by omega
  simp only [readFields, hm, decodeSeb, hf]
  rw [fld_eq v 20 d (by omega), fld_eq v 13 a (by omega)]
theorem Encoding.qse8 (d a) : Encoding.Statement (.qse8 d a) := by
  intro _
  have := d.isLt
  have := a.isLt
  generalize hn : encodeNat (.qse8 d a) = v
  replace hn : 0x40001C02 + d.toNat * 0x100000 + a.toNat * 0x2000 = v := hn
  refine ⟨by omega, ?_⟩
  have hm : v / 0x4000000 % 64 = 16 := by omega
  have hf : v / 1 % 64 = 2 := by omega
  simp only [readFields, hm, decodeSeb, hf]
  rw [fld_eq v 20 d (by omega), fld_eq v 13 a (by omega)]
theorem Encoding.dqse3 (d a) : Encoding.Statement (.dqse3 d a) := by
  intro _
  have := d.isLt
  have := a.isLt
  generalize hn : encodeNat (.dqse3 d a) = v
  replace hn : 0x40001C03 + d.toNat * 0x100000 + a.toNat * 0x2000 = v := hn
  refine ⟨by omega, ?_⟩
  have hm : v / 0x4000000 % 64 = 16 := by omega
  have hf : v / 1 % 64 = 3 := by omega
  simp only [readFields, hm, decodeSeb, hf]
  rw [fld_eq v 20 d (by omega), fld_eq v 13 a (by omega)]
theorem Encoding.dqse5 (d a) : Encoding.Statement (.dqse5 d a) := by
  intro _
  have := d.isLt
  have := a.isLt
  generalize hn : encodeNat (.dqse5 d a) = v
  replace hn : 0x40001C04 + d.toNat * 0x100000 + a.toNat * 0x2000 = v := hn
  refine ⟨by omega, ?_⟩
  have hm : v / 0x4000000 % 64 = 16 := by omega
  have hf : v / 1 % 64 = 4 := by omega
  simp only [readFields, hm, decodeSeb, hf]
  rw [fld_eq v 20 d (by omega), fld_eq v 13 a (by omega)]
theorem Encoding.dqse8 (d a) : Encoding.Statement (.dqse8 d a) := by
  intro _
  have := d.isLt
  have := a.isLt
  generalize hn : encodeNat (.dqse8 d a) = v
  replace hn : 0x40001C05 + d.toNat * 0x100000 + a.toNat * 0x2000 = v := hn
  refine ⟨by omega, ?_⟩
  have hm : v / 0x4000000 % 64 = 16 := by omega
  have hf : v / 1 % 64 = 5 := by omega
  simp only [readFields, hm, decodeSeb, hf]
  rw [fld_eq v 20 d (by omega), fld_eq v 13 a (by omega)]
theorem Encoding.uadd (s d a b) : Encoding.Statement (.uadd s d a b) := by
  intro _
  have := s.isLt
  have := d.isLt
  have := a.isLt
  have := b.isLt
  generalize hn : encodeNat (.uadd s d a b) = v
  replace hn : 0x44000000 + s.toNat * 0x2000000 + d.toNat * 0x100000 + a.toNat * 0x2000 + b.toNat * 0x40 = v := hn
  refine ⟨by omega, ?_⟩
  have hm : v / 0x4000000 % 64 = 17 := by omega
  have hf : v / 1 % 64 = 0 := by omega
  simp only [readFields, hm, decodeUalu, hf]
  rw [fld_eq v 25 s (by omega), fld_eq v 20 d (by omega), fld_eq v 13 a (by omega), fld_eq v 6 b (by omega)]
theorem Encoding.usub (s d a b) : Encoding.Statement (.usub s d a b) := by
  intro _
  have := s.isLt
  have := d.isLt
  have := a.isLt
  have := b.isLt
  generalize hn : encodeNat (.usub s d a b) = v
  replace hn : 0x44000001 + s.toNat * 0x2000000 + d.toNat * 0x100000 + a.toNat * 0x2000 + b.toNat * 0x40 = v := hn
  refine ⟨by omega, ?_⟩
  have hm : v / 0x4000000 % 64 = 17 := by omega
  have hf : v / 1 % 64 = 1 := by omega
  simp only [readFields, hm, decodeUalu, hf]
  rw [fld_eq v 25 s (by omega), fld_eq v 20 d (by omega), fld_eq v 13 a (by omega), fld_eq v 6 b (by omega)]
theorem Encoding.umul (s d a b) : Encoding.Statement (.umul s d a b) := by
  intro _
  have := s.isLt
  have := d.isLt
  have := a.isLt
  have := b.isLt
  generalize hn : encodeNat (.umul s d a b) = v
  replace hn : 0x44000002 + s.toNat * 0x2000000 + d.toNat * 0x100000 + a.toNat * 0x2000 + b.toNat * 0x40 = v := hn
  refine ⟨by omega, ?_⟩
  have hm : v / 0x4000000 % 64 = 17 := by omega
  have hf : v / 1 % 64 = 2 := by omega
  simp only [readFields, hm, decodeUalu, hf]
  rw [fld_eq v 25 s (by omega), fld_eq v 20 d (by omega), fld_eq v 13 a (by omega), fld_eq v 6 b (by omega)]
theorem Encoding.umin (s d a b) : Encoding.Statement (.umin s d a b) := by
  intro _
  have := s.isLt
  have := d.isLt
  have := a.isLt
  have := b.isLt
  generalize hn : encodeNat (.umin s d a b) = v
  replace hn : 0x44000003 + s.toNat * 0x2000000 + d.toNat * 0x100000 + a.toNat * 0x2000 + b.toNat * 0x40 = v := hn
  refine ⟨by omega, ?_⟩
  have hm : v / 0x4000000 % 64 = 17 := by omega
  have hf : v / 1 % 64 = 3 := by omega
  simp only [readFields, hm, decodeUalu, hf]
  rw [fld_eq v 25 s (by omega), fld_eq v 20 d (by omega), fld_eq v 13 a (by omega), fld_eq v 6 b (by omega)]
theorem Encoding.umax (s d a b) : Encoding.Statement (.umax s d a b) := by
  intro _
  have := s.isLt
  have := d.isLt
  have := a.isLt
  have := b.isLt
  generalize hn : encodeNat (.umax s d a b) = v
  replace hn : 0x44000004 + s.toNat * 0x2000000 + d.toNat * 0x100000 + a.toNat * 0x2000 + b.toNat * 0x40 = v := hn
  refine ⟨by omega, ?_⟩
  have hm : v / 0x4000000 % 64 = 17 := by omega
  have hf : v / 1 % 64 = 4 := by omega
  simp only [readFields, hm, decodeUalu, hf]
  rw [fld_eq v 25 s (by omega), fld_eq v 20 d (by omega), fld_eq v 13 a (by omega), fld_eq v 6 b (by omega)]
theorem Encoding.uand (s d a b) : Encoding.Statement (.uand s d a b) := by
  intro _
  have := s.isLt
  have := d.isLt
  have := a.isLt
  have := b.isLt
  generalize hn : encodeNat (.uand s d a b) = v
  replace hn : 0x44000005 + s.toNat * 0x2000000 + d.toNat * 0x100000 + a.toNat * 0x2000 + b.toNat * 0x40 = v := hn
  refine ⟨by omega, ?_⟩
  have hm : v / 0x4000000 % 64 = 17 := by omega
  have hf : v / 1 % 64 = 5 := by omega
  simp only [readFields, hm, decodeUalu, hf]
  rw [fld_eq v 25 s (by omega), fld_eq v 20 d (by omega), fld_eq v 13 a (by omega), fld_eq v 6 b (by omega)]
theorem Encoding.uor (s d a b) : Encoding.Statement (.uor s d a b) := by
  intro _
  have := s.isLt
  have := d.isLt
  have := a.isLt
  have := b.isLt
  generalize hn : encodeNat (.uor s d a b) = v
  replace hn : 0x44000006 + s.toNat * 0x2000000 + d.toNat * 0x100000 + a.toNat * 0x2000 + b.toNat * 0x40 = v := hn
  refine ⟨by omega, ?_⟩
  have hm : v / 0x4000000 % 64 = 17 := by omega
  have hf : v / 1 % 64 = 6 := by omega
  simp only [readFields, hm, decodeUalu, hf]
  rw [fld_eq v 25 s (by omega), fld_eq v 20 d (by omega), fld_eq v 13 a (by omega), fld_eq v 6 b (by omega)]
theorem Encoding.ushl (s d a b) : Encoding.Statement (.ushl s d a b) := by
  intro _
  have := s.isLt
  have := d.isLt
  have := a.isLt
  have := b.isLt
  generalize hn : encodeNat (.ushl s d a b) = v
  replace hn : 0x44000007 + s.toNat * 0x2000000 + d.toNat * 0x100000 + a.toNat * 0x2000 + b.toNat * 0x40 = v := hn
  refine ⟨by omega, ?_⟩
  have hm : v / 0x4000000 % 64 = 17 := by omega
  have hf : v / 1 % 64 = 7 := by omega
  simp only [readFields, hm, decodeUalu, hf]
  rw [fld_eq v 25 s (by omega), fld_eq v 20 d (by omega), fld_eq v 13 a (by omega), fld_eq v 6 b (by omega)]
theorem Encoding.ushr (s d a b) : Encoding.Statement (.ushr s d a b) := by
  intro _
  have := s.isLt
  have := d.isLt
  have := a.isLt
  have := b.isLt
  generalize hn : encodeNat (.ushr s d a b) = v
  replace hn : 0x44000008 + s.toNat * 0x2000000 + d.toNat * 0x100000 + a.toNat * 0x2000 + b.toNat * 0x40 = v := hn
  refine ⟨by omega, ?_⟩
  have hm : v / 0x4000000 % 64 = 17 := by omega
  have hf : v / 1 % 64 = 8 := by omega
  simp only [readFields, hm, decodeUalu, hf]
  rw [fld_eq v 25 s (by omega), fld_eq v 20 d (by omega), fld_eq v 13 a (by omega), fld_eq v 6 b (by omega)]
theorem Encoding.uceq (s d a b) : Encoding.Statement (.uceq s d a b) := by
  intro _
  have := s.isLt
  have := d.isLt
  have := a.isLt
  have := b.isLt
  generalize hn : encodeNat (.uceq s d a b) = v
  replace hn : 0x44000009 + s.toNat * 0x2000000 + d.toNat * 0x100000 + a.toNat * 0x2000 + b.toNat * 0x40 = v := hn
  refine ⟨by omega, ?_⟩
  have hm : v / 0x4000000 % 64 = 17 := by omega
  have hf : v / 1 % 64 = 9 := by omega
  simp only [readFields, hm, decodeUalu, hf]
  rw [fld_eq v 25 s (by omega), fld_eq v 20 d (by omega), fld_eq v 13 a (by omega), fld_eq v 6 b (by omega)]
theorem Encoding.uclt (s d a b) : Encoding.Statement (.uclt s d a b) := by
  intro _
  have := s.isLt
  have := d.isLt
  have := a.isLt
  have := b.isLt
  generalize hn : encodeNat (.uclt s d a b) = v
  replace hn : 0x4400000A + s.toNat * 0x2000000 + d.toNat * 0x100000 + a.toNat * 0x2000 + b.toNat * 0x40 = v := hn
  refine ⟨by omega, ?_⟩
  have hm : v / 0x4000000 % 64 = 17 := by omega
  have hf : v / 1 % 64 = 10 := by omega
  simp only [readFields, hm, decodeUalu, hf]
  rw [fld_eq v 25 s (by omega), fld_eq v 20 d (by omega), fld_eq v 13 a (by omega), fld_eq v 6 b (by omega)]
theorem Encoding.ucltu (s d a b) : Encoding.Statement (.ucltu s d a b) := by
  intro _
  have := s.isLt
  have := d.isLt
  have := a.isLt
  have := b.isLt
  generalize hn : encodeNat (.ucltu s d a b) = v
  replace hn : 0x4400000B + s.toNat * 0x2000000 + d.toNat * 0x100000 + a.toNat * 0x2000 + b.toNat * 0x40 = v := hn
  refine ⟨by omega, ?_⟩
  have hm : v / 0x4000000 % 64 = 17 := by omega
  have hf : v / 1 % 64 = 11 := by omega
  simp only [readFields, hm, decodeUalu, hf]
  rw [fld_eq v 25 s (by omega), fld_eq v 20 d (by omega), fld_eq v 13 a (by omega), fld_eq v 6 b (by omega)]
theorem Encoding.udivu (s d a b) : Encoding.Statement (.udivu s d a b) := by
  intro _
  have := s.isLt
  have := d.isLt
  have := a.isLt
  have := b.isLt
  generalize hn : encodeNat (.udivu s d a b) = v
  replace hn : 0x4400000C + s.toNat * 0x2000000 + d.toNat * 0x100000 + a.toNat * 0x2000 + b.toNat * 0x40 = v := hn
  refine ⟨by omega, ?_⟩
  have hm : v / 0x4000000 % 64 = 17 := by omega
  have hf : v / 1 % 64 = 12 := by omega
  simp only [readFields, hm, decodeUalu, hf]
  rw [fld_eq v 25 s (by omega), fld_eq v 20 d (by omega), fld_eq v 13 a (by omega), fld_eq v 6 b (by omega)]
theorem Encoding.uaddi (s d a i) : Encoding.Statement (.uaddi s d a i) := by
  intro _
  have := s.isLt
  have := d.isLt
  have := a.isLt
  have := i.isLt
  generalize hn : encodeNat (.uaddi s d a i) = v
  replace hn : 0x48000000 + s.toNat * 0x2000000 + d.toNat * 0x100000 + a.toNat * 0x2000 + i.toNat * 0x1 = v := hn
  refine ⟨by omega, ?_⟩
  have hm : v / 0x4000000 % 64 = 18 := by omega
  have hf : v / 1024 % 8 = 0 := by omega
  simp only [readFields, hm, decodeUimm, hf]
  rw [fld_eq v 25 s (by omega), fld_eq v 20 d (by omega), fld_eq v 13 a (by omega), fld_eq v 0 i (by omega)]
theorem Encoding.uandi (s d a i) : Encoding.Statement (.uandi s d a i) := by
  intro _
  have := s.isLt
  have := d.isLt
  have := a.isLt
  have := i.isLt
  generalize hn : encodeNat (.uandi s d a i) = v
  replace hn : 0x48000400 + s.toNat * 0x2000000 + d.toNat * 0x100000 + a.toNat * 0x2000 + i.toNat * 0x1 = v := hn
  refine ⟨by omega, ?_⟩
  have hm : v / 0x4000000 % 64 = 18 := by omega
  have hf : v / 1024 % 8 = 1 := by omega
  simp only [readFields, hm, decodeUimm, hf]
  rw [fld_eq v 25 s (by omega), fld_eq v 20 d (by omega), fld_eq v 13 a (by omega), fld_eq v 0 i (by omega)]
theorem Encoding.ushli (s d a i) : Encoding.Statement (.ushli s d a i) := by
  intro _
  have := s.isLt
  have := d.isLt
  have := a.isLt
  have := i.isLt
  generalize hn : encodeNat (.ushli s d a i) = v
  replace hn : 0x48000800 + s.toNat * 0x2000000 + d.toNat * 0x100000 + a.toNat * 0x2000 + i.toNat * 0x1 = v := hn
  refine ⟨by omega, ?_⟩
  have hm : v / 0x4000000 % 64 = 18 := by omega
  have hf : v / 1024 % 8 = 2 := by omega
  simp only [readFields, hm, decodeUimm, hf]
  rw [fld_eq v 25 s (by omega), fld_eq v 20 d (by omega), fld_eq v 13 a (by omega), fld_eq v 0 i (by omega)]
theorem Encoding.ushri (s d a i) : Encoding.Statement (.ushri s d a i) := by
  intro _
  have := s.isLt
  have := d.isLt
  have := a.isLt
  have := i.isLt
  generalize hn : encodeNat (.ushri s d a i) = v
  replace hn : 0x48000C00 + s.toNat * 0x2000000 + d.toNat * 0x100000 + a.toNat * 0x2000 + i.toNat * 0x1 = v := hn
  refine ⟨by omega, ?_⟩
  have hm : v / 0x4000000 % 64 = 18 := by omega
  have hf : v / 1024 % 8 = 3 := by omega
  simp only [readFields, hm, decodeUimm, hf]
  rw [fld_eq v 25 s (by omega), fld_eq v 20 d (by omega), fld_eq v 13 a (by omega), fld_eq v 0 i (by omega)]
theorem Encoding.uceqi (s d a i) : Encoding.Statement (.uceqi s d a i) := by
  intro _
  have := s.isLt
  have := d.isLt
  have := a.isLt
  have := i.isLt
  generalize hn : encodeNat (.uceqi s d a i) = v
  replace hn : 0x48001000 + s.toNat * 0x2000000 + d.toNat * 0x100000 + a.toNat * 0x2000 + i.toNat * 0x1 = v := hn
  refine ⟨by omega, ?_⟩
  have hm : v / 0x4000000 % 64 = 18 := by omega
  have hf : v / 1024 % 8 = 4 := by omega
  simp only [readFields, hm, decodeUimm, hf]
  rw [fld_eq v 25 s (by omega), fld_eq v 20 d (by omega), fld_eq v 13 a (by omega), fld_eq v 0 i (by omega)]
theorem Encoding.uclti (s d a i) : Encoding.Statement (.uclti s d a i) := by
  intro _
  have := s.isLt
  have := d.isLt
  have := a.isLt
  have := i.isLt
  generalize hn : encodeNat (.uclti s d a i) = v
  replace hn : 0x48001400 + s.toNat * 0x2000000 + d.toNat * 0x100000 + a.toNat * 0x2000 + i.toNat * 0x1 = v := hn
  refine ⟨by omega, ?_⟩
  have hm : v / 0x4000000 % 64 = 18 := by omega
  have hf : v / 1024 % 8 = 5 := by omega
  simp only [readFields, hm, decodeUimm, hf]
  rw [fld_eq v 25 s (by omega), fld_eq v 20 d (by omega), fld_eq v 13 a (by omega), fld_eq v 0 i (by omega)]
theorem Encoding.ulda (s d a o) : Encoding.Statement (.ulda s d a o) := by
  intro _
  have := s.isLt
  have := d.isLt
  have := a.isLt
  have := o.isLt
  generalize hn : encodeNat (.ulda s d a o) = v
  replace hn : 0x4C000000 + s.toNat * 0x2000000 + d.toNat * 0x100000 + a.toNat * 0x2000 + o.toNat * 0x1 = v := hn
  refine ⟨by omega, ?_⟩
  have hm : v / 0x4000000 % 64 = 19 := by omega
  have hf : v / 1024 % 8 = 0 := by omega
  simp only [readFields, hm, decodeUload, hf]
  rw [fld_eq v 25 s (by omega), fld_eq v 20 d (by omega), fld_eq v 13 a (by omega), fld_eq v 0 o (by omega)]
theorem Encoding.uldk (s d a o) : Encoding.Statement (.uldk s d a o) := by
  intro _
  have := s.isLt
  have := d.isLt
  have := a.isLt
  have := o.isLt
  generalize hn : encodeNat (.uldk s d a o) = v
  replace hn : 0x4C000400 + s.toNat * 0x2000000 + d.toNat * 0x100000 + a.toNat * 0x2000 + o.toNat * 0x1 = v := hn
  refine ⟨by omega, ?_⟩
  have hm : v / 0x4000000 % 64 = 19 := by omega
  have hf : v / 1024 % 8 = 1 := by omega
  simp only [readFields, hm, decodeUload, hf]
  rw [fld_eq v 25 s (by omega), fld_eq v 20 d (by omega), fld_eq v 13 a (by omega), fld_eq v 0 o (by omega)]
theorem Encoding.uld (d a o) : Encoding.Statement (.uld d a o) := by
  intro _
  have := d.isLt
  have := a.isLt
  have := o.isLt
  generalize hn : encodeNat (.uld d a o) = v
  replace hn : 0x4C000800 + d.toNat * 0x100000 + a.toNat * 0x2000 + o.toNat * 0x1 = v := hn
  refine ⟨by omega, ?_⟩
  have hm : v / 0x4000000 % 64 = 19 := by omega
  have hf : v / 1024 % 8 = 2 := by omega
  simp only [readFields, hm, decodeUload, hf]
  rw [fld_eq v 20 d (by omega), fld_eq v 13 a (by omega), fld_eq v 0 o (by omega)]
theorem Encoding.ureadl (d a b) : Encoding.Statement (.ureadl d a b) := by
  intro _
  have := d.isLt
  have := a.isLt
  have := b.isLt
  generalize hn : encodeNat (.ureadl d a b) = v
  replace hn : 0x50000000 + d.toNat * 0x100000 + a.toNat * 0x2000 + b.toNat * 0x40 = v := hn
  refine ⟨by omega, ?_⟩
  have hm : v / 0x4000000 % 64 = 20 := by omega
  have hf : v / 1 % 64 = 0 := by omega
  simp only [readFields, hm, decodeUx, hf]
  rw [fld_eq v 20 d (by omega), fld_eq v 13 a (by omega), fld_eq v 6 b (by omega)]
theorem Encoding.ufirst (d a) : Encoding.Statement (.ufirst d a) := by
  intro _
  have := d.isLt
  have := a.isLt
  generalize hn : encodeNat (.ufirst d a) = v
  replace hn : 0x50001C01 + d.toNat * 0x100000 + a.toNat * 0x2000 = v := hn
  refine ⟨by omega, ?_⟩
  have hm : v / 0x4000000 % 64 = 20 := by omega
  have hf : v / 1 % 64 = 1 := by omega
  simp only [readFields, hm, decodeUx, hf]
  rw [fld_eq v 20 d (by omega), fld_eq v 13 a (by omega)]
theorem Encoding.ld (x a m z c o p) : Encoding.Statement (.ld x a m z c o p) := by
  intro _
  have := x.isLt
  have := a.isLt
  have := m.isLt
  have := z.isLt
  have := c.isLt
  have := o.isLt
  have := p.isLt
  generalize hn : encodeNat (.ld x a m z c o p) = v
  replace hn : 0x60000000 + x.toNat * 0x80000 + a.toNat * 0x1000 + m.toNat * 0x800 + z.toNat * 0x100 + c.toNat * 0x20 + o.toNat * 0x8 + p.toNat * 0x1 = v := hn
  refine ⟨by omega, ?_⟩
  have hm : v / 0x4000000 % 64 = 24 := by omega
  simp only [readFields, hm]
  rw [fld_eq v 19 x (by omega), fld_eq v 12 a (by omega), fld_eq v 11 m (by omega), fld_eq v 8 z (by omega), fld_eq v 5 c (by omega), fld_eq v 3 o (by omega), fld_eq v 0 p (by omega)]
theorem Encoding.st (x a m z c o g) : Encoding.Statement (.st x a m z c o g) := by
  intro _
  have := x.isLt
  have := a.isLt
  have := m.isLt
  have := z.isLt
  have := c.isLt
  have := o.isLt
  have := g.isLt
  generalize hn : encodeNat (.st x a m z c o g) = v
  replace hn : 0x64000000 + x.toNat * 0x80000 + a.toNat * 0x1000 + m.toNat * 0x800 + z.toNat * 0x100 + c.toNat * 0x20 + o.toNat * 0x8 + g.toNat * 0x1 = v := hn
  refine ⟨by omega, ?_⟩
  have hm : v / 0x4000000 % 64 = 25 := by omega
  simp only [readFields, hm]
  rw [fld_eq v 19 x (by omega), fld_eq v 12 a (by omega), fld_eq v 11 m (by omega), fld_eq v 8 z (by omega), fld_eq v 5 c (by omega), fld_eq v 3 o (by omega), fld_eq v 0 g (by omega)]
theorem Encoding.atomAdd (x a w c o g) : Encoding.Statement (.atomAdd x a w c o g) := by
  intro _
  have := x.isLt
  have := a.isLt
  have := w.isLt
  have := c.isLt
  have := o.isLt
  have := g.isLt
  generalize hn : encodeNat (.atomAdd x a w c o g) = v
  replace hn : 0x68000000 + x.toNat * 0x100000 + a.toNat * 0x2000 + w.toNat * 0x1000 + c.toNat * 0x20 + o.toNat * 0x8 + g.toNat * 0x1 = v := hn
  refine ⟨by omega, ?_⟩
  have hm : v / 0x4000000 % 64 = 26 := by omega
  have hf : v / 256 % 16 = 0 := by omega
  simp only [readFields, hm, decodeAtom, hf]
  rw [fld_eq v 20 x (by omega), fld_eq v 13 a (by omega), fld_eq v 12 w (by omega), fld_eq v 5 c (by omega), fld_eq v 3 o (by omega), fld_eq v 0 g (by omega)]
theorem Encoding.atomMin (x a w c o g) : Encoding.Statement (.atomMin x a w c o g) := by
  intro _
  have := x.isLt
  have := a.isLt
  have := w.isLt
  have := c.isLt
  have := o.isLt
  have := g.isLt
  generalize hn : encodeNat (.atomMin x a w c o g) = v
  replace hn : 0x68000100 + x.toNat * 0x100000 + a.toNat * 0x2000 + w.toNat * 0x1000 + c.toNat * 0x20 + o.toNat * 0x8 + g.toNat * 0x1 = v := hn
  refine ⟨by omega, ?_⟩
  have hm : v / 0x4000000 % 64 = 26 := by omega
  have hf : v / 256 % 16 = 1 := by omega
  simp only [readFields, hm, decodeAtom, hf]
  rw [fld_eq v 20 x (by omega), fld_eq v 13 a (by omega), fld_eq v 12 w (by omega), fld_eq v 5 c (by omega), fld_eq v 3 o (by omega), fld_eq v 0 g (by omega)]
theorem Encoding.atomMax (x a w c o g) : Encoding.Statement (.atomMax x a w c o g) := by
  intro _
  have := x.isLt
  have := a.isLt
  have := w.isLt
  have := c.isLt
  have := o.isLt
  have := g.isLt
  generalize hn : encodeNat (.atomMax x a w c o g) = v
  replace hn : 0x68000200 + x.toNat * 0x100000 + a.toNat * 0x2000 + w.toNat * 0x1000 + c.toNat * 0x20 + o.toNat * 0x8 + g.toNat * 0x1 = v := hn
  refine ⟨by omega, ?_⟩
  have hm : v / 0x4000000 % 64 = 26 := by omega
  have hf : v / 256 % 16 = 2 := by omega
  simp only [readFields, hm, decodeAtom, hf]
  rw [fld_eq v 20 x (by omega), fld_eq v 13 a (by omega), fld_eq v 12 w (by omega), fld_eq v 5 c (by omega), fld_eq v 3 o (by omega), fld_eq v 0 g (by omega)]
theorem Encoding.atomAnd (x a w c o g) : Encoding.Statement (.atomAnd x a w c o g) := by
  intro _
  have := x.isLt
  have := a.isLt
  have := w.isLt
  have := c.isLt
  have := o.isLt
  have := g.isLt
  generalize hn : encodeNat (.atomAnd x a w c o g) = v
  replace hn : 0x68000300 + x.toNat * 0x100000 + a.toNat * 0x2000 + w.toNat * 0x1000 + c.toNat * 0x20 + o.toNat * 0x8 + g.toNat * 0x1 = v := hn
  refine ⟨by omega, ?_⟩
  have hm : v / 0x4000000 % 64 = 26 := by omega
  have hf : v / 256 % 16 = 3 := by omega
  simp only [readFields, hm, decodeAtom, hf]
  rw [fld_eq v 20 x (by omega), fld_eq v 13 a (by omega), fld_eq v 12 w (by omega), fld_eq v 5 c (by omega), fld_eq v 3 o (by omega), fld_eq v 0 g (by omega)]
theorem Encoding.atomOr (x a w c o g) : Encoding.Statement (.atomOr x a w c o g) := by
  intro _
  have := x.isLt
  have := a.isLt
  have := w.isLt
  have := c.isLt
  have := o.isLt
  have := g.isLt
  generalize hn : encodeNat (.atomOr x a w c o g) = v
  replace hn : 0x68000400 + x.toNat * 0x100000 + a.toNat * 0x2000 + w.toNat * 0x1000 + c.toNat * 0x20 + o.toNat * 0x8 + g.toNat * 0x1 = v := hn
  refine ⟨by omega, ?_⟩
  have hm : v / 0x4000000 % 64 = 26 := by omega
  have hf : v / 256 % 16 = 4 := by omega
  simp only [readFields, hm, decodeAtom, hf]
  rw [fld_eq v 20 x (by omega), fld_eq v 13 a (by omega), fld_eq v 12 w (by omega), fld_eq v 5 c (by omega), fld_eq v 3 o (by omega), fld_eq v 0 g (by omega)]
theorem Encoding.atomXor (x a w c o g) : Encoding.Statement (.atomXor x a w c o g) := by
  intro _
  have := x.isLt
  have := a.isLt
  have := w.isLt
  have := c.isLt
  have := o.isLt
  have := g.isLt
  generalize hn : encodeNat (.atomXor x a w c o g) = v
  replace hn : 0x68000500 + x.toNat * 0x100000 + a.toNat * 0x2000 + w.toNat * 0x1000 + c.toNat * 0x20 + o.toNat * 0x8 + g.toNat * 0x1 = v := hn
  refine ⟨by omega, ?_⟩
  have hm : v / 0x4000000 % 64 = 26 := by omega
  have hf : v / 256 % 16 = 5 := by omega
  simp only [readFields, hm, decodeAtom, hf]
  rw [fld_eq v 20 x (by omega), fld_eq v 13 a (by omega), fld_eq v 12 w (by omega), fld_eq v 5 c (by omega), fld_eq v 3 o (by omega), fld_eq v 0 g (by omega)]
theorem Encoding.atomExch (x a w c o g) : Encoding.Statement (.atomExch x a w c o g) := by
  intro _
  have := x.isLt
  have := a.isLt
  have := w.isLt
  have := c.isLt
  have := o.isLt
  have := g.isLt
  generalize hn : encodeNat (.atomExch x a w c o g) = v
  replace hn : 0x68000600 + x.toNat * 0x100000 + a.toNat * 0x2000 + w.toNat * 0x1000 + c.toNat * 0x20 + o.toNat * 0x8 + g.toNat * 0x1 = v := hn
  refine ⟨by omega, ?_⟩
  have hm : v / 0x4000000 % 64 = 26 := by omega
  have hf : v / 256 % 16 = 6 := by omega
  simp only [readFields, hm, decodeAtom, hf]
  rw [fld_eq v 20 x (by omega), fld_eq v 13 a (by omega), fld_eq v 12 w (by omega), fld_eq v 5 c (by omega), fld_eq v 3 o (by omega), fld_eq v 0 g (by omega)]
theorem Encoding.atomCas (x a w c o g) : Encoding.Statement (.atomCas x a w c o g) := by
  intro _
  have := x.isLt
  have := a.isLt
  have := w.isLt
  have := c.isLt
  have := o.isLt
  have := g.isLt
  generalize hn : encodeNat (.atomCas x a w c o g) = v
  replace hn : 0x68000700 + x.toNat * 0x100000 + a.toNat * 0x2000 + w.toNat * 0x1000 + c.toNat * 0x20 + o.toNat * 0x8 + g.toNat * 0x1 = v := hn
  refine ⟨by omega, ?_⟩
  have hm : v / 0x4000000 % 64 = 26 := by omega
  have hf : v / 256 % 16 = 7 := by omega
  simp only [readFields, hm, decodeAtom, hf]
  rw [fld_eq v 20 x (by omega), fld_eq v 13 a (by omega), fld_eq v 12 w (by omega), fld_eq v 5 c (by omega), fld_eq v 3 o (by omega), fld_eq v 0 g (by omega)]
theorem Encoding.atomFadd (x a w c o g) : Encoding.Statement (.atomFadd x a w c o g) := by
  intro _
  have := x.isLt
  have := a.isLt
  have := w.isLt
  have := c.isLt
  have := o.isLt
  have := g.isLt
  generalize hn : encodeNat (.atomFadd x a w c o g) = v
  replace hn : 0x68000800 + x.toNat * 0x100000 + a.toNat * 0x2000 + w.toNat * 0x1000 + c.toNat * 0x20 + o.toNat * 0x8 + g.toNat * 0x1 = v := hn
  refine ⟨by omega, ?_⟩
  have hm : v / 0x4000000 % 64 = 26 := by omega
  have hf : v / 256 % 16 = 8 := by omega
  simp only [readFields, hm, decodeAtom, hf]
  rw [fld_eq v 20 x (by omega), fld_eq v 13 a (by omega), fld_eq v 12 w (by omega), fld_eq v 5 c (by omega), fld_eq v 3 o (by omega), fld_eq v 0 g (by omega)]
theorem Encoding.redAdd (x a w c o g) : Encoding.Statement (.redAdd x a w c o g) := by
  intro _
  have := x.isLt
  have := a.isLt
  have := w.isLt
  have := c.isLt
  have := o.isLt
  have := g.isLt
  generalize hn : encodeNat (.redAdd x a w c o g) = v
  replace hn : 0x6C000000 + x.toNat * 0x100000 + a.toNat * 0x2000 + w.toNat * 0x1000 + c.toNat * 0x20 + o.toNat * 0x8 + g.toNat * 0x1 = v := hn
  refine ⟨by omega, ?_⟩
  have hm : v / 0x4000000 % 64 = 27 := by omega
  have hf : v / 256 % 16 = 0 := by omega
  simp only [readFields, hm, decodeRed, hf]
  rw [fld_eq v 20 x (by omega), fld_eq v 13 a (by omega), fld_eq v 12 w (by omega), fld_eq v 5 c (by omega), fld_eq v 3 o (by omega), fld_eq v 0 g (by omega)]
theorem Encoding.redMax (x a w c o g) : Encoding.Statement (.redMax x a w c o g) := by
  intro _
  have := x.isLt
  have := a.isLt
  have := w.isLt
  have := c.isLt
  have := o.isLt
  have := g.isLt
  generalize hn : encodeNat (.redMax x a w c o g) = v
  replace hn : 0x6C000100 + x.toNat * 0x100000 + a.toNat * 0x2000 + w.toNat * 0x1000 + c.toNat * 0x20 + o.toNat * 0x8 + g.toNat * 0x1 = v := hn
  refine ⟨by omega, ?_⟩
  have hm : v / 0x4000000 % 64 = 27 := by omega
  have hf : v / 256 % 16 = 1 := by omega
  simp only [readFields, hm, decodeRed, hf]
  rw [fld_eq v 20 x (by omega), fld_eq v 13 a (by omega), fld_eq v 12 w (by omega), fld_eq v 5 c (by omega), fld_eq v 3 o (by omega), fld_eq v 0 g (by omega)]
theorem Encoding.redFadd (x a w c o g) : Encoding.Statement (.redFadd x a w c o g) := by
  intro _
  have := x.isLt
  have := a.isLt
  have := w.isLt
  have := c.isLt
  have := o.isLt
  have := g.isLt
  generalize hn : encodeNat (.redFadd x a w c o g) = v
  replace hn : 0x6C000200 + x.toNat * 0x100000 + a.toNat * 0x2000 + w.toNat * 0x1000 + c.toNat * 0x20 + o.toNat * 0x8 + g.toNat * 0x1 = v := hn
  refine ⟨by omega, ?_⟩
  have hm : v / 0x4000000 % 64 = 27 := by omega
  have hf : v / 256 % 16 = 2 := by omega
  simp only [readFields, hm, decodeRed, hf]
  rw [fld_eq v 20 x (by omega), fld_eq v 13 a (by omega), fld_eq v 12 w (by omega), fld_eq v 5 c (by omega), fld_eq v 3 o (by omega), fld_eq v 0 g (by omega)]
theorem Encoding.redFadd2 (x a c o g) : Encoding.Statement (.redFadd2 x a c o g) := by
  intro _
  have := x.isLt
  have := a.isLt
  have := c.isLt
  have := o.isLt
  have := g.isLt
  generalize hn : encodeNat (.redFadd2 x a c o g) = v
  replace hn : 0x6C000300 + x.toNat * 0x100000 + a.toNat * 0x2000 + c.toNat * 0x20 + o.toNat * 0x8 + g.toNat * 0x1 = v := hn
  refine ⟨by omega, ?_⟩
  have hm : v / 0x4000000 % 64 = 27 := by omega
  have hf : v / 256 % 16 = 3 := by omega
  simp only [readFields, hm, decodeRed, hf]
  rw [fld_eq v 20 x (by omega), fld_eq v 13 a (by omega), fld_eq v 5 c (by omega), fld_eq v 3 o (by omega), fld_eq v 0 g (by omega)]
theorem Encoding.fence (c o) : Encoding.Statement (.fence c o) := by
  intro _
  have := c.isLt
  have := o.isLt
  generalize hn : encodeNat (.fence c o) = v
  replace hn : 0x70380000 + c.toNat * 0x1000 + o.toNat * 0x400 = v := hn
  refine ⟨by omega, ?_⟩
  have hm : v / 0x4000000 % 64 = 28 := by omega
  have hf : v / 4194304 % 16 = 0 := by omega
  simp only [readFields, hm, decodeFence, hf]
  rw [fld_eq v 12 c (by omega), fld_eq v 10 o (by omega)]
theorem Encoding.fenceR (a c o) : Encoding.Statement (.fenceR a c o) := by
  intro _
  have := a.isLt
  have := c.isLt
  have := o.isLt
  generalize hn : encodeNat (.fenceR a c o) = v
  replace hn : 0x70400000 + a.toNat * 0x8000 + c.toNat * 0x1000 + o.toNat * 0x400 = v := hn
  refine ⟨by omega, ?_⟩
  have hm : v / 0x4000000 % 64 = 28 := by omega
  have hf : v / 4194304 % 16 = 1 := by omega
  simp only [readFields, hm, decodeFence, hf]
  rw [fld_eq v 15 a (by omega), fld_eq v 12 c (by omega), fld_eq v 10 o (by omega)]
theorem Encoding.cwb (a c) : Encoding.Statement (.cwb a c) := by
  intro _
  have := a.isLt
  have := c.isLt
  generalize hn : encodeNat (.cwb a c) = v
  replace hn : 0x70800000 + a.toNat * 0x8000 + c.toNat * 0x1000 = v := hn
  refine ⟨by omega, ?_⟩
  have hm : v / 0x4000000 % 64 = 28 := by omega
  have hf : v / 4194304 % 16 = 2 := by omega
  simp only [readFields, hm, decodeFence, hf]
  rw [fld_eq v 15 a (by omega), fld_eq v 12 c (by omega)]
theorem Encoding.cinv (a c) : Encoding.Statement (.cinv a c) := by
  intro _
  have := a.isLt
  have := c.isLt
  generalize hn : encodeNat (.cinv a c) = v
  replace hn : 0x70C00000 + a.toNat * 0x8000 + c.toNat * 0x1000 = v := hn
  refine ⟨by omega, ?_⟩
  have hm : v / 0x4000000 % 64 = 28 := by omega
  have hf : v / 4194304 % 16 = 3 := by omega
  simp only [readFields, hm, decodeFence, hf]
  rw [fld_eq v 15 a (by omega), fld_eq v 12 c (by omega)]
theorem Encoding.pref (a c) : Encoding.Statement (.pref a c) := by
  intro _
  have := a.isLt
  have := c.isLt
  generalize hn : encodeNat (.pref a c) = v
  replace hn : 0x71000000 + a.toNat * 0x8000 + c.toNat * 0x1000 = v := hn
  refine ⟨by omega, ?_⟩
  have hm : v / 0x4000000 % 64 = 28 := by omega
  have hf : v / 4194304 % 16 = 4 := by omega
  simp only [readFields, hm, decodeFence, hf]
  rw [fld_eq v 15 a (by omega), fld_eq v 12 c (by omega)]
theorem Encoding.br (g d) : Encoding.Statement (.br g d) := by
  intro _
  have := g.isLt
  have := d.isLt
  generalize hn : encodeNat (.br g d) = v
  replace hn : 0x80000000 + g.toNat * 0x800000 + d.toNat * 0x1 = v := hn
  refine ⟨by omega, ?_⟩
  have hm : v / 0x4000000 % 64 = 32 := by omega
  have hf : v / 2097152 % 4 = 0 := by omega
  simp only [readFields, hm, decodeBr, hf]
  rw [fld_eq v 23 g (by omega), fld_eq v 0 d (by omega)]
theorem Encoding.brn (g d) : Encoding.Statement (.brn g d) := by
  intro _
  have := g.isLt
  have := d.isLt
  generalize hn : encodeNat (.brn g d) = v
  replace hn : 0x80200000 + g.toNat * 0x800000 + d.toNat * 0x1 = v := hn
  refine ⟨by omega, ?_⟩
  have hm : v / 0x4000000 % 64 = 32 := by omega
  have hf : v / 2097152 % 4 = 1 := by omega
  simp only [readFields, hm, decodeBr, hf]
  rw [fld_eq v 23 g (by omega), fld_eq v 0 d (by omega)]
theorem Encoding.call (g d) : Encoding.Statement (.call g d) := by
  intro _
  have := g.isLt
  have := d.isLt
  generalize hn : encodeNat (.call g d) = v
  replace hn : 0x80400000 + g.toNat * 0x800000 + d.toNat * 0x1 = v := hn
  refine ⟨by omega, ?_⟩
  have hm : v / 0x4000000 % 64 = 32 := by omega
  have hf : v / 2097152 % 4 = 2 := by omega
  simp only [readFields, hm, decodeBr, hf]
  rw [fld_eq v 23 g (by omega), fld_eq v 0 d (by omega)]
theorem Encoding.bruz (s c d) : Encoding.Statement (.bruz s c d) := by
  intro _
  have := s.isLt
  have := c.isLt
  have := d.isLt
  generalize hn : encodeNat (.bruz s c d) = v
  replace hn : 0x84000000 + s.toNat * 0x2000000 + c.toNat * 0x40000 + d.toNat * 0x1 = v := hn
  refine ⟨by omega, ?_⟩
  have hm : v / 0x4000000 % 64 = 33 := by omega
  have hf : v / 131072 % 2 = 0 := by omega
  simp only [readFields, hm, decodeBru, hf]
  rw [fld_eq v 25 s (by omega), fld_eq v 18 c (by omega), fld_eq v 0 d (by omega)]
theorem Encoding.brunz (s c d) : Encoding.Statement (.brunz s c d) := by
  intro _
  have := s.isLt
  have := c.isLt
  have := d.isLt
  generalize hn : encodeNat (.brunz s c d) = v
  replace hn : 0x84020000 + s.toNat * 0x2000000 + c.toNat * 0x40000 + d.toNat * 0x1 = v := hn
  refine ⟨by omega, ?_⟩
  have hm : v / 0x4000000 % 64 = 33 := by omega
  have hf : v / 131072 % 2 = 1 := by omega
  simp only [readFields, hm, decodeBru, hf]
  rw [fld_eq v 25 s (by omega), fld_eq v 18 c (by omega), fld_eq v 0 d (by omega)]
theorem Encoding.jmpi (a) : Encoding.Statement (.jmpi a) := by
  intro _
  have := a.isLt
  generalize hn : encodeNat (.jmpi a) = v
  replace hn : 0x8BF01C00 + a.toNat * 0x2000 = v := hn
  refine ⟨by omega, ?_⟩
  have hm : v / 0x4000000 % 64 = 34 := by omega
  have hf : v / 1 % 64 = 0 := by omega
  simp only [readFields, hm, decodeJmp, hf]
  rw [fld_eq v 13 a (by omega)]
theorem Encoding.calli (a) : Encoding.Statement (.calli a) := by
  intro _
  have := a.isLt
  generalize hn : encodeNat (.calli a) = v
  replace hn : 0x8BF01C01 + a.toNat * 0x2000 = v := hn
  refine ⟨by omega, ?_⟩
  have hm : v / 0x4000000 % 64 = 34 := by omega
  have hf : v / 1 % 64 = 1 := by omega
  simp only [readFields, hm, decodeJmp, hf]
  rw [fld_eq v 13 a (by omega)]
theorem Encoding.ret : Encoding.Statement (.ret) := by
  intro _
  have hn : encodeNat (.ret) = 0x8BFE1C02 := rfl
  rw [hn]
  exact ⟨by decide, rfl⟩
theorem Encoding.land : Encoding.Statement (.land) := by
  intro _
  have hn : encodeNat (.land) = 0x8BFE1C03 := rfl
  rw [hn]
  exact ⟨by decide, rfl⟩
theorem Encoding.park (a) : Encoding.Statement (.park a) := by
  intro _
  have := a.isLt
  generalize hn : encodeNat (.park a) = v
  replace hn : 0x8FF01C00 + a.toNat * 0x2000 = v := hn
  refine ⟨by omega, ?_⟩
  have hm : v / 0x4000000 % 64 = 35 := by omega
  have hf : v / 1 % 64 = 0 := by omega
  simp only [readFields, hm, decodeWaitx, hf]
  rw [fld_eq v 13 a (by omega)]
theorem Encoding.yield : Encoding.Statement (.yield) := by
  intro _
  have hn : encodeNat (.yield) = 0x8FFE1C01 := rfl
  rw [hn]
  exact ⟨by decide, rfl⟩
theorem Encoding.exit : Encoding.Statement (.exit) := by
  intro _
  have hn : encodeNat (.exit) = 0x8FFE1C02 := rfl
  rw [hn]
  exact ⟨by decide, rfl⟩
theorem Encoding.regroup (a) : Encoding.Statement (.regroup a) := by
  intro _
  have := a.isLt
  generalize hn : encodeNat (.regroup a) = v
  replace hn : 0x93F01C00 + a.toNat * 0x2000 = v := hn
  refine ⟨by omega, ?_⟩
  have hm : v / 0x4000000 % 64 = 36 := by omega
  have hf : v / 1 % 64 = 0 := by omega
  simp only [readFields, hm, decodeGrp, hf]
  rw [fld_eq v 13 a (by omega)]
theorem Encoding.part (k a) : Encoding.Statement (.part k a) := by
  intro _
  have := k.isLt
  have := a.isLt
  generalize hn : encodeNat (.part k a) = v
  replace hn : 0x90001C01 + k.toNat * 0x100000 + a.toNat * 0x2000 = v := hn
  refine ⟨by omega, ?_⟩
  have hm : v / 0x4000000 % 64 = 36 := by omega
  have hf : v / 1 % 64 = 1 := by omega
  simp only [readFields, hm, decodeGrp, hf]
  rw [fld_eq v 20 k (by omega), fld_eq v 13 a (by omega)]
theorem Encoding.gmask (d k) : Encoding.Statement (.gmask d k) := by
  intro _
  have := d.isLt
  have := k.isLt
  generalize hn : encodeNat (.gmask d k) = v
  replace hn : 0x90001C02 + d.toNat * 0x100000 + k.toNat * 0x2000 = v := hn
  refine ⟨by omega, ?_⟩
  have hm : v / 0x4000000 % 64 = 36 := by omega
  have hf : v / 1 % 64 = 2 := by omega
  simp only [readFields, hm, decodeGrp, hf]
  rw [fld_eq v 20 d (by omega), fld_eq v 13 k (by omega)]
theorem Encoding.vall (d a k) : Encoding.Statement (.vall d a k) := by
  intro _
  have := d.isLt
  have := a.isLt
  have := k.isLt
  generalize hn : encodeNat (.vall d a k) = v
  replace hn : 0x94001C00 + d.toNat * 0x100000 + a.toNat * 0x2000 + k.toNat * 0x10 = v := hn
  refine ⟨by omega, ?_⟩
  have hm : v / 0x4000000 % 64 = 37 := by omega
  have hf : v / 1 % 16 = 0 := by omega
  simp only [readFields, hm, decodeColl, hf]
  rw [fld_eq v 20 d (by omega), fld_eq v 13 a (by omega), fld_eq v 4 k (by omega)]
theorem Encoding.vany (d a k) : Encoding.Statement (.vany d a k) := by
  intro _
  have := d.isLt
  have := a.isLt
  have := k.isLt
  generalize hn : encodeNat (.vany d a k) = v
  replace hn : 0x94001C01 + d.toNat * 0x100000 + a.toNat * 0x2000 + k.toNat * 0x10 = v := hn
  refine ⟨by omega, ?_⟩
  have hm : v / 0x4000000 % 64 = 37 := by omega
  have hf : v / 1 % 16 = 1 := by omega
  simp only [readFields, hm, decodeColl, hf]
  rw [fld_eq v 20 d (by omega), fld_eq v 13 a (by omega), fld_eq v 4 k (by omega)]
theorem Encoding.vbal (d a k) : Encoding.Statement (.vbal d a k) := by
  intro _
  have := d.isLt
  have := a.isLt
  have := k.isLt
  generalize hn : encodeNat (.vbal d a k) = v
  replace hn : 0x94001C02 + d.toNat * 0x100000 + a.toNat * 0x2000 + k.toNat * 0x10 = v := hn
  refine ⟨by omega, ?_⟩
  have hm : v / 0x4000000 % 64 = 37 := by omega
  have hf : v / 1 % 16 = 2 := by omega
  simp only [readFields, hm, decodeColl, hf]
  rw [fld_eq v 20 d (by omega), fld_eq v 13 a (by omega), fld_eq v 4 k (by omega)]
theorem Encoding.shfl (d a b k) : Encoding.Statement (.shfl d a b k) := by
  intro _
  have := d.isLt
  have := a.isLt
  have := b.isLt
  have := k.isLt
  generalize hn : encodeNat (.shfl d a b k) = v
  replace hn : 0x94000003 + d.toNat * 0x100000 + a.toNat * 0x2000 + b.toNat * 0x40 + k.toNat * 0x10 = v := hn
  refine ⟨by omega, ?_⟩
  have hm : v / 0x4000000 % 64 = 37 := by omega
  have hf : v / 1 % 16 = 3 := by omega
  simp only [readFields, hm, decodeColl, hf]
  rw [fld_eq v 20 d (by omega), fld_eq v 13 a (by omega), fld_eq v 6 b (by omega), fld_eq v 4 k (by omega)]
theorem Encoding.push (d a b k) : Encoding.Statement (.push d a b k) := by
  intro _
  have := d.isLt
  have := a.isLt
  have := b.isLt
  have := k.isLt
  generalize hn : encodeNat (.push d a b k) = v
  replace hn : 0x94000004 + d.toNat * 0x100000 + a.toNat * 0x2000 + b.toNat * 0x40 + k.toNat * 0x10 = v := hn
  refine ⟨by omega, ?_⟩
  have hm : v / 0x4000000 % 64 = 37 := by omega
  have hf : v / 1 % 16 = 4 := by omega
  simp only [readFields, hm, decodeColl, hf]
  rw [fld_eq v 20 d (by omega), fld_eq v 13 a (by omega), fld_eq v 6 b (by omega), fld_eq v 4 k (by omega)]
theorem Encoding.csum (d a k) : Encoding.Statement (.csum d a k) := by
  intro _
  have := d.isLt
  have := a.isLt
  have := k.isLt
  generalize hn : encodeNat (.csum d a k) = v
  replace hn : 0x94001C05 + d.toNat * 0x100000 + a.toNat * 0x2000 + k.toNat * 0x10 = v := hn
  refine ⟨by omega, ?_⟩
  have hm : v / 0x4000000 % 64 = 37 := by omega
  have hf : v / 1 % 16 = 5 := by omega
  simp only [readFields, hm, decodeColl, hf]
  rw [fld_eq v 20 d (by omega), fld_eq v 13 a (by omega), fld_eq v 4 k (by omega)]
theorem Encoding.cmax (d a k) : Encoding.Statement (.cmax d a k) := by
  intro _
  have := d.isLt
  have := a.isLt
  have := k.isLt
  generalize hn : encodeNat (.cmax d a k) = v
  replace hn : 0x94001C06 + d.toNat * 0x100000 + a.toNat * 0x2000 + k.toNat * 0x10 = v := hn
  refine ⟨by omega, ?_⟩
  have hm : v / 0x4000000 % 64 = 37 := by omega
  have hf : v / 1 % 16 = 6 := by omega
  simp only [readFields, hm, decodeColl, hf]
  rw [fld_eq v 20 d (by omega), fld_eq v 13 a (by omega), fld_eq v 4 k (by omega)]
theorem Encoding.cfsum (d a k) : Encoding.Statement (.cfsum d a k) := by
  intro _
  have := d.isLt
  have := a.isLt
  have := k.isLt
  generalize hn : encodeNat (.cfsum d a k) = v
  replace hn : 0x94001C07 + d.toNat * 0x100000 + a.toNat * 0x2000 + k.toNat * 0x10 = v := hn
  refine ⟨by omega, ?_⟩
  have hm : v / 0x4000000 % 64 = 37 := by omega
  have hf : v / 1 % 16 = 7 := by omega
  simp only [readFields, hm, decodeColl, hf]
  rw [fld_eq v 20 d (by omega), fld_eq v 13 a (by omega), fld_eq v 4 k (by omega)]
theorem Encoding.cscan (d a k) : Encoding.Statement (.cscan d a k) := by
  intro _
  have := d.isLt
  have := a.isLt
  have := k.isLt
  generalize hn : encodeNat (.cscan d a k) = v
  replace hn : 0x94001C08 + d.toNat * 0x100000 + a.toNat * 0x2000 + k.toNat * 0x10 = v := hn
  refine ⟨by omega, ?_⟩
  have hm : v / 0x4000000 % 64 = 37 := by omega
  have hf : v / 1 % 16 = 8 := by omega
  simp only [readFields, hm, decodeColl, hf]
  rw [fld_eq v 20 d (by omega), fld_eq v 13 a (by omega), fld_eq v 4 k (by omega)]
theorem Encoding.compress (d a b m) : Encoding.Statement (.compress d a b m) := by
  intro _
  have := d.isLt
  have := a.isLt
  have := b.isLt
  have := m.isLt
  generalize hn : encodeNat (.compress d a b m) = v
  replace hn : 0x98000000 + d.toNat * 0x100000 + a.toNat * 0x2000 + b.toNat * 0x40 + m.toNat * 0x4 = v := hn
  refine ⟨by omega, ?_⟩
  have hm : v / 0x4000000 % 64 = 38 := by omega
  have hf : v / 1 % 4 = 0 := by omega
  simp only [readFields, hm, decodeRearr, hf]
  rw [fld_eq v 20 d (by omega), fld_eq v 13 a (by omega), fld_eq v 6 b (by omega), fld_eq v 2 m (by omega)]
theorem Encoding.expand (d a b m) : Encoding.Statement (.expand d a b m) := by
  intro _
  have := d.isLt
  have := a.isLt
  have := b.isLt
  have := m.isLt
  generalize hn : encodeNat (.expand d a b m) = v
  replace hn : 0x98000001 + d.toNat * 0x100000 + a.toNat * 0x2000 + b.toNat * 0x40 + m.toNat * 0x4 = v := hn
  refine ⟨by omega, ?_⟩
  have hm : v / 0x4000000 % 64 = 38 := by omega
  have hf : v / 1 % 4 = 1 := by omega
  simp only [readFields, hm, decodeRearr, hf]
  rw [fld_eq v 20 d (by omega), fld_eq v 13 a (by omega), fld_eq v 6 b (by omega), fld_eq v 2 m (by omega)]
theorem Encoding.slideup (d a b m) : Encoding.Statement (.slideup d a b m) := by
  intro _
  have := d.isLt
  have := a.isLt
  have := b.isLt
  have := m.isLt
  generalize hn : encodeNat (.slideup d a b m) = v
  replace hn : 0x98000002 + d.toNat * 0x100000 + a.toNat * 0x2000 + b.toNat * 0x40 + m.toNat * 0x4 = v := hn
  refine ⟨by omega, ?_⟩
  have hm : v / 0x4000000 % 64 = 38 := by omega
  have hf : v / 1 % 4 = 2 := by omega
  simp only [readFields, hm, decodeRearr, hf]
  rw [fld_eq v 20 d (by omega), fld_eq v 13 a (by omega), fld_eq v 6 b (by omega), fld_eq v 2 m (by omega)]
theorem Encoding.slidedn (d a b m) : Encoding.Statement (.slidedn d a b m) := by
  intro _
  have := d.isLt
  have := a.isLt
  have := b.isLt
  have := m.isLt
  generalize hn : encodeNat (.slidedn d a b m) = v
  replace hn : 0x98000003 + d.toNat * 0x100000 + a.toNat * 0x2000 + b.toNat * 0x40 + m.toNat * 0x4 = v := hn
  refine ⟨by omega, ?_⟩
  have hm : v / 0x4000000 % 64 = 38 := by omega
  have hf : v / 1 % 4 = 3 := by omega
  simp only [readFields, hm, decodeRearr, hf]
  rw [fld_eq v 20 d (by omega), fld_eq v 13 a (by omega), fld_eq v 6 b (by omega), fld_eq v 2 m (by omega)]
theorem Encoding.loop (l c e t r u) : Encoding.Statement (.loop l c e t r u) := by
  intro _
  have := l.isLt
  have := c.isLt
  have := e.isLt
  have := t.isLt
  have := r.isLt
  have := u.isLt
  generalize hn : encodeNat (.loop l c e t r u) = v
  replace hn : 0xA0000000 + l.toNat * 0x1000000 + c.toNat * 0x20000 + e.toNat * 0x20 + t.toNat * 0x4 + r.toNat * 0x2 + u.toNat * 0x1 = v := hn
  refine ⟨by omega, ?_⟩
  have hm : v / 0x4000000 % 64 = 40 := by omega
  simp only [readFields, hm]
  rw [fld_eq v 24 l (by omega), fld_eq v 17 c (by omega), fld_eq v 5 e (by omega), fld_eq v 2 t (by omega), fld_eq v 1 r (by omega), fld_eq v 0 u (by omega)]
theorem Encoding.lbrk (g l) : Encoding.Statement (.lbrk g l) := by
  intro _
  have := g.isLt
  have := l.isLt
  generalize hn : encodeNat (.lbrk g l) = v
  replace hn : 0xA40387E0 + g.toNat * 0x800000 + l.toNat * 0x200000 = v := hn
  refine ⟨by omega, ?_⟩
  have hm : v / 0x4000000 % 64 = 41 := by omega
  have hf : v / 262144 % 8 = 0 := by omega
  simp only [readFields, hm, decodeLctl, hf]
  rw [fld_eq v 23 g (by omega), fld_eq v 21 l (by omega)]
theorem Encoding.lrd (g l a h) : Encoding.Statement (.lrd g l a h) := by
  intro _
  have := g.isLt
  have := l.isLt
  have := a.isLt
  have := h.isLt
  generalize hn : encodeNat (.lrd g l a h) = v
  replace hn : 0xA4040000 + g.toNat * 0x800000 + l.toNat * 0x200000 + a.toNat * 0x800 + h.toNat * 0x20 = v := hn
  refine ⟨by omega, ?_⟩
  have hm : v / 0x4000000 % 64 = 41 := by omega
  have hf : v / 262144 % 8 = 1 := by omega
  simp only [readFields, hm, decodeLctl, hf]
  rw [fld_eq v 23 g (by omega), fld_eq v 21 l (by omega), fld_eq v 11 a (by omega), fld_eq v 5 h (by omega)]
theorem Encoding.lwr (l a) : Encoding.Statement (.lwr l a) := by
  intro _
  have := l.isLt
  have := a.isLt
  generalize hn : encodeNat (.lwr l a) = v
  replace hn : 0xA40807E0 + l.toNat * 0x200000 + a.toNat * 0x800 = v := hn
  refine ⟨by omega, ?_⟩
  have hm : v / 0x4000000 % 64 = 41 := by omega
  have hf : v / 262144 % 8 = 2 := by omega
  simp only [readFields, hm, decodeLctl, hf]
  rw [fld_eq v 21 l (by omega), fld_eq v 11 a (by omega)]
theorem Encoding.adbase (k a b) : Encoding.Statement (.adbase k a b) := by
  intro _
  have := k.isLt
  have := a.isLt
  have := b.isLt
  generalize hn : encodeNat (.adbase k a b) = v
  replace hn : 0xA8000000 + k.toNat * 0x400000 + a.toNat * 0x1000 + b.toNat * 0x20 = v := hn
  refine ⟨by omega, ?_⟩
  have hm : v / 0x4000000 % 64 = 42 := by omega
  have hf : v / 524288 % 8 = 0 := by omega
  simp only [readFields, hm, decodeAdset, hf]
  rw [fld_eq v 22 k (by omega), fld_eq v 12 a (by omega), fld_eq v 5 b (by omega)]
theorem Encoding.adcoef (k a b) : Encoding.Statement (.adcoef k a b) := by
  intro _
  have := k.isLt
  have := a.isLt
  have := b.isLt
  generalize hn : encodeNat (.adcoef k a b) = v
  replace hn : 0xA8080000 + k.toNat * 0x400000 + a.toNat * 0x1000 + b.toNat * 0x20 = v := hn
  refine ⟨by omega, ?_⟩
  have hm : v / 0x4000000 % 64 = 42 := by omega
  have hf : v / 524288 % 8 = 1 := by omega
  simp only [readFields, hm, decodeAdset, hf]
  rw [fld_eq v 22 k (by omega), fld_eq v 12 a (by omega), fld_eq v 5 b (by omega)]
theorem Encoding.adlim (k a) : Encoding.Statement (.adlim k a) := by
  intro _
  have := k.isLt
  have := a.isLt
  generalize hn : encodeNat (.adlim k a) = v
  replace hn : 0xA8100E00 + k.toNat * 0x400000 + a.toNat * 0x1000 = v := hn
  refine ⟨by omega, ?_⟩
  have hm : v / 0x4000000 % 64 = 42 := by omega
  have hf : v / 524288 % 8 = 2 := by omega
  simp only [readFields, hm, decodeAdset, hf]
  rw [fld_eq v 22 k (by omega), fld_eq v 12 a (by omega)]
theorem Encoding.adstg (k a) : Encoding.Statement (.adstg k a) := by
  intro _
  have := k.isLt
  have := a.isLt
  generalize hn : encodeNat (.adstg k a) = v
  replace hn : 0xA8180E00 + k.toNat * 0x400000 + a.toNat * 0x1000 = v := hn
  refine ⟨by omega, ?_⟩
  have hm : v / 0x4000000 % 64 = 42 := by omega
  have hf : v / 524288 % 8 = 3 := by omega
  simp only [readFields, hm, decodeAdset, hf]
  rw [fld_eq v 22 k (by omega), fld_eq v 12 a (by omega)]
theorem Encoding.macq (e) : Encoding.Statement (.macq e) := by
  intro _
  have := e.isLt
  generalize hn : encodeNat (.macq e) = v
  replace hn : 0xC0000000 + e.toNat * 0x20 = v := hn
  refine ⟨by omega, ?_⟩
  have hm : v / 0x4000000 % 64 = 48 := by omega
  have hf : v / 4194304 % 16 = 0 := by omega
  simp only [readFields, hm, decodeMat, hf]
  rw [fld_eq v 5 e (by omega)]
theorem Encoding.mrel : Encoding.Statement (.mrel) := by
  intro _
  have hn : encodeNat (.mrel) = 0xC0400000 := rfl
  rw [hn]
  exact ⟨by decide, rfl⟩
theorem Encoding.mwl (t) : Encoding.Statement (.mwl t) := by
  intro _
  have := t.isLt
  generalize hn : encodeNat (.mwl t) = v
  replace hn : 0xC0800000 + t.toNat * 0x4000 = v := hn
  refine ⟨by omega, ?_⟩
  have hm : v / 0x4000000 % 64 = 48 := by omega
  have hf : v / 4194304 % 16 = 2 := by omega
  simp only [readFields, hm, decodeMat, hf]
  rw [fld_eq v 14 t (by omega)]
theorem Encoding.mms (a k z) : Encoding.Statement (.mms a k z) := by
  intro _
  have := a.isLt
  have := k.isLt
  have := z.isLt
  generalize hn : encodeNat (.mms a k z) = v
  replace hn : 0xC0C00000 + a.toNat * 0x40000 + k.toNat * 0x800 + z.toNat * 0x400 = v := hn
  refine ⟨by omega, ?_⟩
  have hm : v / 0x4000000 % 64 = 48 := by omega
  have hf : v / 4194304 % 16 = 3 := by omega
  simp only [readFields, hm, decodeMat, hf]
  rw [fld_eq v 18 a (by omega), fld_eq v 11 k (by omega), fld_eq v 10 z (by omega)]
theorem Encoding.mrd (d a k) : Encoding.Statement (.mrd d a k) := by
  intro _
  have := d.isLt
  have := a.isLt
  have := k.isLt
  generalize hn : encodeNat (.mrd d a k) = v
  replace hn : 0xC1000000 + d.toNat * 0x10000 + a.toNat * 0x200 + k.toNat * 0x40 = v := hn
  refine ⟨by omega, ?_⟩
  have hm : v / 0x4000000 % 64 = 48 := by omega
  have hf : v / 4194304 % 16 = 4 := by omega
  simp only [readFields, hm, decodeMat, hf]
  rw [fld_eq v 16 d (by omega), fld_eq v 9 a (by omega), fld_eq v 6 k (by omega)]
theorem Encoding.mwr (d a k) : Encoding.Statement (.mwr d a k) := by
  intro _
  have := d.isLt
  have := a.isLt
  have := k.isLt
  generalize hn : encodeNat (.mwr d a k) = v
  replace hn : 0xC1400000 + d.toNat * 0x10000 + a.toNat * 0x200 + k.toNat * 0x40 = v := hn
  refine ⟨by omega, ?_⟩
  have hm : v / 0x4000000 % 64 = 48 := by omega
  have hf : v / 4194304 % 16 = 5 := by omega
  simp only [readFields, hm, decodeMat, hf]
  rw [fld_eq v 16 d (by omega), fld_eq v 9 a (by omega), fld_eq v 6 k (by omega)]
theorem Encoding.mepi (a k e) : Encoding.Statement (.mepi a k e) := by
  intro _
  have := a.isLt
  have := k.isLt
  have := e.isLt
  generalize hn : encodeNat (.mepi a k e) = v
  replace hn : 0xC1800000 + a.toNat * 0x40000 + k.toNat * 0x800 + e.toNat * 0x20 = v := hn
  refine ⟨by omega, ?_⟩
  have hm : v / 0x4000000 % 64 = 48 := by omega
  have hf : v / 4194304 % 16 = 6 := by omega
  simp only [readFields, hm, decodeMat, hf]
  rw [fld_eq v 18 a (by omega), fld_eq v 11 k (by omega), fld_eq v 5 e (by omega)]
theorem Encoding.mzero (k) : Encoding.Statement (.mzero k) := by
  intro _
  have := k.isLt
  generalize hn : encodeNat (.mzero k) = v
  replace hn : 0xC1C00000 + k.toNat * 0x800 = v := hn
  refine ⟨by omega, ?_⟩
  have hm : v / 0x4000000 % 64 = 48 := by omega
  have hf : v / 4194304 % 16 = 7 := by omega
  simp only [readFields, hm, decodeMat, hf]
  rw [fld_eq v 11 k (by omega)]
theorem Encoding.thbase (t a b) : Encoding.Statement (.thbase t a b) := by
  intro _
  have := t.isLt
  have := a.isLt
  have := b.isLt
  generalize hn : encodeNat (.thbase t a b) = v
  replace hn : 0xC4000000 + t.toNat * 0x400000 + a.toNat * 0x1000 + b.toNat * 0x20 = v := hn
  refine ⟨by omega, ?_⟩
  have hm : v / 0x4000000 % 64 = 49 := by omega
  have hf : v / 524288 % 8 = 0 := by omega
  simp only [readFields, hm, decodeThset, hf]
  rw [fld_eq v 22 t (by omega), fld_eq v 12 a (by omega), fld_eq v 5 b (by omega)]
theorem Encoding.thshape (t a b) : Encoding.Statement (.thshape t a b) := by
  intro _
  have := t.isLt
  have := a.isLt
  have := b.isLt
  generalize hn : encodeNat (.thshape t a b) = v
  replace hn : 0xC4080000 + t.toNat * 0x400000 + a.toNat * 0x1000 + b.toNat * 0x20 = v := hn
  refine ⟨by omega, ?_⟩
  have hm : v / 0x4000000 % 64 = 49 := by omega
  have hf : v / 524288 % 8 = 1 := by omega
  simp only [readFields, hm, decodeThset, hf]
  rw [fld_eq v 22 t (by omega), fld_eq v 12 a (by omega), fld_eq v 5 b (by omega)]
theorem Encoding.thfmt (t a b) : Encoding.Statement (.thfmt t a b) := by
  intro _
  have := t.isLt
  have := a.isLt
  have := b.isLt
  generalize hn : encodeNat (.thfmt t a b) = v
  replace hn : 0xC4100000 + t.toNat * 0x400000 + a.toNat * 0x1000 + b.toNat * 0x20 = v := hn
  refine ⟨by omega, ?_⟩
  have hm : v / 0x4000000 % 64 = 49 := by omega
  have hf : v / 524288 % 8 = 2 := by omega
  simp only [readFields, hm, decodeThset, hf]
  rw [fld_eq v 22 t (by omega), fld_eq v 12 a (by omega), fld_eq v 5 b (by omega)]
theorem Encoding.thmc (t a) : Encoding.Statement (.thmc t a) := by
  intro _
  have := t.isLt
  have := a.isLt
  generalize hn : encodeNat (.thmc t a) = v
  replace hn : 0xC4180E00 + t.toNat * 0x400000 + a.toNat * 0x1000 = v := hn
  refine ⟨by omega, ?_⟩
  have hm : v / 0x4000000 % 64 = 49 := by omega
  have hf : v / 524288 % 8 = 3 := by omega
  simp only [readFields, hm, decodeThset, hf]
  rw [fld_eq v 22 t (by omega), fld_eq v 12 a (by omega)]
theorem Encoding.cpy (s c t j) : Encoding.Statement (.cpy s c t j) := by
  intro _
  have := s.isLt
  have := c.isLt
  have := t.isLt
  have := j.isLt
  generalize hn : encodeNat (.cpy s c t j) = v
  replace hn : 0xC8000000 + s.toNat * 0x40000 + c.toNat * 0x8000 + t.toNat * 0x4000 + j.toNat * 0x2000 = v := hn
  refine ⟨by omega, ?_⟩
  have hm : v / 0x4000000 % 64 = 50 := by omega
  have hf : v / 8388608 % 8 = 0 := by omega
  simp only [readFields, hm, decodeCopy, hf]
  rw [fld_eq v 18 s (by omega), fld_eq v 15 c (by omega), fld_eq v 14 t (by omega), fld_eq v 13 j (by omega)]
theorem Encoding.cpym (s c t j) : Encoding.Statement (.cpym s c t j) := by
  intro _
  have := s.isLt
  have := c.isLt
  have := t.isLt
  have := j.isLt
  generalize hn : encodeNat (.cpym s c t j) = v
  replace hn : 0xC8800000 + s.toNat * 0x40000 + c.toNat * 0x8000 + t.toNat * 0x4000 + j.toNat * 0x2000 = v := hn
  refine ⟨by omega, ?_⟩
  have hm : v / 0x4000000 % 64 = 50 := by omega
  have hf : v / 8388608 % 8 = 1 := by omega
  simp only [readFields, hm, decodeCopy, hf]
  rw [fld_eq v 18 s (by omega), fld_eq v 15 c (by omega), fld_eq v 14 t (by omega), fld_eq v 13 j (by omega)]
theorem Encoding.cpyg (s c t j) : Encoding.Statement (.cpyg s c t j) := by
  intro _
  have := s.isLt
  have := c.isLt
  have := t.isLt
  have := j.isLt
  generalize hn : encodeNat (.cpyg s c t j) = v
  replace hn : 0xC9000000 + s.toNat * 0x40000 + c.toNat * 0x8000 + t.toNat * 0x4000 + j.toNat * 0x2000 = v := hn
  refine ⟨by omega, ?_⟩
  have hm : v / 0x4000000 % 64 = 50 := by omega
  have hf : v / 8388608 % 8 = 2 := by omega
  simp only [readFields, hm, decodeCopy, hf]
  rw [fld_eq v 18 s (by omega), fld_eq v 15 c (by omega), fld_eq v 14 t (by omega), fld_eq v 13 j (by omega)]
theorem Encoding.chain (s i o) : Encoding.Statement (.chain s i o) := by
  intro _
  have := s.isLt
  have := i.isLt
  have := o.isLt
  generalize hn : encodeNat (.chain s i o) = v
  replace hn : 0xCC000000 + s.toNat * 0x200000 + i.toNat * 0x20000 + o.toNat * 0x2000 = v := hn
  refine ⟨by omega, ?_⟩
  have hm : v / 0x4000000 % 64 = 51 := by omega
  simp only [readFields, hm]
  rw [fld_eq v 21 s (by omega), fld_eq v 17 i (by omega), fld_eq v 13 o (by omega)]
theorem Encoding.jinit (a b) : Encoding.Statement (.jinit a b) := by
  intro _
  have := a.isLt
  have := b.isLt
  generalize hn : encodeNat (.jinit a b) = v
  replace hn : 0xD0000000 + a.toNat * 0x20000 + b.toNat * 0x400 = v := hn
  refine ⟨by omega, ?_⟩
  have hm : v / 0x4000000 % 64 = 52 := by omega
  have hf : v / 16777216 % 4 = 0 := by omega
  simp only [readFields, hm, decodeJoint, hf]
  rw [fld_eq v 17 a (by omega), fld_eq v 10 b (by omega)]
theorem Encoding.jarv (a b c) : Encoding.Statement (.jarv a b c) := by
  intro _
  have := a.isLt
  have := b.isLt
  have := c.isLt
  generalize hn : encodeNat (.jarv a b c) = v
  replace hn : 0xD1000000 + a.toNat * 0x20000 + b.toNat * 0x400 + c.toNat * 0x80 = v := hn
  refine ⟨by omega, ?_⟩
  have hm : v / 0x4000000 % 64 = 52 := by omega
  have hf : v / 16777216 % 4 = 1 := by omega
  simp only [readFields, hm, decodeJoint, hf]
  rw [fld_eq v 17 a (by omega), fld_eq v 10 b (by omega), fld_eq v 7 c (by omega)]
theorem Encoding.jexp (a b) : Encoding.Statement (.jexp a b) := by
  intro _
  have := a.isLt
  have := b.isLt
  generalize hn : encodeNat (.jexp a b) = v
  replace hn : 0xD2000000 + a.toNat * 0x20000 + b.toNat * 0x400 = v := hn
  refine ⟨by omega, ?_⟩
  have hm : v / 0x4000000 % 64 = 52 := by omega
  have hf : v / 16777216 % 4 = 2 := by omega
  simp only [readFields, hm, decodeJoint, hf]
  rw [fld_eq v 17 a (by omega), fld_eq v 10 b (by omega)]
theorem Encoding.jwait (a b c) : Encoding.Statement (.jwait a b c) := by
  intro _
  have := a.isLt
  have := b.isLt
  have := c.isLt
  generalize hn : encodeNat (.jwait a b c) = v
  replace hn : 0xD3000000 + a.toNat * 0x20000 + b.toNat * 0x400 + c.toNat * 0x80 = v := hn
  refine ⟨by omega, ?_⟩
  have hm : v / 0x4000000 % 64 = 52 := by omega
  have hf : v / 16777216 % 4 = 3 := by omega
  simp only [readFields, hm, decodeJoint, hf]
  rw [fld_eq v 17 a (by omega), fld_eq v 10 b (by omega), fld_eq v 7 c (by omega)]
theorem Encoding.tlrd (e a d) : Encoding.Statement (.tlrd e a d) := by
  intro _
  have := e.isLt
  have := a.isLt
  have := d.isLt
  generalize hn : encodeNat (.tlrd e a d) = v
  replace hn : 0xD4000000 + e.toNat * 0x800000 + a.toNat * 0x10000 + d.toNat * 0x100 = v := hn
  refine ⟨by omega, ?_⟩
  have hm : v / 0x4000000 % 64 = 53 := by omega
  have hf : v / 33554432 % 2 = 0 := by omega
  simp only [readFields, hm, decodeTl, hf]
  rw [fld_eq v 23 e (by omega), fld_eq v 16 a (by omega), fld_eq v 8 d (by omega)]
theorem Encoding.tlwait (e a c) : Encoding.Statement (.tlwait e a c) := by
  intro _
  have := e.isLt
  have := a.isLt
  have := c.isLt
  generalize hn : encodeNat (.tlwait e a c) = v
  replace hn : 0xD6000000 + e.toNat * 0x800000 + a.toNat * 0x10000 + c.toNat * 0x2000 = v := hn
  refine ⟨by omega, ?_⟩
  have hm : v / 0x4000000 % 64 = 53 := by omega
  have hf : v / 33554432 % 2 = 1 := by omega
  simp only [readFields, hm, decodeTl, hf]
  rw [fld_eq v 23 e (by omega), fld_eq v 16 a (by omega), fld_eq v 13 c (by omega)]
theorem Encoding.enq (s p) : Encoding.Statement (.enq s p) := by
  intro _
  have := s.isLt
  have := p.isLt
  generalize hn : encodeNat (.enq s p) = v
  replace hn : 0xD8000000 + s.toNat * 0x200000 + p.toNat * 0x100000 = v := hn
  refine ⟨by omega, ?_⟩
  have hm : v / 0x4000000 % 64 = 54 := by omega
  simp only [readFields, hm]
  rw [fld_eq v 21 s (by omega), fld_eq v 20 p (by omega)]
theorem Encoding.trap (c) : Encoding.Statement (.trap c) := by
  intro _
  have := c.isLt
  generalize hn : encodeNat (.trap c) = v
  replace hn : 0xE0000000 + c.toNat * 0x1 = v := hn
  refine ⟨by omega, ?_⟩
  have hm : v / 0x4000000 % 64 = 56 := by omega
  have hf : v / 16777216 % 4 = 0 := by omega
  simp only [readFields, hm, decodeSys, hf]
  rw [fld_eq v 0 c (by omega)]
theorem Encoding.bkpt (c) : Encoding.Statement (.bkpt c) := by
  intro _
  have := c.isLt
  generalize hn : encodeNat (.bkpt c) = v
  replace hn : 0xE1000000 + c.toNat * 0x1 = v := hn
  refine ⟨by omega, ?_⟩
  have hm : v / 0x4000000 % 64 = 56 := by omega
  have hf : v / 16777216 % 4 = 1 := by omega
  simp only [readFields, hm, decodeSys, hf]
  rw [fld_eq v 0 c (by omega)]
theorem Encoding.eret : Encoding.Statement (.eret) := by
  intro _
  have hn : encodeNat (.eret) = 0xE2000000 := rfl
  rw [hn]
  exact ⟨by decide, rfl⟩
theorem Encoding.csrr (d n) : Encoding.Statement (.csrr d n) := by
  intro hw
  have hq : n.toNat ≠ 50 := fun h => by
    rw [show n = 50#11 from BitVec.eq_of_toNat_eq h] at hw; exact Bool.noConfusion (show false = true from hw)
  have := d.isLt
  have := n.isLt
  generalize hn : encodeNat (.csrr d n) = v
  replace hn : 0xE4038000 + d.toNat * 0x40000 + n.toNat * 0x1 = v := hn
  refine ⟨by omega, ?_⟩
  have hm : v / 0x4000000 % 64 = 57 := by omega
  have hf : v / 16777216 % 4 = 0 := by omega
  simp only [readFields, hm, decodeCsr, hf]
  rw [if_neg (by omega)]
  rw [fld_eq v 18 d (by omega), fld_eq v 0 n (by omega)]
theorem Encoding.csrw (a n) : Encoding.Statement (.csrw a n) := by
  intro hw
  have hq : n.toNat ≠ 49 := fun h => by
    rw [show n = 49#11 from BitVec.eq_of_toNat_eq h] at hw; exact Bool.noConfusion (show false = true from hw)
  have := a.isLt
  have := n.isLt
  generalize hn : encodeNat (.csrw a n) = v
  replace hn : 0xE5FC0000 + a.toNat * 0x800 + n.toNat * 0x1 = v := hn
  refine ⟨by omega, ?_⟩
  have hm : v / 0x4000000 % 64 = 57 := by omega
  have hf : v / 16777216 % 4 = 1 := by omega
  simp only [readFields, hm, decodeCsr, hf]
  rw [if_neg (by omega)]
  rw [fld_eq v 11 a (by omega), fld_eq v 0 n (by omega)]
theorem Encoding.csrs (d a n) : Encoding.Statement (.csrs d a n) := by
  intro _
  have := d.isLt
  have := a.isLt
  have := n.isLt
  generalize hn : encodeNat (.csrs d a n) = v
  replace hn : 0xE6000000 + d.toNat * 0x40000 + a.toNat * 0x800 + n.toNat * 0x1 = v := hn
  refine ⟨by omega, ?_⟩
  have hm : v / 0x4000000 % 64 = 57 := by omega
  have hf : v / 16777216 % 4 = 2 := by omega
  simp only [readFields, hm, decodeCsr, hf]
  rw [fld_eq v 18 d (by omega), fld_eq v 11 a (by omega), fld_eq v 0 n (by omega)]
theorem Encoding.msgs (a) : Encoding.Statement (.msgs a) := by
  intro _
  have := a.isLt
  generalize hn : encodeNat (.msgs a) = v
  replace hn : 0xE5FC0031 + a.toNat * 0x800 = v := hn
  refine ⟨by omega, ?_⟩
  have hm : v / 0x4000000 % 64 = 57 := by omega
  have hf : v / 16777216 % 4 = 1 := by omega
  simp only [readFields, hm, decodeCsr, hf]
  rw [if_pos (by omega)]
  rw [fld_eq v 11 a (by omega)]
theorem Encoding.msgr (d) : Encoding.Statement (.msgr d) := by
  intro _
  have := d.isLt
  generalize hn : encodeNat (.msgr d) = v
  replace hn : 0xE4038032 + d.toNat * 0x40000 = v := hn
  refine ⟨by omega, ?_⟩
  have hm : v / 0x4000000 % 64 = 57 := by omega
  have hf : v / 16777216 % 4 = 0 := by omega
  simp only [readFields, hm, decodeCsr, hf]
  rw [if_pos (by omega)]
  rw [fld_eq v 18 d (by omega)]
theorem Encoding.metr (d a) : Encoding.Statement (.metr d a) := by
  intro _
  have := d.isLt
  have := a.isLt
  generalize hn : encodeNat (.metr d a) = v
  replace hn : 0xE8000000 + d.toNat * 0x200000 + a.toNat * 0x4000 = v := hn
  refine ⟨by omega, ?_⟩
  have hm : v / 0x4000000 % 64 = 58 := by omega
  simp only [readFields, hm]
  rw [fld_eq v 21 d (by omega), fld_eq v 14 a (by omega)]
theorem Encoding.himm (h) : Encoding.Statement (.himm h) := by
  intro _
  have := h.isLt
  generalize hn : encodeNat (.himm h) = v
  replace hn : 0xFC000000 + h.toNat * 0x1 = v := hn
  refine ⟨by omega, ?_⟩
  have hm : v / 0x4000000 % 64 = 63 := by omega
  have hf : v / 16777216 % 4 = 0 := by omega
  simp only [readFields, hm, decodeHint, hf]
  rw [fld_eq v 0 h (by omega)]
theorem Encoding.hsched (p c b a y) : Encoding.Statement (.hsched p c b a y) := by
  intro _
  have := p.isLt
  have := c.isLt
  have := b.isLt
  have := a.isLt
  have := y.isLt
  generalize hn : encodeNat (.hsched p c b a y) = v
  replace hn : 0xFD000000 + p.toNat * 0x10 + c.toNat * 0x8 + b.toNat * 0x4 + a.toNat * 0x2 + y.toNat * 0x1 = v := hn
  refine ⟨by omega, ?_⟩
  have hm : v / 0x4000000 % 64 = 63 := by omega
  have hf : v / 16777216 % 4 = 1 := by omega
  simp only [readFields, hm, decodeHint, hf]
  rw [fld_eq v 4 p (by omega), fld_eq v 3 c (by omega), fld_eq v 2 b (by omega), fld_eq v 1 a (by omega), fld_eq v 0 y (by omega)]
theorem Encoding.hmod (n c p e m) : Encoding.Statement (.hmod n c p e m) := by
  intro _
  have := n.isLt
  have := c.isLt
  have := p.isLt
  have := e.isLt
  have := m.isLt
  generalize hn : encodeNat (.hmod n c p e m) = v
  replace hn : 0xFE000000 + n.toNat * 0x100 + c.toNat * 0x80 + p.toNat * 0x10 + e.toNat * 0x8 + m.toNat * 0x1 = v := hn
  refine ⟨by omega, ?_⟩
  have hm : v / 0x4000000 % 64 = 63 := by omega
  have hf : v / 16777216 % 4 = 2 := by omega
  simp only [readFields, hm, decodeHint, hf]
  rw [fld_eq v 8 n (by omega), fld_eq v 7 c (by omega), fld_eq v 4 p (by omega), fld_eq v 3 e (by omega), fld_eq v 0 m (by omega)]
theorem Encoding.loadReply (a b c) : Encoding.Statement (.loadReply a b c) := Encoding.of_event rfl
theorem Encoding.acknowledgement (a) : Encoding.Statement (.acknowledgement a) := Encoding.of_event rfl
theorem Encoding.homeRequest (a) : Encoding.Statement (.homeRequest a) := Encoding.of_event rfl
theorem Encoding.linePush (a) : Encoding.Statement (.linePush a) := Encoding.of_event rfl
theorem Encoding.invalidation (a b) : Encoding.Statement (.invalidation a b) := Encoding.of_event rfl
theorem Encoding.eviction (a b c) : Encoding.Statement (.eviction a b c) := Encoding.of_event rfl
theorem Encoding.pageWalk (a b c d) : Encoding.Statement (.pageWalk a b c d) := Encoding.of_event rfl
theorem Encoding.scratchRefill (a b c) : Encoding.Statement (.scratchRefill a b c) := Encoding.of_event rfl
theorem Encoding.migrationReplay (a) : Encoding.Statement (.migrationReplay a) := Encoding.of_event rfl
theorem Encoding.fenceRDrain (a) : Encoding.Statement (.fenceRDrain a) := Encoding.of_event rfl
theorem Encoding.messageArrival (a) : Encoding.Statement (.messageArrival a) := Encoding.of_event rfl
theorem Encoding.msgrDelivery (a) : Encoding.Statement (.msgrDelivery a) := Encoding.of_event rfl
theorem Encoding.parkWake (a b) : Encoding.Statement (.parkWake a b) := Encoding.of_event rfl
theorem Encoding.parkTimeout (a b) : Encoding.Statement (.parkTimeout a b) := Encoding.of_event rfl
theorem Encoding.backEdge (a) : Encoding.Statement (.backEdge a) := Encoding.of_event rfl
theorem Encoding.regroupPoolTimeout (a b) : Encoding.Statement (.regroupPoolTimeout a b) := Encoding.of_event rfl
theorem Encoding.macqGrant (a) : Encoding.Statement (.macqGrant a) := Encoding.of_event rfl
theorem Encoding.arbiterSelect (a) : Encoding.Statement (.arbiterSelect a) := Encoding.of_event rfl
theorem Encoding.mwlComplete (a) : Encoding.Statement (.mwlComplete a) := Encoding.of_event rfl
theorem Encoding.mmsComplete (a) : Encoding.Statement (.mmsComplete a) := Encoding.of_event rfl
theorem Encoding.drainStart (a) : Encoding.Statement (.drainStart a) := Encoding.of_event rfl
theorem Encoding.drainEnd (a) : Encoding.Statement (.drainEnd a) := Encoding.of_event rfl
theorem Encoding.chainComplete (a) : Encoding.Statement (.chainComplete a) := Encoding.of_event rfl
theorem Encoding.copyBeat (a) : Encoding.Statement (.copyBeat a) := Encoding.of_event rfl
theorem Encoding.jwaitRelease (a b) : Encoding.Statement (.jwaitRelease a b) := Encoding.of_event rfl
theorem Encoding.tlwaitRelease (a b) : Encoding.Statement (.tlwaitRelease a b) := Encoding.of_event rfl
theorem Encoding.handlerEntry (a) : Encoding.Statement (.handlerEntry a) := Encoding.of_event rfl
theorem Encoding.killWorkgroup (a) : Encoding.Statement (.killWorkgroup a) := Encoding.of_event rfl
theorem Encoding.killNode (a) : Encoding.Statement (.killNode a) := Encoding.of_event rfl
theorem Encoding.killRegion (a) : Encoding.Statement (.killRegion a) := Encoding.of_event rfl
theorem Encoding.doorbell (a b) : Encoding.Statement (.doorbell a b) := Encoding.of_event rfl
theorem Encoding.qcbFirmwareWalk : Encoding.Statement (.qcbFirmwareWalk) := Encoding.of_event rfl
theorem Encoding.nop (a) : Encoding.Statement (.nop a) := Encoding.of_event rfl
theorem Encoding.node (a) : Encoding.Statement (.node a) := Encoding.of_event rfl
theorem Encoding.wait (a) : Encoding.Statement (.wait a) := Encoding.of_event rfl
theorem Encoding.waitReread (a) : Encoding.Statement (.waitReread a) := Encoding.of_event rfl
theorem Encoding.waitParkedRewalk (a) : Encoding.Statement (.waitParkedRewalk a) := Encoding.of_event rfl
theorem Encoding.admission : Encoding.Statement (.admission) := Encoding.of_event rfl
theorem Encoding.argumentCopy (a) : Encoding.Statement (.argumentCopy a) := Encoding.of_event rfl
theorem Encoding.placeWorkgroup (a) : Encoding.Statement (.placeWorkgroup a) := Encoding.of_event rfl
theorem Encoding.jigJobDone (a b) : Encoding.Statement (.jigJobDone a b) := Encoding.of_event rfl
theorem Encoding.nodeBlocking (a) : Encoding.Statement (.nodeBlocking a) := Encoding.of_event rfl
theorem Encoding.drainExpiry (a) : Encoding.Statement (.drainExpiry a) := Encoding.of_event rfl
theorem Encoding.save (a b) : Encoding.Statement (.save a b) := Encoding.of_event rfl
theorem Encoding.flush (a) : Encoding.Statement (.flush a) := Encoding.of_event rfl
theorem Encoding.resumeWorkgroup (a) : Encoding.Statement (.resumeWorkgroup a) := Encoding.of_event rfl
theorem Encoding.ringMove (a) : Encoding.Statement (.ringMove a) := Encoding.of_event rfl
theorem Encoding.nodeComplete (a) : Encoding.Statement (.nodeComplete a) := Encoding.of_event rfl
theorem Encoding.invalidationRequest (a) : Encoding.Statement (.invalidationRequest a) := Encoding.of_event rfl
theorem Encoding.invalidationComplete : Encoding.Statement (.invalidationComplete) := Encoding.of_event rfl
theorem Encoding.create : Encoding.Statement (.create) := Encoding.of_event rfl
theorem Encoding.req : Encoding.Statement (.req) := Encoding.of_event rfl
theorem Encoding.seal : Encoding.Statement (.seal) := Encoding.of_event rfl
theorem Encoding.sealHandover (a) : Encoding.Statement (.sealHandover a) := Encoding.of_event rfl
theorem Encoding.resume : Encoding.Statement (.resume) := Encoding.of_event rfl
theorem Encoding.restart : Encoding.Statement (.restart) := Encoding.of_event rfl
theorem Encoding.reportWrite : Encoding.Statement (.reportWrite) := Encoding.of_event rfl
theorem Encoding.registration : Encoding.Statement (.registration) := Encoding.of_event rfl
theorem Encoding.enable (a) : Encoding.Statement (.enable a) := Encoding.of_event rfl
theorem Encoding.errcnt (a) : Encoding.Statement (.errcnt a) := Encoding.of_event rfl
theorem Encoding.congest (a) : Encoding.Statement (.congest a) := Encoding.of_event rfl
theorem Encoding.evlost (a) : Encoding.Statement (.evlost a) := Encoding.of_event rfl
theorem Encoding.registerWrite (a b) : Encoding.Statement (.registerWrite a b) := Encoding.of_event rfl
theorem Encoding.hostBar2Access (a b c d) : Encoding.Statement (.hostBar2Access a b c d) := Encoding.of_event rfl
theorem Encoding.colInboundRequest (a b c d e) : Encoding.Statement (.colInboundRequest a b c d e) := Encoding.of_event rfl
theorem Encoding.routeLost (a) : Encoding.Statement (.routeLost a) := Encoding.of_event rfl
theorem Encoding.pcieLinkTrain (a b) : Encoding.Statement (.pcieLinkTrain a b) := Encoding.of_event rfl
theorem Encoding.colPortTrain (a b) : Encoding.Statement (.colPortTrain a b) := Encoding.of_event rfl
theorem Encoding.congestionEvent (a b) : Encoding.Statement (.congestionEvent a b) := Encoding.of_event rfl
theorem Encoding.patrolScrub (a b c) : Encoding.Statement (.patrolScrub a b c) := Encoding.of_event rfl
theorem Encoding.coldReset (a) : Encoding.Statement (.coldReset a) := Encoding.of_event rfl
theorem Encoding.functionLevelReset : Encoding.Statement (.functionLevelReset) := Encoding.of_event rfl
theorem Encoding.throttleStart (a b) : Encoding.Statement (.throttleStart a b) := Encoding.of_event rfl
theorem Encoding.throttleEnd (a b) : Encoding.Statement (.throttleEnd a b) := Encoding.of_event rfl
theorem Encoding.trip (a b) : Encoding.Statement (.trip a b) := Encoding.of_event rfl
theorem Encoding.illegalInstruction (a) : Encoding.Statement (.illegalInstruction a) := Encoding.of_event rfl
theorem Encoding.instructionFetchFault : Encoding.Statement (.instructionFetchFault) := Encoding.of_event rfl
theorem Encoding.clockCycle : Encoding.Statement (.clockCycle) := Encoding.of_event rfl
theorem Encoding.debugHaltEnd (a) : Encoding.Statement (.debugHaltEnd a) := Encoding.of_event rfl
theorem Encoding.debuggerAccess (a b c d e) : Encoding.Statement (.debuggerAccess a b c d e) := Encoding.of_event rfl
theorem Encoding.colPortDown (a) : Encoding.Statement (.colPortDown a) := Encoding.of_event rfl
theorem Encoding.flitCrcFailure (a) : Encoding.Statement (.flitCrcFailure a) := Encoding.of_event rfl

end Sys2Proof.Laws
end

