-- ==== Sys2Proof/Laws/Shapes.lean ====
section
/-! SUPPORT. What each common shape of an instruction word does, said once: lane results, guards, uniform results, floating-point
results. -/

namespace Sys2Proof.Laws

set_option Elab.async false

open Sys2Proof.Machine Sys2Proof.Safety

/-- A word whose own rule gives the warp w and lets its lanes go on. -/
theorem next_completes {i : Instr} {u : State → Iss → Uses} {p : State → Iss → Prop} {g : State → Iss → Warp}
    (u' : State → Iss → Uses) (body : State → Iss → Res) (w : State → Iss → Warp)
    (he : ∀ s, exec i s = atIssue s (u' s) (body s)) (hu : ∀ s j, u' s j = u s j)
    (hb : ∀ s j, Executes s j (u s j) → p s j → body s j = j.next s (w s j))
    (hw : ∀ s j, Executes s j (u s j) → p s j → w s j = g s j)
    (hg : ∀ s j, (g s j).levels = j.w.levels ∧ (g s j).lanes.length = j.w.lanes.length
      ∧ (∀ l, ((g s j).lane l).rpc = (j.w.lane l).rpc) ∧ ∀ l, ((g s j).lane l).pc = (j.w.lane l).pc) :
    CompletesIf i u p g := by
  refine completes_of_atIssue u' body (fun _ _ _ => .fall) he hu (fun s j hx hp => ?_) (fun s j _ _ => ?_) (fun s j _ _ l _ => ?_)
  · rw [hb s j hx hp, hw s j hx hp, Iss.next]
  · exact ⟨by unfold Warp.depth; rw [(hg s j).1], (hg s j).2.1, (hg s j).2.2.1⟩
  · simp only [moveTarget, (hg s j).2.2.2 l]

theorem result_pushed (w : Warp) (d : BitVec 6) (v : Word) (x : Lane) : w.result d (clean v) x = pushed w d v x := by
  unfold Warp.result pushed Lane.pushQ
  split <;> rfl

/-- The parts of a lane that a change of registers, queue and guards of a set's lanes leaves. -/
theorem modLanes_places (w : Warp) (ls : List Nat) (f : Nat → Lane → Lane) (h : ∀ l x, (f l x).rpc = x.rpc ∧ (f l x).pc = x.pc) :
    (w.modLanes ls f).levels = w.levels ∧ (w.modLanes ls f).lanes.length = w.lanes.length
      ∧ (∀ l, ((w.modLanes ls f).lane l).rpc = (w.lane l).rpc) ∧ ∀ l, ((w.modLanes ls f).lane l).pc = (w.lane l).pc :=
  ⟨modLanes_levels .., modLanes_length .., modLanes_rpc _ _ _ (fun l x => (h l x).1), modLanes_pc _ _ _ (fun l x => (h l x).2)⟩

/-- laneResult: the value in each lane of the set, nothing else. -/
theorem laneResult_completes {i : Instr} {u : State → Iss → Uses} {d : BitVec 6} {f h : State → Iss → Nat → Word}
    (u' : State → Iss → Uses) (he : ∀ s, exec i s = laneResult s d (u' s) (h s)) (hu : ∀ s j, u' s j = u s j)
    (hf : ∀ s j l, Executes s j (u s j) → h s j l = f s j l) : Completes i u (givesEach d f) :=
  next_completes u' (fun s j => j.next s (j.w.modLanes j.lanes (fun l x => j.w.result d (clean (h s j l)) x)))
    (fun s j => j.w.modLanes j.lanes (fun l x => j.w.result d (clean (h s j l)) x)) he hu (fun _ _ _ _ => rfl)
    (fun s j hx _ => by
      unfold givesEach
      congr 1
      funext l x
      rw [result_pushed, hf s j l hx])
    (fun s j => modLanes_places _ _ _ (fun _ _ => ⟨rfl, rfl⟩))

/-- laneGuard: the guard in each lane of the set, nothing else. -/
theorem laneGuard_completes {i : Instr} {u : State → Iss → Uses} {g : BitVec 3} {f h : State → Iss → Nat → Bool}
    (u' : State → Iss → Uses) (he : ∀ s, exec i s = laneGuard s g (u' s) (h s)) (hu : ∀ s j, u' s j = u s j)
    (hf : ∀ s j l, Executes s j (u s j) → h s j l = f s j l) : Completes i u (guardsEach g f) :=
  next_completes u' (fun s j => j.next s (j.w.modLanes j.lanes (fun l x => x.setGuard g (h s j l))))
    (fun s j => j.w.modLanes j.lanes (fun l x => x.setGuard g (h s j l))) he hu (fun _ _ _ _ => rfl)
    (fun s j hx _ => by
      unfold guardsEach
      congr 1
      funext l x
      rw [hf s j l hx, Lane.setGuard])
    (fun s j => modLanes_places _ _ _ (fun _ _ => ⟨rfl, rfl⟩))

/-- uniformResult: the value in one uniform register, nothing else. -/
theorem uniformResult_completes {i : Instr} {u : State → Iss → Uses} {d : BitVec 5} {f h : State → Iss → Word}
    (u' : State → Iss → Uses) (he : ∀ s, exec i s = uniformResult s d (u' s) (h s)) (hu : ∀ s j, u' s j = u s j)
    (hf : ∀ s j, Executes s j (u s j) → h s j = f s j) :
    Completes i u (fun s j => { j.w with s := mput {} j.w.s d.toNat (clean (f s j)) }) :=
  next_completes u' (fun s j => j.next s (j.w.setS d.toNat (clean (h s j)))) (fun s j => j.w.setS d.toNat (clean (h s j))) he hu
    (fun _ _ _ _ => rfl) (fun s j hx _ => by rw [hf s j hx]; rfl) (fun _ _ => ⟨rfl, rfl, fun _ => rfl, fun _ => rfl⟩)

/-- Without a hint that names a rounding mode, the mode is RNE. -/
theorem rne_of_check {s : State} {j : Iss} {u : Uses} (h : j.check s u = none) (hr : u.rm = false) : j.rm = .rne := by
  have h1 : j.hintOk u = true := by
    unfold Iss.check at h
    split at h
    · cases h
    · rename_i hn
      revert hn
      cases j.hintOk u <;> simp
  have h2 : j.hmod.getLsbD 3 = false := by
    unfold Iss.hmod
    unfold Iss.hintOk at h1
    cases hh : j.hint with
    | none => rfl
    | some x =>
      cases hm : x.hmod with
      | none => simp [hm]
      | some m => simp_all
  unfold Iss.rm
  rw [h2]
  rfl

/-- floatResult: the value in each lane of the set, the flags, AMAX; nothing else. -/
theorem floatResult_completes {i : Instr} {d : BitVec 6} {srcs : List (BitVec 7)} {rm : Bool} {f : State → Iss → Nat → LaneOut}
    {g : State → Iss → Nat → FRes} {am : State → Iss → List Nat}
    (he : ∀ s, exec i s = floatResult s d srcs rm true (f s))
    (hf : ∀ s j, Executes s j { srcs := srcs, dst := [d], rm := rm, nf := true } →
      ∀ l, (f s j l).bits = (g s j l).bits ∧ (f s j l).flags = (g s j l).flags)
    (ha : ∀ s j, j.lanes.flatMap (fun l => (f s j l).amax) = am s j) :
    Completes i (fun _ _ => { srcs := srcs, dst := [d], rm := rm, nf := true }) (fun s j =>
      (givesEach d (fun s j l => BitVec.ofNat 64 (g s j l).bits) s j).raise (raisedBy j (fun l => (g s j l).flags)) (am s j)) :=
  next_completes (fun _ _ => { srcs := srcs, dst := [d], rm := rm, nf := true })
    (fun s j => j.next s ((j.w.modLanes j.lanes (fun l x => j.w.result d (clean (BitVec.ofNat 64 (f s j l).bits)) x)).raise
      (j.raised (f s j)) (j.lanes.flatMap (fun l => (f s j l).amax))))
    (fun s j => (j.w.modLanes j.lanes (fun l x => j.w.result d (clean (BitVec.ofNat 64 (f s j l).bits)) x)).raise
      (j.raised (f s j)) (j.lanes.flatMap (fun l => (f s j l).amax)))
    he (fun _ _ => rfl) (fun _ _ _ _ => rfl)
    (fun s j hx _ => by
      have h1 : (fun l x => j.w.result d (clean (BitVec.ofNat 64 (f s j l).bits)) x)
          = fun l x => pushed j.w d (BitVec.ofNat 64 (g s j l).bits) x := by
        funext l x
        rw [result_pushed, (hf s j hx l).1]
      have h2 : (fun a l => a ||| (f s j l).flags) = fun (a : FlagBits) l => a ||| (g s j l).flags := by
        funext a l
        rw [(hf s j hx l).2]
      rw [h1, ha]
      unfold Iss.raised raisedBy givesEach
      rw [h2])
    (fun s j => modLanes_places _ _ _ (fun _ _ => ⟨rfl, rfl⟩))

/-- floatGuard: the guard in each lane of the set, and the flags; nothing else. -/
theorem floatGuard_completes {i : Instr} {k : BitVec 3} {srcs : List (BitVec 7)} {f : State → Iss → Nat → Bool × FlagBits}
    (he : ∀ s, exec i s = floatGuard s k srcs (f s)) :
    Completes i (fun _ _ => { srcs := srcs, nf := true }) (fun s j =>
      (guardsEach k (fun s j l => (f s j l).1) s j).raise (raisedBy j (fun l => (f s j l).2)) []) :=
  next_completes (fun _ _ => { srcs := srcs, nf := true })
    (fun s j => j.next s ((j.w.modLanes j.lanes (fun l x => x.setGuard k (f s j l).1)).raise
      (j.raised (fun l => { bits := 0, flags := (f s j l).2 })) []))
    (fun s j => (guardsEach k (fun s j l => (f s j l).1) s j).raise (raisedBy j (fun l => (f s j l).2)) [])
    he (fun _ _ => rfl) (fun _ _ _ _ => rfl) (fun _ _ _ _ => rfl) (fun _ _ => modLanes_places _ _ _ (fun _ _ => ⟨rfl, rfl⟩))

end Sys2Proof.Laws
end

