-- ==== Sys2Proof/Laws/Rendezvous.lean ====
section
/-! SUPPORT. What a rendezvous instruction does when its sub-group is complete, said once. -/

namespace Sys2Proof.Laws

set_option Elab.async false

open Sys2Proof.Machine Sys2Proof.Safety

/-- A change of lanes keeps the rest of a warp. -/
theorem modLanes_rest (w : Warp) (ls : List Nat) (f : Nat → Lane → Lane) :
    w.modLanes ls f = { w with lanes := (w.modLanes ls f).lanes } := by
  unfold Warp.modLanes
  induction ls generalizing w with
  | nil => rfl
  | cons a r ih =>
    have h := ih (w.modLane a (f a))
    rw [List.foldl_cons]
    generalize r.foldl (fun w l => w.modLane l (f l)) (w.modLane a (f a)) = v at h
    rw [h]
    rfl

/-- A part of a warp other than its lanes. -/
theorem modLanes_field {α : Type} (f : Warp → α) (w : Warp) (ls : List Nat) (g : Nat → Lane → Lane)
    (h : ∀ v : Warp, f { w with lanes := v.lanes } = f w) : f (w.modLanes ls g) = f w := by
  rw [modLanes_rest]
  exact h _

/-- The code of a warp is a matter of its workgroup and mode. -/
theorem code_parked (s : State) (w : Warp) (ls : List Nat) (f : Nat → Lane → Lane) : s.code (w.modLanes ls f) = s.code w := by
  have h1 := modLanes_field Warp.wg w ls f (fun _ => rfl)
  have h2 := modLanes_field Warp.handler w ls f (fun _ => rfl)
  simp only [State.code, State.jigOf, State.nodeOf, h1, h2]

/-- One representative for lanes of one sub-group. -/
theorem reps_one (ls : List Nat) (g : Nat) (hg : g ∈ [4, 8, 16, 32]) (hn : ls ≠ []) (hb : ∀ l ∈ ls, l < 32)
    (hq : ∀ l ∈ ls, l / g = ls.headD 0 / g) :
    (List.range (32 / g)).filterMap (fun q => (ls.filter (fun l => l / g == q)).head?) = [ls.headD 0] := by
  obtain ⟨a, r, rfl⟩ := List.exists_cons_of_ne_nil hn
  simp only [List.headD_cons] at *
  have ha : a < 32 := hb a (by simp)
  have hf : ∀ q, ((a :: r).filter (fun l => l / g == q)).head? = if a / g = q then some a else none := by
    intro q
    by_cases h : a / g = q
    · simp [h]
    · have : (a :: r).filter (fun l => l / g == q) = [] := by
        rw [List.filter_eq_nil_iff]
        intro l hl
        simp [hq l hl, h]
      rw [this]
      simp [h]
  simp only [hf]
  have hsmall : ∀ n k, k < n → (List.range n).filterMap (fun q => if k = q then some a else none) = [a] := by
    intro n
    induction n with
    | zero => intro k h; omega
    | succ n ih =>
      intro k h
      rw [List.range_succ, List.filterMap_append]
      by_cases hk : k = n
      · subst hk
        have : (List.range k).filterMap (fun q => if k = q then some a else none) = [] := by
          rw [List.filterMap_eq_nil_iff]
          intro q hq
          have := List.mem_range.mp hq
          simp; omega
        rw [this]
        simp
      · rw [ih k (by omega)]
        simp [hk]
  refine hsmall _ _ ?_
  simp only [List.mem_cons, List.mem_nil_iff, or_false] at hg
  rcases hg with rfl | rfl | rfl | rfl <;> omega

/-- The lanes of an issue are virtual lanes. -/
theorem issue_bound {s : State} {j : Iss} (h : s.issue = some j) : ∀ l ∈ j.lanes, l < 32 := by
  unfold State.issue at h
  split at h
  · cases h
  · cases h
    intro l hl
    have := (List.mem_filter.mp (List.mem_filter.mp hl).1).1
    exact List.mem_range.mp this

/-- The state an issue finds. -/
theorem issue_warp {s : State} {j : Iss} (h : s.issue = some j) : s.warp j.k = some j.w ∧ j.code = s.code j.w := by
  unfold State.issue at h
  split at h
  · cases h
  · cases h
    exact ⟨‹_›, rfl⟩

theorem setWarp_readSpec (s : State) (k : Nat) (w : Warp) (m : Iss) (low : Option (BitVec 10)) (l : Nat) (a : BitVec 7) :
    m.readSpec (s.setWarp k w) low l a = m.readSpec s low l a := rfl

theorem setWarp_readyIss (s : State) (k : Nat) (w : Warp) (m : Iss) (u : Uses) : m.ready (s.setWarp k w) u = m.ready s u := rfl

theorem setWarp_check (s : State) (k : Nat) (w : Warp) (m : Iss) (u : Uses) (h : m.check s u = none) :
    m.check (s.setWarp k w) u = none := by
  have hs : m.specOk (s.setWarp k w) = m.specOk s := rfl
  have hn : m.named (s.setWarp k w) = m.named s := rfl
  unfold Iss.check at *
  rw [hs, hn]
  split at h
  · cases h
  · rename_i h1
    rw [if_neg h1]
    split at h
    · rename_i h2
      rw [if_pos h2]
    · cases h

/-- The next state of a rendezvous instruction whose own rule answers .done. -/
theorem rendezvous_exec {s : State} {j m : Iss} {k : Nat} {u : State → Iss → Uses} {u' : Iss → Uses} {body : State → Iss → Res}
    {t : State} (hm : Meets s j m k u) (hu : ∀ i, u' i = u s i) (hb : body (s.setWarp j.k (j.parkAt k)) m = .done t) :
    atRendezvous s k u' body = .next (t.settle j.k) := by
  obtain ⟨h1, h2, h3, h4, h5, h6, h7, h8, h9⟩ := hm
  have hg : (j.parkAt k).groupSize k = j.w.groupSize k := by
    have e1 : (j.parkAt k).k1 = j.w.k1 := modLanes_field Warp.k1 _ _ _ (fun _ => rfl)
    have e2 : (j.parkAt k).k2 = j.w.k2 := modLanes_field Warp.k2 _ _ _ (fun _ => rfl)
    have e3 : (j.parkAt k).k3 = j.w.k3 := modLanes_field Warp.k3 _ _ _ (fun _ => rfl)
    unfold Warp.groupSize
    rw [e1, e2, e3]
  have hcode : (s.setWarp j.k (j.parkAt k)).code (j.parkAt k) = j.code := by
    rw [(issue_warp h1).2]
    exact code_parked s j.w j.lanes _
  have hpark : ∃ p, ((j.parkAt k).lane (j.lanes.headD 0)).park = p := ⟨_, rfl⟩
  obtain ⟨p, hp⟩ := hpark
  have hp2 : p = .rendezvous k := by
    have hmem : j.lanes.headD 0 ∈ j.lanes := by
      obtain ⟨a, r, e⟩ := List.exists_cons_of_ne_nil h2
      rw [e]; simp
    have hlt := live_lt ((issue_lanes h1).2 _ hmem)
    have := modLanes_lane j.w j.lanes (fun _ x => { x with park := .rendezvous k, age := 0 }) (issue_lanes h1).1 (j.lanes.headD 0)
    rw [if_pos ⟨hmem, hlt⟩] at this
    rw [← hp]
    show ((j.w.modLanes j.lanes (fun _ x => { x with park := .rendezvous k, age := 0 })).lane (j.lanes.headD 0)).park = _
    rw [this]
  subst hp2
  have hset : rendezvousSet j.k (j.lanes.headD 0) u' body (s.setWarp j.k (j.parkAt k), false) = (t, false) := by
    unfold rendezvousSet
    simp only [setWarp_warp, hcode, h6, Bool.not_true, Bool.false_eq_true, if_false, hp, ← h7, hu]
    rw [setWarp_check _ _ _ _ _ h8, setWarp_readyIss, h9]
    simp only [hb]
  unfold atRendezvous
  simp only [h1, hu, h5, hg]
  rw [reps_one j.lanes _ h3 h2 (issue_bound h1) h4]
  simp only [List.foldl_cons, List.foldl_nil, hset]

/-- The lanes that a rendezvous needs are live, without repeats. -/
theorem subgroup_lanes (w : Warp) (j l : Nat) : (w.subgroup j l).Nodup ∧ ∀ m ∈ w.subgroup j l, (w.lane m).live = true := by
  unfold Warp.subgroup
  split
  · split
    · exact ⟨List.nodup_range.filter _, fun m h => (List.mem_filter.mp h).2⟩
    · refine ⟨List.nodup_range.filter _, fun m h => ?_⟩
      have := (List.mem_filter.mp h).2
      simp only [Warp.participates, Bool.and_eq_true] at this
      exact this.1.2
  · refine ⟨List.nodup_range.filter _, fun m h => ?_⟩
    have := (List.mem_filter.mp h).2
    simp only [Bool.and_eq_true] at this
    exact this.1.2

/-- The lanes of a rendezvous set are live, without repeats. -/
theorem meets_lanes {s : State} {j m : Iss} {k : Nat} {u : State → Iss → Uses} (hm : Meets s j m k u) :
    m.lanes.Nodup ∧ ∀ l ∈ m.lanes, l < m.w.lanes.length := by
  obtain ⟨-, -, -, -, -, -, rfl, -, -⟩ := hm
  exact ⟨(subgroup_lanes ..).1, fun l hl => live_lt ((subgroup_lanes ..).2 l hl)⟩

/-- A rendezvous set over a group register is not empty: it holds the lane that completes it. -/
theorem meets_nonempty {s : State} {j m : Iss} {k : Nat} {u : State → Iss → Uses} (hk : k ≠ 4) (hm : Meets s j m k u) : m.lanes ≠ [] := by
  obtain ⟨h1, h2, h3, -, -, -, rfl, -, -⟩ := hm
  have hmem : j.lanes.headD 0 ∈ j.lanes := by
    obtain ⟨a, r, e⟩ := List.exists_cons_of_ne_nil h2
    rw [e]; simp
  have hlive := (issue_lanes h1).2 _ hmem
  have hlane : (j.parkAt k).lane (j.lanes.headD 0) = { j.w.lane (j.lanes.headD 0) with park := .rendezvous k, age := 0 } := by
    have := modLanes_lane j.w j.lanes (fun _ x => { x with park := .rendezvous k, age := 0 }) (issue_lanes h1).1 (j.lanes.headD 0)
    rw [if_pos ⟨hmem, live_lt hlive⟩] at this
    exact this
  intro he
  have hin : j.lanes.headD 0 ∈ (j.parkAt k).subgroup k (j.lanes.headD 0) := by
    unfold Warp.subgroup
    rw [if_neg hk]
    refine List.mem_filter.mpr ⟨List.mem_range.mpr (issue_bound h1 _ hmem), ?_⟩
    simp only [hlane]
    simpa using hlive
  rw [show (j.parkAt k).subgroup k (j.lanes.headD 0) = [] from he] at hin
  cases hin

/-- A rendezvous word whose own rule ends by moving the lanes of the set from the warp g completes. -/
theorem meets_of_leave {i : Instr} {k : Nat} {u : State → Iss → Uses} {p : State → Iss → Prop} {g : State → Iss → Warp}
    {dest : State → Iss → Nat → Word} (u' : State → Iss → Uses) (body : State → Iss → Res) (mv : State → Iss → Nat → Move)
    (he : ∀ s, exec i s = atRendezvous s k (u' s) body) (hu : ∀ s j, u' s j = u s j)
    (hb : ∀ s j m, Meets s j m k u → p s m → body (s.setWarp j.k (j.parkAt k)) m
      = .done (m.leave (s.setWarp j.k (j.parkAt k)) (g s m) (mv s m)))
    (hg : ∀ s m, p s m → (g s m).depth = m.w.depth ∧ (g s m).lanes.length = m.w.lanes.length
      ∧ ∀ l, ((g s m).lane l).rpc = (m.w.lane l).rpc)
    (ht : ∀ s m, p s m → ∀ l ∈ m.lanes, moveTarget (mv s m l) ((g s m).lane l) = dest s m l) :
    MeetsTo i k u p g dest := by
  intro s j m hm hp
  have hk : m.k = j.k := by obtain ⟨-, -, -, -, -, -, rfl, -, -⟩ := hm; rfl
  obtain ⟨g1, g2, g3⟩ := hg s m hp
  obtain ⟨l1, l2⟩ := meets_lanes hm
  obtain ⟨v0, hv0⟩ : ∃ v, (m.leave (s.setWarp j.k (j.parkAt k)) (g s m) (mv s m)).warp m.k = some v := ⟨_, setWarp_warp ..⟩
  refine ⟨m.leave (s.setWarp j.k (j.parkAt k)) (g s m) (mv s m), v0, ?_, ?_, ?_, fun hpl l => ?_⟩
  · rw [he]
    exact rendezvous_exec hm (hu s) (hb s j m hm hp)
  · have h := leave_reaches m (s.setWarp j.k (j.parkAt k)) (g s m) (mv s m)
    rw [hk] at h
    refine ⟨⟨?_, fun n hn => ?_⟩, h.2⟩
    · have := h.1.1
      unfold State.setWarp at this
      exact congrArg (fun x : State => { x with warps := s.warps }) this
    · rw [h.1.2 n hn]
      exact mget_mset_ne _ _ _ _ hn
  · rw [hk] at hv0
    exact hv0
  · obtain ⟨v, hv, hv2⟩ := lands_of (b := s.setWarp j.k (j.parkAt k)) l1 l2 hpl (g s m) (mv s m) g1 g2 g3
    have e := hv0.symm.trans hv
    have := hv2 l
    rw [← Option.some.inj e] at this
    rw [this]
    split
    · rw [ht s m hp l ‹_›]
    · rfl

/-- A collective: each lane of the set has its value, nothing else. -/
theorem collective_meets {i : Instr} {k : BitVec 2} {d : BitVec 6} {srcs : List (BitVec 7)} {f : State → Iss → Nat → Word}
    (h : State → Iss → Nat → Nat → Word) (he : ∀ s, exec i s = collective d srcs k h s)
    (hf : ∀ s n w m l, m.lanes ≠ [] → h (State.setWarp s n w) m (m.w.groupSize k.toNat) l = f s m l) :
    MeetsIf i k.toNat (fun _ _ => { srcs := srcs, dst := [d] }) (fun _ _ => True) (givesEach d f) := by
  have key : MeetsIf i k.toNat (fun _ _ => { srcs := srcs, dst := [d] }) (fun _ m => m.lanes ≠ []) (givesEach d f) := by
    refine meets_of_leave (fun _ _ => { srcs := srcs, dst := [d] }) _ (fun _ _ _ => .fall) he (fun _ _ => rfl)
      (fun s j m _ hp => ?_) (fun s m _ => ?_) (fun s m _ l _ => ?_)
    · unfold Iss.next givesEach
      congr 2
      congr 1
      funext l x
      rw [result_pushed, hf _ _ _ _ _ hp]
    · have := modLanes_places m.w m.lanes (fun l x => pushed m.w d (f s m l) x) (fun _ _ => ⟨rfl, rfl⟩)
      exact ⟨by unfold Warp.depth givesEach; rw [this.1], this.2.1, this.2.2.1⟩
    · have := modLanes_places m.w m.lanes (fun l x => pushed m.w d (f s m l) x) (fun _ _ => ⟨rfl, rfl⟩)
      simp only [moveTarget, givesEach, this.2.2.2 l]
  exact fun s j m hm _ => key s j m hm (meets_nonempty (by have := k.isLt; omega) hm)

end Sys2Proof.Laws
end

