-- ==== Sys2Proof/Laws/State.lean ====
section
/-! SUPPORT. What each update of the state, of a warp and of a lane leaves in each field: one lemma a field, and what the sparse maps
read after a write, so that no proof unfolds a record update. -/

namespace Sys2Proof.Laws

set_option Elab.async false

open Sys2Proof.Machine

/-! ### Sparse maps -/

theorem mget_mset {α : Type} (m : SMap α) (k j : Nat) (v : α) : mget (mset m k v) j = if j = k then some v else mget m j := by
  induction m with
  | nil => by_cases h : k = j <;> simp [mset, mget, h, eq_comm]
  | cons e r ih =>
    obtain ⟨i, x⟩ := e
    simp only [mset]
    split
    · by_cases h : k = j
      · subst h; simp [mget]
      · rw [mget, if_neg h, if_neg (Ne.symm h)]
    · split
      · subst_vars
        by_cases h : i = j
        · subst h; simp [mget]
        · rw [mget, if_neg h, if_neg (Ne.symm h), mget, if_neg h]
      · rw [mget, mget, ih]
        by_cases h : i = j
        · subst h; rw [if_pos rfl, if_pos rfl, if_neg (Ne.symm ‹¬k = i›)]
        · rw [if_neg h, if_neg h]

theorem mget_merase {α : Type} (m : SMap α) (k j : Nat) : mget (merase m k) j = if j = k then none else mget m j := by
  induction m with
  | nil => simp [merase, mget]
  | cons e r ih =>
    obtain ⟨i, x⟩ := e
    simp only [merase]
    by_cases h : i = k
    · subst h
      rw [if_pos rfl, ih, mget]
      by_cases h' : j = i
      · rw [if_pos h', if_pos h']
      · rw [if_neg h', if_neg h', if_neg (Ne.symm h')]
    · rw [if_neg h, mget, mget, ih]
      by_cases h' : i = j
      · subst h'; rw [if_pos rfl, if_pos rfl, if_neg h]
      · rw [if_neg h', if_neg h']

/-- A written key reads what was written, every other key what it read. -/
theorem mgetD_mput {α : Type} [DecidableEq α] (d : α) (m : SMap α) (k j : Nat) (v : α) :
    mgetD (mput d m k v) j d = if j = k then v else mgetD m j d := by
  unfold mput mgetD
  split
  · subst_vars; rw [mget_merase]; split <;> simp
  · rw [mget_mset]; split <;> simp

theorem mget_mmod {α : Type} (m : SMap α) (k j : Nat) (f : α → α) :
    mget (mmod m k f) j = if j = k then (mget m j).map f else mget m j := by
  induction m with
  | nil => simp [mmod, mget]
  | cons e r ih =>
    obtain ⟨i, x⟩ := e
    simp only [mmod]
    by_cases h : i = k
    · subst h
      rw [if_pos rfl, mget, mget]
      by_cases h' : i = j
      · subst h'; simp
      · rw [if_neg h', if_neg h', if_neg (Ne.symm h')]
    · rw [if_neg h, mget, mget, ih]
      by_cases h' : i = j
      · subst h'; rw [if_pos rfl, if_pos rfl, if_neg h]
      · rw [if_neg h', if_neg h']

/-! ### The state -/

@[simp] theorem setWarp_agenda (s : State) (k : Nat) (w : Warp) : (s.setWarp k w).agenda = s.agenda := rfl
@[simp] theorem setWarp_cur (s : State) (k : Nat) (w : Warp) : (s.setWarp k w).cur = s.cur := rfl
@[simp] theorem setWarp_second (s : State) (k : Nat) (w : Warp) : (s.setWarp k w).second = s.second := rfl
@[simp] theorem setWarp_turns (s : State) (k : Nat) (w : Warp) : (s.setWarp k w).turns = s.turns := rfl
@[simp] theorem setWarp_cycle (s : State) (k : Nat) (w : Warp) : (s.setWarp k w).cycle = s.cycle := rfl
@[simp] theorem setWarp_serial (s : State) (k : Nat) (w : Warp) : (s.setWarp k w).serial = s.serial := rfl
@[simp] theorem setWarp_free (s : State) (k : Nat) (w : Warp) : (s.setWarp k w).free = s.free := rfl
@[simp] theorem setWarp_booted (s : State) (k : Nat) (w : Warp) : (s.setWarp k w).booted = s.booted := rfl
@[simp] theorem setWarp_ready (s : State) (k : Nat) (w : Warp) : (s.setWarp k w).ready = s.ready := rfl
@[simp] theorem setWarp_throttled (s : State) (k : Nat) (w : Warp) : (s.setWarp k w).throttled = s.throttled := rfl
@[simp] theorem setWarp_tripped (s : State) (k : Nat) (w : Warp) : (s.setWarp k w).tripped = s.tripped := rfl
@[simp] theorem setWarp_refused (s : State) (k : Nat) (w : Warp) : (s.setWarp k w).refused = s.refused := rfl
@[simp] theorem setWarp_enabled (s : State) (k : Nat) (w : Warp) : (s.setWarp k w).enabled = s.enabled := rfl
@[simp] theorem setWarp_mem (s : State) (k : Nat) (w : Warp) : (s.setWarp k w).mem = s.mem := rfl
@[simp] theorem setWarp_poison (s : State) (k : Nat) (w : Warp) : (s.setWarp k w).poison = s.poison := rfl
@[simp] theorem setWarp_tags (s : State) (k : Nat) (w : Warp) : (s.setWarp k w).tags = s.tags := rfl
@[simp] theorem setWarp_pageSlot (s : State) (k : Nat) (w : Warp) : (s.setWarp k w).pageSlot = s.pageSlot := rfl
@[simp] theorem setWarp_l1 (s : State) (k : Nat) (w : Warp) : (s.setWarp k w).l1 = s.l1 := rfl
@[simp] theorem setWarp_cc (s : State) (k : Nat) (w : Warp) : (s.setWarp k w).cc = s.cc := rfl
@[simp] theorem setWarp_dir (s : State) (k : Nat) (w : Warp) : (s.setWarp k w).dir = s.dir := rfl
@[simp] theorem setWarp_invs (s : State) (k : Nat) (w : Warp) : (s.setWarp k w).invs = s.invs := rfl
@[simp] theorem setWarp_ops (s : State) (k : Nat) (w : Warp) : (s.setWarp k w).ops = s.ops := rfl
@[simp] theorem setWarp_tlb (s : State) (k : Nat) (w : Warp) : (s.setWarp k w).tlb = s.tlb := rfl
@[simp] theorem setWarp_heldMig (s : State) (k : Nat) (w : Warp) : (s.setWarp k w).heldMig = s.heldMig := rfl
@[simp] theorem setWarp_migrating (s : State) (k : Nat) (w : Warp) : (s.setWarp k w).migrating = s.migrating := rfl
@[simp] theorem setWarp_wgs (s : State) (k : Nat) (w : Warp) : (s.setWarp k w).wgs = s.wgs := rfl
@[simp] theorem setWarp_nodes (s : State) (k : Nat) (w : Warp) : (s.setWarp k w).nodes = s.nodes := rfl
@[simp] theorem setWarp_kernels (s : State) (k : Nat) (w : Warp) : (s.setWarp k w).kernels = s.kernels := rfl
@[simp] theorem setWarp_constants (s : State) (k : Nat) (w : Warp) : (s.setWarp k w).constants = s.constants := rfl
@[simp] theorem setWarp_split (s : State) (k : Nat) (w : Warp) : (s.setWarp k w).split = s.split := rfl
@[simp] theorem setWarp_coreStall (s : State) (k : Nat) (w : Warp) : (s.setWarp k w).coreStall = s.coreStall := rfl
@[simp] theorem setWarp_halted (s : State) (k : Nat) (w : Warp) : (s.setWarp k w).halted = s.halted := rfl
@[simp] theorem setWarp_benches (s : State) (k : Nat) (w : Warp) : (s.setWarp k w).benches = s.benches := rfl
@[simp] theorem setWarp_arrays (s : State) (k : Nat) (w : Warp) : (s.setWarp k w).arrays = s.arrays := rfl
@[simp] theorem setWarp_withdrawn (s : State) (k : Nat) (w : Warp) : (s.setWarp k w).withdrawn = s.withdrawn := rfl
@[simp] theorem setWarp_drains (s : State) (k : Nat) (w : Warp) : (s.setWarp k w).drains = s.drains := rfl
@[simp] theorem setWarp_gangClaims (s : State) (k : Nat) (w : Warp) : (s.setWarp k w).gangClaims = s.gangClaims := rfl
@[simp] theorem setWarp_copies (s : State) (k : Nat) (w : Warp) : (s.setWarp k w).copies = s.copies := rfl
@[simp] theorem setWarp_chains (s : State) (k : Nat) (w : Warp) : (s.setWarp k w).chains = s.chains := rfl
@[simp] theorem setWarp_fifo (s : State) (k : Nat) (w : Warp) : (s.setWarp k w).fifo = s.fifo := rfl
@[simp] theorem setWarp_transit (s : State) (k : Nat) (w : Warp) : (s.setWarp k w).transit = s.transit := rfl
@[simp] theorem setWarp_slots (s : State) (k : Nat) (w : Warp) : (s.setWarp k w).slots = s.slots := rfl
@[simp] theorem setWarp_queueWait (s : State) (k : Nat) (w : Warp) : (s.setWarp k w).queueWait = s.queueWait := rfl
@[simp] theorem setWarp_parked (s : State) (k : Nat) (w : Warp) : (s.setWarp k w).parked = s.parked := rfl
@[simp] theorem setWarp_walks (s : State) (k : Nat) (w : Warp) : (s.setWarp k w).walks = s.walks := rfl
@[simp] theorem setWarp_credits (s : State) (k : Nat) (w : Warp) : (s.setWarp k w).credits = s.credits := rfl
@[simp] theorem setWarp_crediting (s : State) (k : Nat) (w : Warp) : (s.setWarp k w).crediting = s.crediting := rfl
@[simp] theorem setWarp_dqueue (s : State) (k : Nat) (w : Warp) : (s.setWarp k w).dqueue = s.dqueue := rfl
@[simp] theorem setWarp_spilled (s : State) (k : Nat) (w : Warp) : (s.setWarp k w).spilled = s.spilled := rfl
@[simp] theorem setWarp_admitted (s : State) (k : Nat) (w : Warp) : (s.setWarp k w).admitted = s.admitted := rfl
@[simp] theorem setWarp_placing (s : State) (k : Nat) (w : Warp) : (s.setWarp k w).placing = s.placing := rfl
@[simp] theorem setWarp_lastCluster (s : State) (k : Nat) (w : Warp) : (s.setWarp k w).lastCluster = s.lastCluster := rfl
@[simp] theorem setWarp_arenas (s : State) (k : Nat) (w : Warp) : (s.setWarp k w).arenas = s.arenas := rfl
@[simp] theorem setWarp_jigCache (s : State) (k : Nat) (w : Warp) : (s.setWarp k w).jigCache = s.jigCache := rfl
@[simp] theorem setWarp_jigJobs (s : State) (k : Nat) (w : Warp) : (s.setWarp k w).jigJobs = s.jigJobs := rfl
@[simp] theorem setWarp_meters (s : State) (k : Nat) (w : Warp) : (s.setWarp k w).meters = s.meters := rfl
@[simp] theorem setWarp_creation (s : State) (k : Nat) (w : Warp) : (s.setWarp k w).creation = s.creation := rfl
@[simp] theorem setWarp_reports (s : State) (k : Nat) (w : Warp) : (s.setWarp k w).reports = s.reports := rfl
@[simp] theorem setWarp_allowedSets (s : State) (k : Nat) (w : Warp) : (s.setWarp k w).allowedSets = s.allowedSets := rfl
@[simp] theorem setWarp_signed (s : State) (k : Nat) (w : Warp) : (s.setWarp k w).signed = s.signed := rfl
@[simp] theorem setWarp_meterCmds (s : State) (k : Nat) (w : Warp) : (s.setWarp k w).meterCmds = s.meterCmds := rfl
@[simp] theorem setWarp_regCmds (s : State) (k : Nat) (w : Warp) : (s.setWarp k w).regCmds = s.regCmds := rfl
@[simp] theorem setWarp_invReqs (s : State) (k : Nat) (w : Warp) : (s.setWarp k w).invReqs = s.invReqs := rfl
@[simp] theorem setWarp_invLow (s : State) (k : Nat) (w : Warp) : (s.setWarp k w).invLow = s.invLow := rfl
@[simp] theorem setWarp_bar (s : State) (k : Nat) (w : Warp) : (s.setWarp k w).bar = s.bar := rfl
@[simp] theorem setWarp_evseq (s : State) (k : Nat) (w : Warp) : (s.setWarp k w).evseq = s.evseq := rfl
@[simp] theorem setWarp_hostRead (s : State) (k : Nat) (w : Warp) : (s.setWarp k w).hostRead = s.hostRead := rfl
@[simp] theorem setWarp_ports (s : State) (k : Nat) (w : Warp) : (s.setWarp k w).ports = s.ports := rfl
@[simp] theorem setWarp_lost (s : State) (k : Nat) (w : Warp) : (s.setWarp k w).lost = s.lost := rfl
@[simp] theorem setWarp_grants (s : State) (k : Nat) (w : Warp) : (s.setWarp k w).grants = s.grants := rfl
@[simp] theorem setWarp_pcieRate (s : State) (k : Nat) (w : Warp) : (s.setWarp k w).pcieRate = s.pcieRate := rfl
@[simp] theorem setWarp_pcieWidth (s : State) (k : Nat) (w : Warp) : (s.setWarp k w).pcieWidth = s.pcieWidth := rfl

@[simp] theorem modWarp_agenda (s : State) (k : Nat) (f : Warp → Warp) : (s.modWarp k f).agenda = s.agenda := rfl
@[simp] theorem modWarp_cur (s : State) (k : Nat) (f : Warp → Warp) : (s.modWarp k f).cur = s.cur := rfl
@[simp] theorem modWarp_second (s : State) (k : Nat) (f : Warp → Warp) : (s.modWarp k f).second = s.second := rfl
@[simp] theorem modWarp_turns (s : State) (k : Nat) (f : Warp → Warp) : (s.modWarp k f).turns = s.turns := rfl
@[simp] theorem modWarp_cycle (s : State) (k : Nat) (f : Warp → Warp) : (s.modWarp k f).cycle = s.cycle := rfl
@[simp] theorem modWarp_serial (s : State) (k : Nat) (f : Warp → Warp) : (s.modWarp k f).serial = s.serial := rfl
@[simp] theorem modWarp_free (s : State) (k : Nat) (f : Warp → Warp) : (s.modWarp k f).free = s.free := rfl
@[simp] theorem modWarp_booted (s : State) (k : Nat) (f : Warp → Warp) : (s.modWarp k f).booted = s.booted := rfl
@[simp] theorem modWarp_ready (s : State) (k : Nat) (f : Warp → Warp) : (s.modWarp k f).ready = s.ready := rfl
@[simp] theorem modWarp_throttled (s : State) (k : Nat) (f : Warp → Warp) : (s.modWarp k f).throttled = s.throttled := rfl
@[simp] theorem modWarp_tripped (s : State) (k : Nat) (f : Warp → Warp) : (s.modWarp k f).tripped = s.tripped := rfl
@[simp] theorem modWarp_refused (s : State) (k : Nat) (f : Warp → Warp) : (s.modWarp k f).refused = s.refused := rfl
@[simp] theorem modWarp_enabled (s : State) (k : Nat) (f : Warp → Warp) : (s.modWarp k f).enabled = s.enabled := rfl
@[simp] theorem modWarp_mem (s : State) (k : Nat) (f : Warp → Warp) : (s.modWarp k f).mem = s.mem := rfl
@[simp] theorem modWarp_poison (s : State) (k : Nat) (f : Warp → Warp) : (s.modWarp k f).poison = s.poison := rfl
@[simp] theorem modWarp_tags (s : State) (k : Nat) (f : Warp → Warp) : (s.modWarp k f).tags = s.tags := rfl
@[simp] theorem modWarp_pageSlot (s : State) (k : Nat) (f : Warp → Warp) : (s.modWarp k f).pageSlot = s.pageSlot := rfl
@[simp] theorem modWarp_l1 (s : State) (k : Nat) (f : Warp → Warp) : (s.modWarp k f).l1 = s.l1 := rfl
@[simp] theorem modWarp_cc (s : State) (k : Nat) (f : Warp → Warp) : (s.modWarp k f).cc = s.cc := rfl
@[simp] theorem modWarp_dir (s : State) (k : Nat) (f : Warp → Warp) : (s.modWarp k f).dir = s.dir := rfl
@[simp] theorem modWarp_invs (s : State) (k : Nat) (f : Warp → Warp) : (s.modWarp k f).invs = s.invs := rfl
@[simp] theorem modWarp_ops (s : State) (k : Nat) (f : Warp → Warp) : (s.modWarp k f).ops = s.ops := rfl
@[simp] theorem modWarp_tlb (s : State) (k : Nat) (f : Warp → Warp) : (s.modWarp k f).tlb = s.tlb := rfl
@[simp] theorem modWarp_heldMig (s : State) (k : Nat) (f : Warp → Warp) : (s.modWarp k f).heldMig = s.heldMig := rfl
@[simp] theorem modWarp_migrating (s : State) (k : Nat) (f : Warp → Warp) : (s.modWarp k f).migrating = s.migrating := rfl
@[simp] theorem modWarp_wgs (s : State) (k : Nat) (f : Warp → Warp) : (s.modWarp k f).wgs = s.wgs := rfl
@[simp] theorem modWarp_nodes (s : State) (k : Nat) (f : Warp → Warp) : (s.modWarp k f).nodes = s.nodes := rfl
@[simp] theorem modWarp_kernels (s : State) (k : Nat) (f : Warp → Warp) : (s.modWarp k f).kernels = s.kernels := rfl
@[simp] theorem modWarp_constants (s : State) (k : Nat) (f : Warp → Warp) : (s.modWarp k f).constants = s.constants := rfl
@[simp] theorem modWarp_split (s : State) (k : Nat) (f : Warp → Warp) : (s.modWarp k f).split = s.split := rfl
@[simp] theorem modWarp_coreStall (s : State) (k : Nat) (f : Warp → Warp) : (s.modWarp k f).coreStall = s.coreStall := rfl
@[simp] theorem modWarp_halted (s : State) (k : Nat) (f : Warp → Warp) : (s.modWarp k f).halted = s.halted := rfl
@[simp] theorem modWarp_benches (s : State) (k : Nat) (f : Warp → Warp) : (s.modWarp k f).benches = s.benches := rfl
@[simp] theorem modWarp_arrays (s : State) (k : Nat) (f : Warp → Warp) : (s.modWarp k f).arrays = s.arrays := rfl
@[simp] theorem modWarp_withdrawn (s : State) (k : Nat) (f : Warp → Warp) : (s.modWarp k f).withdrawn = s.withdrawn := rfl
@[simp] theorem modWarp_drains (s : State) (k : Nat) (f : Warp → Warp) : (s.modWarp k f).drains = s.drains := rfl
@[simp] theorem modWarp_gangClaims (s : State) (k : Nat) (f : Warp → Warp) : (s.modWarp k f).gangClaims = s.gangClaims := rfl
@[simp] theorem modWarp_copies (s : State) (k : Nat) (f : Warp → Warp) : (s.modWarp k f).copies = s.copies := rfl
@[simp] theorem modWarp_chains (s : State) (k : Nat) (f : Warp → Warp) : (s.modWarp k f).chains = s.chains := rfl
@[simp] theorem modWarp_fifo (s : State) (k : Nat) (f : Warp → Warp) : (s.modWarp k f).fifo = s.fifo := rfl
@[simp] theorem modWarp_transit (s : State) (k : Nat) (f : Warp → Warp) : (s.modWarp k f).transit = s.transit := rfl
@[simp] theorem modWarp_slots (s : State) (k : Nat) (f : Warp → Warp) : (s.modWarp k f).slots = s.slots := rfl
@[simp] theorem modWarp_queueWait (s : State) (k : Nat) (f : Warp → Warp) : (s.modWarp k f).queueWait = s.queueWait := rfl
@[simp] theorem modWarp_parked (s : State) (k : Nat) (f : Warp → Warp) : (s.modWarp k f).parked = s.parked := rfl
@[simp] theorem modWarp_walks (s : State) (k : Nat) (f : Warp → Warp) : (s.modWarp k f).walks = s.walks := rfl
@[simp] theorem modWarp_credits (s : State) (k : Nat) (f : Warp → Warp) : (s.modWarp k f).credits = s.credits := rfl
@[simp] theorem modWarp_crediting (s : State) (k : Nat) (f : Warp → Warp) : (s.modWarp k f).crediting = s.crediting := rfl
@[simp] theorem modWarp_dqueue (s : State) (k : Nat) (f : Warp → Warp) : (s.modWarp k f).dqueue = s.dqueue := rfl
@[simp] theorem modWarp_spilled (s : State) (k : Nat) (f : Warp → Warp) : (s.modWarp k f).spilled = s.spilled := rfl
@[simp] theorem modWarp_admitted (s : State) (k : Nat) (f : Warp → Warp) : (s.modWarp k f).admitted = s.admitted := rfl
@[simp] theorem modWarp_placing (s : State) (k : Nat) (f : Warp → Warp) : (s.modWarp k f).placing = s.placing := rfl
@[simp] theorem modWarp_lastCluster (s : State) (k : Nat) (f : Warp → Warp) : (s.modWarp k f).lastCluster = s.lastCluster := rfl
@[simp] theorem modWarp_arenas (s : State) (k : Nat) (f : Warp → Warp) : (s.modWarp k f).arenas = s.arenas := rfl
@[simp] theorem modWarp_jigCache (s : State) (k : Nat) (f : Warp → Warp) : (s.modWarp k f).jigCache = s.jigCache := rfl
@[simp] theorem modWarp_jigJobs (s : State) (k : Nat) (f : Warp → Warp) : (s.modWarp k f).jigJobs = s.jigJobs := rfl
@[simp] theorem modWarp_meters (s : State) (k : Nat) (f : Warp → Warp) : (s.modWarp k f).meters = s.meters := rfl
@[simp] theorem modWarp_creation (s : State) (k : Nat) (f : Warp → Warp) : (s.modWarp k f).creation = s.creation := rfl
@[simp] theorem modWarp_reports (s : State) (k : Nat) (f : Warp → Warp) : (s.modWarp k f).reports = s.reports := rfl
@[simp] theorem modWarp_allowedSets (s : State) (k : Nat) (f : Warp → Warp) : (s.modWarp k f).allowedSets = s.allowedSets := rfl
@[simp] theorem modWarp_signed (s : State) (k : Nat) (f : Warp → Warp) : (s.modWarp k f).signed = s.signed := rfl
@[simp] theorem modWarp_meterCmds (s : State) (k : Nat) (f : Warp → Warp) : (s.modWarp k f).meterCmds = s.meterCmds := rfl
@[simp] theorem modWarp_regCmds (s : State) (k : Nat) (f : Warp → Warp) : (s.modWarp k f).regCmds = s.regCmds := rfl
@[simp] theorem modWarp_invReqs (s : State) (k : Nat) (f : Warp → Warp) : (s.modWarp k f).invReqs = s.invReqs := rfl
@[simp] theorem modWarp_invLow (s : State) (k : Nat) (f : Warp → Warp) : (s.modWarp k f).invLow = s.invLow := rfl
@[simp] theorem modWarp_bar (s : State) (k : Nat) (f : Warp → Warp) : (s.modWarp k f).bar = s.bar := rfl
@[simp] theorem modWarp_evseq (s : State) (k : Nat) (f : Warp → Warp) : (s.modWarp k f).evseq = s.evseq := rfl
@[simp] theorem modWarp_hostRead (s : State) (k : Nat) (f : Warp → Warp) : (s.modWarp k f).hostRead = s.hostRead := rfl
@[simp] theorem modWarp_ports (s : State) (k : Nat) (f : Warp → Warp) : (s.modWarp k f).ports = s.ports := rfl
@[simp] theorem modWarp_lost (s : State) (k : Nat) (f : Warp → Warp) : (s.modWarp k f).lost = s.lost := rfl
@[simp] theorem modWarp_grants (s : State) (k : Nat) (f : Warp → Warp) : (s.modWarp k f).grants = s.grants := rfl
@[simp] theorem modWarp_pcieRate (s : State) (k : Nat) (f : Warp → Warp) : (s.modWarp k f).pcieRate = s.pcieRate := rfl
@[simp] theorem modWarp_pcieWidth (s : State) (k : Nat) (f : Warp → Warp) : (s.modWarp k f).pcieWidth = s.pcieWidth := rfl

@[simp] theorem modWg_agenda (s : State) (g : Nat) (f : Wg → Wg) : (s.modWg g f).agenda = s.agenda := rfl
@[simp] theorem modWg_cur (s : State) (g : Nat) (f : Wg → Wg) : (s.modWg g f).cur = s.cur := rfl
@[simp] theorem modWg_second (s : State) (g : Nat) (f : Wg → Wg) : (s.modWg g f).second = s.second := rfl
@[simp] theorem modWg_turns (s : State) (g : Nat) (f : Wg → Wg) : (s.modWg g f).turns = s.turns := rfl
@[simp] theorem modWg_cycle (s : State) (g : Nat) (f : Wg → Wg) : (s.modWg g f).cycle = s.cycle := rfl
@[simp] theorem modWg_serial (s : State) (g : Nat) (f : Wg → Wg) : (s.modWg g f).serial = s.serial := rfl
@[simp] theorem modWg_free (s : State) (g : Nat) (f : Wg → Wg) : (s.modWg g f).free = s.free := rfl
@[simp] theorem modWg_booted (s : State) (g : Nat) (f : Wg → Wg) : (s.modWg g f).booted = s.booted := rfl
@[simp] theorem modWg_ready (s : State) (g : Nat) (f : Wg → Wg) : (s.modWg g f).ready = s.ready := rfl
@[simp] theorem modWg_throttled (s : State) (g : Nat) (f : Wg → Wg) : (s.modWg g f).throttled = s.throttled := rfl
@[simp] theorem modWg_tripped (s : State) (g : Nat) (f : Wg → Wg) : (s.modWg g f).tripped = s.tripped := rfl
@[simp] theorem modWg_refused (s : State) (g : Nat) (f : Wg → Wg) : (s.modWg g f).refused = s.refused := rfl
@[simp] theorem modWg_enabled (s : State) (g : Nat) (f : Wg → Wg) : (s.modWg g f).enabled = s.enabled := rfl
@[simp] theorem modWg_mem (s : State) (g : Nat) (f : Wg → Wg) : (s.modWg g f).mem = s.mem := rfl
@[simp] theorem modWg_poison (s : State) (g : Nat) (f : Wg → Wg) : (s.modWg g f).poison = s.poison := rfl
@[simp] theorem modWg_tags (s : State) (g : Nat) (f : Wg → Wg) : (s.modWg g f).tags = s.tags := rfl
@[simp] theorem modWg_pageSlot (s : State) (g : Nat) (f : Wg → Wg) : (s.modWg g f).pageSlot = s.pageSlot := rfl
@[simp] theorem modWg_l1 (s : State) (g : Nat) (f : Wg → Wg) : (s.modWg g f).l1 = s.l1 := rfl
@[simp] theorem modWg_cc (s : State) (g : Nat) (f : Wg → Wg) : (s.modWg g f).cc = s.cc := rfl
@[simp] theorem modWg_dir (s : State) (g : Nat) (f : Wg → Wg) : (s.modWg g f).dir = s.dir := rfl
@[simp] theorem modWg_invs (s : State) (g : Nat) (f : Wg → Wg) : (s.modWg g f).invs = s.invs := rfl
@[simp] theorem modWg_ops (s : State) (g : Nat) (f : Wg → Wg) : (s.modWg g f).ops = s.ops := rfl
@[simp] theorem modWg_tlb (s : State) (g : Nat) (f : Wg → Wg) : (s.modWg g f).tlb = s.tlb := rfl
@[simp] theorem modWg_heldMig (s : State) (g : Nat) (f : Wg → Wg) : (s.modWg g f).heldMig = s.heldMig := rfl
@[simp] theorem modWg_migrating (s : State) (g : Nat) (f : Wg → Wg) : (s.modWg g f).migrating = s.migrating := rfl
@[simp] theorem modWg_warps (s : State) (g : Nat) (f : Wg → Wg) : (s.modWg g f).warps = s.warps := rfl
@[simp] theorem modWg_nodes (s : State) (g : Nat) (f : Wg → Wg) : (s.modWg g f).nodes = s.nodes := rfl
@[simp] theorem modWg_kernels (s : State) (g : Nat) (f : Wg → Wg) : (s.modWg g f).kernels = s.kernels := rfl
@[simp] theorem modWg_constants (s : State) (g : Nat) (f : Wg → Wg) : (s.modWg g f).constants = s.constants := rfl
@[simp] theorem modWg_split (s : State) (g : Nat) (f : Wg → Wg) : (s.modWg g f).split = s.split := rfl
@[simp] theorem modWg_coreStall (s : State) (g : Nat) (f : Wg → Wg) : (s.modWg g f).coreStall = s.coreStall := rfl
@[simp] theorem modWg_halted (s : State) (g : Nat) (f : Wg → Wg) : (s.modWg g f).halted = s.halted := rfl
@[simp] theorem modWg_benches (s : State) (g : Nat) (f : Wg → Wg) : (s.modWg g f).benches = s.benches := rfl
@[simp] theorem modWg_arrays (s : State) (g : Nat) (f : Wg → Wg) : (s.modWg g f).arrays = s.arrays := rfl
@[simp] theorem modWg_withdrawn (s : State) (g : Nat) (f : Wg → Wg) : (s.modWg g f).withdrawn = s.withdrawn := rfl
@[simp] theorem modWg_drains (s : State) (g : Nat) (f : Wg → Wg) : (s.modWg g f).drains = s.drains := rfl
@[simp] theorem modWg_gangClaims (s : State) (g : Nat) (f : Wg → Wg) : (s.modWg g f).gangClaims = s.gangClaims := rfl
@[simp] theorem modWg_copies (s : State) (g : Nat) (f : Wg → Wg) : (s.modWg g f).copies = s.copies := rfl
@[simp] theorem modWg_chains (s : State) (g : Nat) (f : Wg → Wg) : (s.modWg g f).chains = s.chains := rfl
@[simp] theorem modWg_fifo (s : State) (g : Nat) (f : Wg → Wg) : (s.modWg g f).fifo = s.fifo := rfl
@[simp] theorem modWg_transit (s : State) (g : Nat) (f : Wg → Wg) : (s.modWg g f).transit = s.transit := rfl
@[simp] theorem modWg_slots (s : State) (g : Nat) (f : Wg → Wg) : (s.modWg g f).slots = s.slots := rfl
@[simp] theorem modWg_queueWait (s : State) (g : Nat) (f : Wg → Wg) : (s.modWg g f).queueWait = s.queueWait := rfl
@[simp] theorem modWg_parked (s : State) (g : Nat) (f : Wg → Wg) : (s.modWg g f).parked = s.parked := rfl
@[simp] theorem modWg_walks (s : State) (g : Nat) (f : Wg → Wg) : (s.modWg g f).walks = s.walks := rfl
@[simp] theorem modWg_credits (s : State) (g : Nat) (f : Wg → Wg) : (s.modWg g f).credits = s.credits := rfl
@[simp] theorem modWg_crediting (s : State) (g : Nat) (f : Wg → Wg) : (s.modWg g f).crediting = s.crediting := rfl
@[simp] theorem modWg_dqueue (s : State) (g : Nat) (f : Wg → Wg) : (s.modWg g f).dqueue = s.dqueue := rfl
@[simp] theorem modWg_spilled (s : State) (g : Nat) (f : Wg → Wg) : (s.modWg g f).spilled = s.spilled := rfl
@[simp] theorem modWg_admitted (s : State) (g : Nat) (f : Wg → Wg) : (s.modWg g f).admitted = s.admitted := rfl
@[simp] theorem modWg_placing (s : State) (g : Nat) (f : Wg → Wg) : (s.modWg g f).placing = s.placing := rfl
@[simp] theorem modWg_lastCluster (s : State) (g : Nat) (f : Wg → Wg) : (s.modWg g f).lastCluster = s.lastCluster := rfl
@[simp] theorem modWg_arenas (s : State) (g : Nat) (f : Wg → Wg) : (s.modWg g f).arenas = s.arenas := rfl
@[simp] theorem modWg_jigCache (s : State) (g : Nat) (f : Wg → Wg) : (s.modWg g f).jigCache = s.jigCache := rfl
@[simp] theorem modWg_jigJobs (s : State) (g : Nat) (f : Wg → Wg) : (s.modWg g f).jigJobs = s.jigJobs := rfl
@[simp] theorem modWg_meters (s : State) (g : Nat) (f : Wg → Wg) : (s.modWg g f).meters = s.meters := rfl
@[simp] theorem modWg_creation (s : State) (g : Nat) (f : Wg → Wg) : (s.modWg g f).creation = s.creation := rfl
@[simp] theorem modWg_reports (s : State) (g : Nat) (f : Wg → Wg) : (s.modWg g f).reports = s.reports := rfl
@[simp] theorem modWg_allowedSets (s : State) (g : Nat) (f : Wg → Wg) : (s.modWg g f).allowedSets = s.allowedSets := rfl
@[simp] theorem modWg_signed (s : State) (g : Nat) (f : Wg → Wg) : (s.modWg g f).signed = s.signed := rfl
@[simp] theorem modWg_meterCmds (s : State) (g : Nat) (f : Wg → Wg) : (s.modWg g f).meterCmds = s.meterCmds := rfl
@[simp] theorem modWg_regCmds (s : State) (g : Nat) (f : Wg → Wg) : (s.modWg g f).regCmds = s.regCmds := rfl
@[simp] theorem modWg_invReqs (s : State) (g : Nat) (f : Wg → Wg) : (s.modWg g f).invReqs = s.invReqs := rfl
@[simp] theorem modWg_invLow (s : State) (g : Nat) (f : Wg → Wg) : (s.modWg g f).invLow = s.invLow := rfl
@[simp] theorem modWg_bar (s : State) (g : Nat) (f : Wg → Wg) : (s.modWg g f).bar = s.bar := rfl
@[simp] theorem modWg_evseq (s : State) (g : Nat) (f : Wg → Wg) : (s.modWg g f).evseq = s.evseq := rfl
@[simp] theorem modWg_hostRead (s : State) (g : Nat) (f : Wg → Wg) : (s.modWg g f).hostRead = s.hostRead := rfl
@[simp] theorem modWg_ports (s : State) (g : Nat) (f : Wg → Wg) : (s.modWg g f).ports = s.ports := rfl
@[simp] theorem modWg_lost (s : State) (g : Nat) (f : Wg → Wg) : (s.modWg g f).lost = s.lost := rfl
@[simp] theorem modWg_grants (s : State) (g : Nat) (f : Wg → Wg) : (s.modWg g f).grants = s.grants := rfl
@[simp] theorem modWg_pcieRate (s : State) (g : Nat) (f : Wg → Wg) : (s.modWg g f).pcieRate = s.pcieRate := rfl
@[simp] theorem modWg_pcieWidth (s : State) (g : Nat) (f : Wg → Wg) : (s.modWg g f).pcieWidth = s.pcieWidth := rfl

@[simp] theorem modNode_agenda (s : State) (n : Nat) (f : Node → Node) : (s.modNode n f).agenda = s.agenda := rfl
@[simp] theorem modNode_cur (s : State) (n : Nat) (f : Node → Node) : (s.modNode n f).cur = s.cur := rfl
@[simp] theorem modNode_second (s : State) (n : Nat) (f : Node → Node) : (s.modNode n f).second = s.second := rfl
@[simp] theorem modNode_turns (s : State) (n : Nat) (f : Node → Node) : (s.modNode n f).turns = s.turns := rfl
@[simp] theorem modNode_cycle (s : State) (n : Nat) (f : Node → Node) : (s.modNode n f).cycle = s.cycle := rfl
@[simp] theorem modNode_serial (s : State) (n : Nat) (f : Node → Node) : (s.modNode n f).serial = s.serial := rfl
@[simp] theorem modNode_free (s : State) (n : Nat) (f : Node → Node) : (s.modNode n f).free = s.free := rfl
@[simp] theorem modNode_booted (s : State) (n : Nat) (f : Node → Node) : (s.modNode n f).booted = s.booted := rfl
@[simp] theorem modNode_ready (s : State) (n : Nat) (f : Node → Node) : (s.modNode n f).ready = s.ready := rfl
@[simp] theorem modNode_throttled (s : State) (n : Nat) (f : Node → Node) : (s.modNode n f).throttled = s.throttled := rfl
@[simp] theorem modNode_tripped (s : State) (n : Nat) (f : Node → Node) : (s.modNode n f).tripped = s.tripped := rfl
@[simp] theorem modNode_refused (s : State) (n : Nat) (f : Node → Node) : (s.modNode n f).refused = s.refused := rfl
@[simp] theorem modNode_enabled (s : State) (n : Nat) (f : Node → Node) : (s.modNode n f).enabled = s.enabled := rfl
@[simp] theorem modNode_mem (s : State) (n : Nat) (f : Node → Node) : (s.modNode n f).mem = s.mem := rfl
@[simp] theorem modNode_poison (s : State) (n : Nat) (f : Node → Node) : (s.modNode n f).poison = s.poison := rfl
@[simp] theorem modNode_tags (s : State) (n : Nat) (f : Node → Node) : (s.modNode n f).tags = s.tags := rfl
@[simp] theorem modNode_pageSlot (s : State) (n : Nat) (f : Node → Node) : (s.modNode n f).pageSlot = s.pageSlot := rfl
@[simp] theorem modNode_l1 (s : State) (n : Nat) (f : Node → Node) : (s.modNode n f).l1 = s.l1 := rfl
@[simp] theorem modNode_cc (s : State) (n : Nat) (f : Node → Node) : (s.modNode n f).cc = s.cc := rfl
@[simp] theorem modNode_dir (s : State) (n : Nat) (f : Node → Node) : (s.modNode n f).dir = s.dir := rfl
@[simp] theorem modNode_invs (s : State) (n : Nat) (f : Node → Node) : (s.modNode n f).invs = s.invs := rfl
@[simp] theorem modNode_ops (s : State) (n : Nat) (f : Node → Node) : (s.modNode n f).ops = s.ops := rfl
@[simp] theorem modNode_tlb (s : State) (n : Nat) (f : Node → Node) : (s.modNode n f).tlb = s.tlb := rfl
@[simp] theorem modNode_heldMig (s : State) (n : Nat) (f : Node → Node) : (s.modNode n f).heldMig = s.heldMig := rfl
@[simp] theorem modNode_migrating (s : State) (n : Nat) (f : Node → Node) : (s.modNode n f).migrating = s.migrating := rfl
@[simp] theorem modNode_warps (s : State) (n : Nat) (f : Node → Node) : (s.modNode n f).warps = s.warps := rfl
@[simp] theorem modNode_wgs (s : State) (n : Nat) (f : Node → Node) : (s.modNode n f).wgs = s.wgs := rfl
@[simp] theorem modNode_kernels (s : State) (n : Nat) (f : Node → Node) : (s.modNode n f).kernels = s.kernels := rfl
@[simp] theorem modNode_constants (s : State) (n : Nat) (f : Node → Node) : (s.modNode n f).constants = s.constants := rfl
@[simp] theorem modNode_split (s : State) (n : Nat) (f : Node → Node) : (s.modNode n f).split = s.split := rfl
@[simp] theorem modNode_coreStall (s : State) (n : Nat) (f : Node → Node) : (s.modNode n f).coreStall = s.coreStall := rfl
@[simp] theorem modNode_halted (s : State) (n : Nat) (f : Node → Node) : (s.modNode n f).halted = s.halted := rfl
@[simp] theorem modNode_benches (s : State) (n : Nat) (f : Node → Node) : (s.modNode n f).benches = s.benches := rfl
@[simp] theorem modNode_arrays (s : State) (n : Nat) (f : Node → Node) : (s.modNode n f).arrays = s.arrays := rfl
@[simp] theorem modNode_withdrawn (s : State) (n : Nat) (f : Node → Node) : (s.modNode n f).withdrawn = s.withdrawn := rfl
@[simp] theorem modNode_drains (s : State) (n : Nat) (f : Node → Node) : (s.modNode n f).drains = s.drains := rfl
@[simp] theorem modNode_gangClaims (s : State) (n : Nat) (f : Node → Node) : (s.modNode n f).gangClaims = s.gangClaims := rfl
@[simp] theorem modNode_copies (s : State) (n : Nat) (f : Node → Node) : (s.modNode n f).copies = s.copies := rfl
@[simp] theorem modNode_chains (s : State) (n : Nat) (f : Node → Node) : (s.modNode n f).chains = s.chains := rfl
@[simp] theorem modNode_fifo (s : State) (n : Nat) (f : Node → Node) : (s.modNode n f).fifo = s.fifo := rfl
@[simp] theorem modNode_transit (s : State) (n : Nat) (f : Node → Node) : (s.modNode n f).transit = s.transit := rfl
@[simp] theorem modNode_slots (s : State) (n : Nat) (f : Node → Node) : (s.modNode n f).slots = s.slots := rfl
@[simp] theorem modNode_queueWait (s : State) (n : Nat) (f : Node → Node) : (s.modNode n f).queueWait = s.queueWait := rfl
@[simp] theorem modNode_parked (s : State) (n : Nat) (f : Node → Node) : (s.modNode n f).parked = s.parked := rfl
@[simp] theorem modNode_walks (s : State) (n : Nat) (f : Node → Node) : (s.modNode n f).walks = s.walks := rfl
@[simp] theorem modNode_credits (s : State) (n : Nat) (f : Node → Node) : (s.modNode n f).credits = s.credits := rfl
@[simp] theorem modNode_crediting (s : State) (n : Nat) (f : Node → Node) : (s.modNode n f).crediting = s.crediting := rfl
@[simp] theorem modNode_dqueue (s : State) (n : Nat) (f : Node → Node) : (s.modNode n f).dqueue = s.dqueue := rfl
@[simp] theorem modNode_spilled (s : State) (n : Nat) (f : Node → Node) : (s.modNode n f).spilled = s.spilled := rfl
@[simp] theorem modNode_admitted (s : State) (n : Nat) (f : Node → Node) : (s.modNode n f).admitted = s.admitted := rfl
@[simp] theorem modNode_placing (s : State) (n : Nat) (f : Node → Node) : (s.modNode n f).placing = s.placing := rfl
@[simp] theorem modNode_lastCluster (s : State) (n : Nat) (f : Node → Node) : (s.modNode n f).lastCluster = s.lastCluster := rfl
@[simp] theorem modNode_arenas (s : State) (n : Nat) (f : Node → Node) : (s.modNode n f).arenas = s.arenas := rfl
@[simp] theorem modNode_jigCache (s : State) (n : Nat) (f : Node → Node) : (s.modNode n f).jigCache = s.jigCache := rfl
@[simp] theorem modNode_jigJobs (s : State) (n : Nat) (f : Node → Node) : (s.modNode n f).jigJobs = s.jigJobs := rfl
@[simp] theorem modNode_meters (s : State) (n : Nat) (f : Node → Node) : (s.modNode n f).meters = s.meters := rfl
@[simp] theorem modNode_creation (s : State) (n : Nat) (f : Node → Node) : (s.modNode n f).creation = s.creation := rfl
@[simp] theorem modNode_reports (s : State) (n : Nat) (f : Node → Node) : (s.modNode n f).reports = s.reports := rfl
@[simp] theorem modNode_allowedSets (s : State) (n : Nat) (f : Node → Node) : (s.modNode n f).allowedSets = s.allowedSets := rfl
@[simp] theorem modNode_signed (s : State) (n : Nat) (f : Node → Node) : (s.modNode n f).signed = s.signed := rfl
@[simp] theorem modNode_meterCmds (s : State) (n : Nat) (f : Node → Node) : (s.modNode n f).meterCmds = s.meterCmds := rfl
@[simp] theorem modNode_regCmds (s : State) (n : Nat) (f : Node → Node) : (s.modNode n f).regCmds = s.regCmds := rfl
@[simp] theorem modNode_invReqs (s : State) (n : Nat) (f : Node → Node) : (s.modNode n f).invReqs = s.invReqs := rfl
@[simp] theorem modNode_invLow (s : State) (n : Nat) (f : Node → Node) : (s.modNode n f).invLow = s.invLow := rfl
@[simp] theorem modNode_bar (s : State) (n : Nat) (f : Node → Node) : (s.modNode n f).bar = s.bar := rfl
@[simp] theorem modNode_evseq (s : State) (n : Nat) (f : Node → Node) : (s.modNode n f).evseq = s.evseq := rfl
@[simp] theorem modNode_hostRead (s : State) (n : Nat) (f : Node → Node) : (s.modNode n f).hostRead = s.hostRead := rfl
@[simp] theorem modNode_ports (s : State) (n : Nat) (f : Node → Node) : (s.modNode n f).ports = s.ports := rfl
@[simp] theorem modNode_lost (s : State) (n : Nat) (f : Node → Node) : (s.modNode n f).lost = s.lost := rfl
@[simp] theorem modNode_grants (s : State) (n : Nat) (f : Node → Node) : (s.modNode n f).grants = s.grants := rfl
@[simp] theorem modNode_pcieRate (s : State) (n : Nat) (f : Node → Node) : (s.modNode n f).pcieRate = s.pcieRate := rfl
@[simp] theorem modNode_pcieWidth (s : State) (n : Nat) (f : Node → Node) : (s.modNode n f).pcieWidth = s.pcieWidth := rfl

@[simp] theorem setBench_agenda (s : State) (b : Nat) (x : Bench) : (s.setBench b x).agenda = s.agenda := rfl
@[simp] theorem setBench_cur (s : State) (b : Nat) (x : Bench) : (s.setBench b x).cur = s.cur := rfl
@[simp] theorem setBench_second (s : State) (b : Nat) (x : Bench) : (s.setBench b x).second = s.second := rfl
@[simp] theorem setBench_turns (s : State) (b : Nat) (x : Bench) : (s.setBench b x).turns = s.turns := rfl
@[simp] theorem setBench_cycle (s : State) (b : Nat) (x : Bench) : (s.setBench b x).cycle = s.cycle := rfl
@[simp] theorem setBench_serial (s : State) (b : Nat) (x : Bench) : (s.setBench b x).serial = s.serial := rfl
@[simp] theorem setBench_free (s : State) (b : Nat) (x : Bench) : (s.setBench b x).free = s.free := rfl
@[simp] theorem setBench_booted (s : State) (b : Nat) (x : Bench) : (s.setBench b x).booted = s.booted := rfl
@[simp] theorem setBench_ready (s : State) (b : Nat) (x : Bench) : (s.setBench b x).ready = s.ready := rfl
@[simp] theorem setBench_throttled (s : State) (b : Nat) (x : Bench) : (s.setBench b x).throttled = s.throttled := rfl
@[simp] theorem setBench_tripped (s : State) (b : Nat) (x : Bench) : (s.setBench b x).tripped = s.tripped := rfl
@[simp] theorem setBench_refused (s : State) (b : Nat) (x : Bench) : (s.setBench b x).refused = s.refused := rfl
@[simp] theorem setBench_enabled (s : State) (b : Nat) (x : Bench) : (s.setBench b x).enabled = s.enabled := rfl
@[simp] theorem setBench_mem (s : State) (b : Nat) (x : Bench) : (s.setBench b x).mem = s.mem := rfl
@[simp] theorem setBench_poison (s : State) (b : Nat) (x : Bench) : (s.setBench b x).poison = s.poison := rfl
@[simp] theorem setBench_tags (s : State) (b : Nat) (x : Bench) : (s.setBench b x).tags = s.tags := rfl
@[simp] theorem setBench_pageSlot (s : State) (b : Nat) (x : Bench) : (s.setBench b x).pageSlot = s.pageSlot := rfl
@[simp] theorem setBench_l1 (s : State) (b : Nat) (x : Bench) : (s.setBench b x).l1 = s.l1 := rfl
@[simp] theorem setBench_cc (s : State) (b : Nat) (x : Bench) : (s.setBench b x).cc = s.cc := rfl
@[simp] theorem setBench_dir (s : State) (b : Nat) (x : Bench) : (s.setBench b x).dir = s.dir := rfl
@[simp] theorem setBench_invs (s : State) (b : Nat) (x : Bench) : (s.setBench b x).invs = s.invs := rfl
@[simp] theorem setBench_ops (s : State) (b : Nat) (x : Bench) : (s.setBench b x).ops = s.ops := rfl
@[simp] theorem setBench_tlb (s : State) (b : Nat) (x : Bench) : (s.setBench b x).tlb = s.tlb := rfl
@[simp] theorem setBench_heldMig (s : State) (b : Nat) (x : Bench) : (s.setBench b x).heldMig = s.heldMig := rfl
@[simp] theorem setBench_migrating (s : State) (b : Nat) (x : Bench) : (s.setBench b x).migrating = s.migrating := rfl
@[simp] theorem setBench_warps (s : State) (b : Nat) (x : Bench) : (s.setBench b x).warps = s.warps := rfl
@[simp] theorem setBench_wgs (s : State) (b : Nat) (x : Bench) : (s.setBench b x).wgs = s.wgs := rfl
@[simp] theorem setBench_nodes (s : State) (b : Nat) (x : Bench) : (s.setBench b x).nodes = s.nodes := rfl
@[simp] theorem setBench_kernels (s : State) (b : Nat) (x : Bench) : (s.setBench b x).kernels = s.kernels := rfl
@[simp] theorem setBench_constants (s : State) (b : Nat) (x : Bench) : (s.setBench b x).constants = s.constants := rfl
@[simp] theorem setBench_split (s : State) (b : Nat) (x : Bench) : (s.setBench b x).split = s.split := rfl
@[simp] theorem setBench_coreStall (s : State) (b : Nat) (x : Bench) : (s.setBench b x).coreStall = s.coreStall := rfl
@[simp] theorem setBench_halted (s : State) (b : Nat) (x : Bench) : (s.setBench b x).halted = s.halted := rfl
@[simp] theorem setBench_arrays (s : State) (b : Nat) (x : Bench) : (s.setBench b x).arrays = s.arrays := rfl
@[simp] theorem setBench_withdrawn (s : State) (b : Nat) (x : Bench) : (s.setBench b x).withdrawn = s.withdrawn := rfl
@[simp] theorem setBench_drains (s : State) (b : Nat) (x : Bench) : (s.setBench b x).drains = s.drains := rfl
@[simp] theorem setBench_gangClaims (s : State) (b : Nat) (x : Bench) : (s.setBench b x).gangClaims = s.gangClaims := rfl
@[simp] theorem setBench_copies (s : State) (b : Nat) (x : Bench) : (s.setBench b x).copies = s.copies := rfl
@[simp] theorem setBench_chains (s : State) (b : Nat) (x : Bench) : (s.setBench b x).chains = s.chains := rfl
@[simp] theorem setBench_fifo (s : State) (b : Nat) (x : Bench) : (s.setBench b x).fifo = s.fifo := rfl
@[simp] theorem setBench_transit (s : State) (b : Nat) (x : Bench) : (s.setBench b x).transit = s.transit := rfl
@[simp] theorem setBench_slots (s : State) (b : Nat) (x : Bench) : (s.setBench b x).slots = s.slots := rfl
@[simp] theorem setBench_queueWait (s : State) (b : Nat) (x : Bench) : (s.setBench b x).queueWait = s.queueWait := rfl
@[simp] theorem setBench_parked (s : State) (b : Nat) (x : Bench) : (s.setBench b x).parked = s.parked := rfl
@[simp] theorem setBench_walks (s : State) (b : Nat) (x : Bench) : (s.setBench b x).walks = s.walks := rfl
@[simp] theorem setBench_credits (s : State) (b : Nat) (x : Bench) : (s.setBench b x).credits = s.credits := rfl
@[simp] theorem setBench_crediting (s : State) (b : Nat) (x : Bench) : (s.setBench b x).crediting = s.crediting := rfl
@[simp] theorem setBench_dqueue (s : State) (b : Nat) (x : Bench) : (s.setBench b x).dqueue = s.dqueue := rfl
@[simp] theorem setBench_spilled (s : State) (b : Nat) (x : Bench) : (s.setBench b x).spilled = s.spilled := rfl
@[simp] theorem setBench_admitted (s : State) (b : Nat) (x : Bench) : (s.setBench b x).admitted = s.admitted := rfl
@[simp] theorem setBench_placing (s : State) (b : Nat) (x : Bench) : (s.setBench b x).placing = s.placing := rfl
@[simp] theorem setBench_lastCluster (s : State) (b : Nat) (x : Bench) : (s.setBench b x).lastCluster = s.lastCluster := rfl
@[simp] theorem setBench_arenas (s : State) (b : Nat) (x : Bench) : (s.setBench b x).arenas = s.arenas := rfl
@[simp] theorem setBench_jigCache (s : State) (b : Nat) (x : Bench) : (s.setBench b x).jigCache = s.jigCache := rfl
@[simp] theorem setBench_jigJobs (s : State) (b : Nat) (x : Bench) : (s.setBench b x).jigJobs = s.jigJobs := rfl
@[simp] theorem setBench_meters (s : State) (b : Nat) (x : Bench) : (s.setBench b x).meters = s.meters := rfl
@[simp] theorem setBench_creation (s : State) (b : Nat) (x : Bench) : (s.setBench b x).creation = s.creation := rfl
@[simp] theorem setBench_reports (s : State) (b : Nat) (x : Bench) : (s.setBench b x).reports = s.reports := rfl
@[simp] theorem setBench_allowedSets (s : State) (b : Nat) (x : Bench) : (s.setBench b x).allowedSets = s.allowedSets := rfl
@[simp] theorem setBench_signed (s : State) (b : Nat) (x : Bench) : (s.setBench b x).signed = s.signed := rfl
@[simp] theorem setBench_meterCmds (s : State) (b : Nat) (x : Bench) : (s.setBench b x).meterCmds = s.meterCmds := rfl
@[simp] theorem setBench_regCmds (s : State) (b : Nat) (x : Bench) : (s.setBench b x).regCmds = s.regCmds := rfl
@[simp] theorem setBench_invReqs (s : State) (b : Nat) (x : Bench) : (s.setBench b x).invReqs = s.invReqs := rfl
@[simp] theorem setBench_invLow (s : State) (b : Nat) (x : Bench) : (s.setBench b x).invLow = s.invLow := rfl
@[simp] theorem setBench_bar (s : State) (b : Nat) (x : Bench) : (s.setBench b x).bar = s.bar := rfl
@[simp] theorem setBench_evseq (s : State) (b : Nat) (x : Bench) : (s.setBench b x).evseq = s.evseq := rfl
@[simp] theorem setBench_hostRead (s : State) (b : Nat) (x : Bench) : (s.setBench b x).hostRead = s.hostRead := rfl
@[simp] theorem setBench_ports (s : State) (b : Nat) (x : Bench) : (s.setBench b x).ports = s.ports := rfl
@[simp] theorem setBench_lost (s : State) (b : Nat) (x : Bench) : (s.setBench b x).lost = s.lost := rfl
@[simp] theorem setBench_grants (s : State) (b : Nat) (x : Bench) : (s.setBench b x).grants = s.grants := rfl
@[simp] theorem setBench_pcieRate (s : State) (b : Nat) (x : Bench) : (s.setBench b x).pcieRate = s.pcieRate := rfl
@[simp] theorem setBench_pcieWidth (s : State) (b : Nat) (x : Bench) : (s.setBench b x).pcieWidth = s.pcieWidth := rfl

@[simp] theorem setBar_agenda (s : State) (off : Nat) (v : Word) : (s.setReg off v).agenda = s.agenda := rfl
@[simp] theorem setBar_cur (s : State) (off : Nat) (v : Word) : (s.setReg off v).cur = s.cur := rfl
@[simp] theorem setBar_second (s : State) (off : Nat) (v : Word) : (s.setReg off v).second = s.second := rfl
@[simp] theorem setBar_turns (s : State) (off : Nat) (v : Word) : (s.setReg off v).turns = s.turns := rfl
@[simp] theorem setBar_cycle (s : State) (off : Nat) (v : Word) : (s.setReg off v).cycle = s.cycle := rfl
@[simp] theorem setBar_serial (s : State) (off : Nat) (v : Word) : (s.setReg off v).serial = s.serial := rfl
@[simp] theorem setBar_free (s : State) (off : Nat) (v : Word) : (s.setReg off v).free = s.free := rfl
@[simp] theorem setBar_booted (s : State) (off : Nat) (v : Word) : (s.setReg off v).booted = s.booted := rfl
@[simp] theorem setBar_ready (s : State) (off : Nat) (v : Word) : (s.setReg off v).ready = s.ready := rfl
@[simp] theorem setBar_throttled (s : State) (off : Nat) (v : Word) : (s.setReg off v).throttled = s.throttled := rfl
@[simp] theorem setBar_tripped (s : State) (off : Nat) (v : Word) : (s.setReg off v).tripped = s.tripped := rfl
@[simp] theorem setBar_refused (s : State) (off : Nat) (v : Word) : (s.setReg off v).refused = s.refused := rfl
@[simp] theorem setBar_enabled (s : State) (off : Nat) (v : Word) : (s.setReg off v).enabled = s.enabled := rfl
@[simp] theorem setBar_mem (s : State) (off : Nat) (v : Word) : (s.setReg off v).mem = s.mem := rfl
@[simp] theorem setBar_poison (s : State) (off : Nat) (v : Word) : (s.setReg off v).poison = s.poison := rfl
@[simp] theorem setBar_tags (s : State) (off : Nat) (v : Word) : (s.setReg off v).tags = s.tags := rfl
@[simp] theorem setBar_pageSlot (s : State) (off : Nat) (v : Word) : (s.setReg off v).pageSlot = s.pageSlot := rfl
@[simp] theorem setBar_l1 (s : State) (off : Nat) (v : Word) : (s.setReg off v).l1 = s.l1 := rfl
@[simp] theorem setBar_cc (s : State) (off : Nat) (v : Word) : (s.setReg off v).cc = s.cc := rfl
@[simp] theorem setBar_dir (s : State) (off : Nat) (v : Word) : (s.setReg off v).dir = s.dir := rfl
@[simp] theorem setBar_invs (s : State) (off : Nat) (v : Word) : (s.setReg off v).invs = s.invs := rfl
@[simp] theorem setBar_ops (s : State) (off : Nat) (v : Word) : (s.setReg off v).ops = s.ops := rfl
@[simp] theorem setBar_tlb (s : State) (off : Nat) (v : Word) : (s.setReg off v).tlb = s.tlb := rfl
@[simp] theorem setBar_heldMig (s : State) (off : Nat) (v : Word) : (s.setReg off v).heldMig = s.heldMig := rfl
@[simp] theorem setBar_migrating (s : State) (off : Nat) (v : Word) : (s.setReg off v).migrating = s.migrating := rfl
@[simp] theorem setBar_warps (s : State) (off : Nat) (v : Word) : (s.setReg off v).warps = s.warps := rfl
@[simp] theorem setBar_wgs (s : State) (off : Nat) (v : Word) : (s.setReg off v).wgs = s.wgs := rfl
@[simp] theorem setBar_nodes (s : State) (off : Nat) (v : Word) : (s.setReg off v).nodes = s.nodes := rfl
@[simp] theorem setBar_kernels (s : State) (off : Nat) (v : Word) : (s.setReg off v).kernels = s.kernels := rfl
@[simp] theorem setBar_constants (s : State) (off : Nat) (v : Word) : (s.setReg off v).constants = s.constants := rfl
@[simp] theorem setBar_split (s : State) (off : Nat) (v : Word) : (s.setReg off v).split = s.split := rfl
@[simp] theorem setBar_coreStall (s : State) (off : Nat) (v : Word) : (s.setReg off v).coreStall = s.coreStall := rfl
@[simp] theorem setBar_halted (s : State) (off : Nat) (v : Word) : (s.setReg off v).halted = s.halted := rfl
@[simp] theorem setBar_benches (s : State) (off : Nat) (v : Word) : (s.setReg off v).benches = s.benches := rfl
@[simp] theorem setBar_arrays (s : State) (off : Nat) (v : Word) : (s.setReg off v).arrays = s.arrays := rfl
@[simp] theorem setBar_withdrawn (s : State) (off : Nat) (v : Word) : (s.setReg off v).withdrawn = s.withdrawn := rfl
@[simp] theorem setBar_drains (s : State) (off : Nat) (v : Word) : (s.setReg off v).drains = s.drains := rfl
@[simp] theorem setBar_gangClaims (s : State) (off : Nat) (v : Word) : (s.setReg off v).gangClaims = s.gangClaims := rfl
@[simp] theorem setBar_copies (s : State) (off : Nat) (v : Word) : (s.setReg off v).copies = s.copies := rfl
@[simp] theorem setBar_chains (s : State) (off : Nat) (v : Word) : (s.setReg off v).chains = s.chains := rfl
@[simp] theorem setBar_fifo (s : State) (off : Nat) (v : Word) : (s.setReg off v).fifo = s.fifo := rfl
@[simp] theorem setBar_transit (s : State) (off : Nat) (v : Word) : (s.setReg off v).transit = s.transit := rfl
@[simp] theorem setBar_slots (s : State) (off : Nat) (v : Word) : (s.setReg off v).slots = s.slots := rfl
@[simp] theorem setBar_queueWait (s : State) (off : Nat) (v : Word) : (s.setReg off v).queueWait = s.queueWait := rfl
@[simp] theorem setBar_parked (s : State) (off : Nat) (v : Word) : (s.setReg off v).parked = s.parked := rfl
@[simp] theorem setBar_walks (s : State) (off : Nat) (v : Word) : (s.setReg off v).walks = s.walks := rfl
@[simp] theorem setBar_credits (s : State) (off : Nat) (v : Word) : (s.setReg off v).credits = s.credits := rfl
@[simp] theorem setBar_crediting (s : State) (off : Nat) (v : Word) : (s.setReg off v).crediting = s.crediting := rfl
@[simp] theorem setBar_dqueue (s : State) (off : Nat) (v : Word) : (s.setReg off v).dqueue = s.dqueue := rfl
@[simp] theorem setBar_spilled (s : State) (off : Nat) (v : Word) : (s.setReg off v).spilled = s.spilled := rfl
@[simp] theorem setBar_admitted (s : State) (off : Nat) (v : Word) : (s.setReg off v).admitted = s.admitted := rfl
@[simp] theorem setBar_placing (s : State) (off : Nat) (v : Word) : (s.setReg off v).placing = s.placing := rfl
@[simp] theorem setBar_lastCluster (s : State) (off : Nat) (v : Word) : (s.setReg off v).lastCluster = s.lastCluster := rfl
@[simp] theorem setBar_arenas (s : State) (off : Nat) (v : Word) : (s.setReg off v).arenas = s.arenas := rfl
@[simp] theorem setBar_jigCache (s : State) (off : Nat) (v : Word) : (s.setReg off v).jigCache = s.jigCache := rfl
@[simp] theorem setBar_jigJobs (s : State) (off : Nat) (v : Word) : (s.setReg off v).jigJobs = s.jigJobs := rfl
@[simp] theorem setBar_meters (s : State) (off : Nat) (v : Word) : (s.setReg off v).meters = s.meters := rfl
@[simp] theorem setBar_creation (s : State) (off : Nat) (v : Word) : (s.setReg off v).creation = s.creation := rfl
@[simp] theorem setBar_reports (s : State) (off : Nat) (v : Word) : (s.setReg off v).reports = s.reports := rfl
@[simp] theorem setBar_allowedSets (s : State) (off : Nat) (v : Word) : (s.setReg off v).allowedSets = s.allowedSets := rfl
@[simp] theorem setBar_signed (s : State) (off : Nat) (v : Word) : (s.setReg off v).signed = s.signed := rfl
@[simp] theorem setBar_meterCmds (s : State) (off : Nat) (v : Word) : (s.setReg off v).meterCmds = s.meterCmds := rfl
@[simp] theorem setBar_regCmds (s : State) (off : Nat) (v : Word) : (s.setReg off v).regCmds = s.regCmds := rfl
@[simp] theorem setBar_invReqs (s : State) (off : Nat) (v : Word) : (s.setReg off v).invReqs = s.invReqs := rfl
@[simp] theorem setBar_invLow (s : State) (off : Nat) (v : Word) : (s.setReg off v).invLow = s.invLow := rfl
@[simp] theorem setBar_evseq (s : State) (off : Nat) (v : Word) : (s.setReg off v).evseq = s.evseq := rfl
@[simp] theorem setBar_hostRead (s : State) (off : Nat) (v : Word) : (s.setReg off v).hostRead = s.hostRead := rfl
@[simp] theorem setBar_ports (s : State) (off : Nat) (v : Word) : (s.setReg off v).ports = s.ports := rfl
@[simp] theorem setBar_lost (s : State) (off : Nat) (v : Word) : (s.setReg off v).lost = s.lost := rfl
@[simp] theorem setBar_grants (s : State) (off : Nat) (v : Word) : (s.setReg off v).grants = s.grants := rfl
@[simp] theorem setBar_pcieRate (s : State) (off : Nat) (v : Word) : (s.setReg off v).pcieRate = s.pcieRate := rfl
@[simp] theorem setBar_pcieWidth (s : State) (off : Nat) (v : Word) : (s.setReg off v).pcieWidth = s.pcieWidth := rfl

theorem setWarp_reads (s : State) (k j : Nat) (w : Warp) : (s.setWarp k w).warp j = if j = k then some w else s.warp j :=
  mget_mset s.warps k j w

theorem modWarp_reads (s : State) (k j : Nat) (f : Warp → Warp) :
    (s.modWarp k f).warp j = if j = k then (s.warp j).map f else s.warp j := mget_mmod s.warps k j f

@[simp] theorem setWarp_wg (s : State) (k g : Nat) (w : Warp) : (s.setWarp k w).wg g = s.wg g := rfl
@[simp] theorem setWarp_node (s : State) (k n : Nat) (w : Warp) : (s.setWarp k w).node n = s.node n := rfl
@[simp] theorem modWarp_wg (s : State) (k g : Nat) (f : Warp → Warp) : (s.modWarp k f).wg g = s.wg g := rfl
@[simp] theorem modWarp_node (s : State) (k n : Nat) (f : Warp → Warp) : (s.modWarp k f).node n = s.node n := rfl

/-! ### A warp -/

@[simp] theorem modLane_wg (w : Warp) (l : Nat) (f : Lane → Lane) : (w.modLane l f).wg = w.wg := rfl
@[simp] theorem modLane_core (w : Warp) (l : Nat) (f : Lane → Lane) : (w.modLane l f).core = w.core := rfl
@[simp] theorem modLane_slot (w : Warp) (l : Nat) (f : Lane → Lane) : (w.modLane l f).slot = w.slot := rfl
@[simp] theorem modLane_index (w : Warp) (l : Nat) (f : Lane → Lane) : (w.modLane l f).index = w.index := rfl
@[simp] theorem modLane_s (w : Warp) (l : Nat) (f : Lane → Lane) : (w.modLane l f).s = w.s := rfl
@[simp] theorem modLane_t (w : Warp) (l : Nat) (f : Lane → Lane) : (w.modLane l f).t = w.t := rfl
@[simp] theorem modLane_d (w : Warp) (l : Nat) (f : Lane → Lane) : (w.modLane l f).d = w.d := rfl
@[simp] theorem modLane_k1 (w : Warp) (l : Nat) (f : Lane → Lane) : (w.modLane l f).k1 = w.k1 := rfl
@[simp] theorem modLane_k2 (w : Warp) (l : Nat) (f : Lane → Lane) : (w.modLane l f).k2 = w.k2 := rfl
@[simp] theorem modLane_k3 (w : Warp) (l : Nat) (f : Lane → Lane) : (w.modLane l f).k3 = w.k3 := rfl
@[simp] theorem modLane_levels (w : Warp) (l : Nat) (f : Lane → Lane) : (w.modLane l f).levels = w.levels := rfl
@[simp] theorem modLane_claim (w : Warp) (l : Nat) (f : Lane → Lane) : (w.modLane l f).claim = w.claim := rfl
@[simp] theorem modLane_wants (w : Warp) (l : Nat) (f : Lane → Lane) : (w.modLane l f).wants = w.wants := rfl
@[simp] theorem modLane_reclaim (w : Warp) (l : Nat) (f : Lane → Lane) : (w.modLane l f).reclaim = w.reclaim := rfl
@[simp] theorem modLane_latch (w : Warp) (l : Nat) (f : Lane → Lane) : (w.modLane l f).latch = w.latch := rfl
@[simp] theorem modLane_flags (w : Warp) (l : Nat) (f : Lane → Lane) : (w.modLane l f).flags = w.flags := rfl
@[simp] theorem modLane_amax (w : Warp) (l : Nat) (f : Lane → Lane) : (w.modLane l f).amax = w.amax := rfl
@[simp] theorem modLane_amaxnan (w : Warp) (l : Nat) (f : Lane → Lane) : (w.modLane l f).amaxnan = w.amaxnan := rfl
@[simp] theorem modLane_ackseq (w : Warp) (l : Nat) (f : Lane → Lane) : (w.modLane l f).ackseq = w.ackseq := rfl
@[simp] theorem modLane_msgdst (w : Warp) (l : Nat) (f : Lane → Lane) : (w.modLane l f).msgdst = w.msgdst := rfl
@[simp] theorem modLane_privlim (w : Warp) (l : Nat) (f : Lane → Lane) : (w.modLane l f).privlim = w.privlim := rfl
@[simp] theorem modLane_handler (w : Warp) (l : Nat) (f : Lane → Lane) : (w.modLane l f).handler = w.handler := rfl
@[simp] theorem modLane_stall (w : Warp) (l : Nat) (f : Lane → Lane) : (w.modLane l f).stall = w.stall := rfl
@[simp] theorem modLane_record (w : Warp) (l : Nat) (f : Lane → Lane) : (w.modLane l f).record = w.record := rfl
@[simp] theorem modLane_prior (w : Warp) (l : Nat) (f : Lane → Lane) : (w.modLane l f).prior = w.prior := rfl
@[simp] theorem modLane_frame (w : Warp) (l : Nat) (f : Lane → Lane) : (w.modLane l f).frame = w.frame := rfl
@[simp] theorem modLane_held (w : Warp) (l : Nat) (f : Lane → Lane) : (w.modLane l f).held = w.held := rfl
@[simp] theorem modLane_wait (w : Warp) (l : Nat) (f : Lane → Lane) : (w.modLane l f).wait = w.wait := rfl
@[simp] theorem modLane_bump (w : Warp) (l : Nat) (f : Lane → Lane) : (w.modLane l f).bump = w.bump := rfl
@[simp] theorem modLane_away (w : Warp) (l : Nat) (f : Lane → Lane) : (w.modLane l f).away = w.away := rfl
@[simp] theorem modLane_jig (w : Warp) (l : Nat) (f : Lane → Lane) : (w.modLane l f).jig = w.jig := rfl
@[simp] theorem modLane_ended (w : Warp) (l : Nat) (f : Lane → Lane) : (w.modLane l f).ended = w.ended := rfl

@[simp] theorem setS_wg (w : Warp) (d : Nat) (v : RVal) : (w.setS d v).wg = w.wg := rfl
@[simp] theorem setS_core (w : Warp) (d : Nat) (v : RVal) : (w.setS d v).core = w.core := rfl
@[simp] theorem setS_slot (w : Warp) (d : Nat) (v : RVal) : (w.setS d v).slot = w.slot := rfl
@[simp] theorem setS_index (w : Warp) (d : Nat) (v : RVal) : (w.setS d v).index = w.index := rfl
@[simp] theorem setS_lanes (w : Warp) (d : Nat) (v : RVal) : (w.setS d v).lanes = w.lanes := rfl
@[simp] theorem setS_t (w : Warp) (d : Nat) (v : RVal) : (w.setS d v).t = w.t := rfl
@[simp] theorem setS_d (w : Warp) (d : Nat) (v : RVal) : (w.setS d v).d = w.d := rfl
@[simp] theorem setS_k1 (w : Warp) (d : Nat) (v : RVal) : (w.setS d v).k1 = w.k1 := rfl
@[simp] theorem setS_k2 (w : Warp) (d : Nat) (v : RVal) : (w.setS d v).k2 = w.k2 := rfl
@[simp] theorem setS_k3 (w : Warp) (d : Nat) (v : RVal) : (w.setS d v).k3 = w.k3 := rfl
@[simp] theorem setS_levels (w : Warp) (d : Nat) (v : RVal) : (w.setS d v).levels = w.levels := rfl
@[simp] theorem setS_claim (w : Warp) (d : Nat) (v : RVal) : (w.setS d v).claim = w.claim := rfl
@[simp] theorem setS_wants (w : Warp) (d : Nat) (v : RVal) : (w.setS d v).wants = w.wants := rfl
@[simp] theorem setS_reclaim (w : Warp) (d : Nat) (v : RVal) : (w.setS d v).reclaim = w.reclaim := rfl
@[simp] theorem setS_latch (w : Warp) (d : Nat) (v : RVal) : (w.setS d v).latch = w.latch := rfl
@[simp] theorem setS_flags (w : Warp) (d : Nat) (v : RVal) : (w.setS d v).flags = w.flags := rfl
@[simp] theorem setS_amax (w : Warp) (d : Nat) (v : RVal) : (w.setS d v).amax = w.amax := rfl
@[simp] theorem setS_amaxnan (w : Warp) (d : Nat) (v : RVal) : (w.setS d v).amaxnan = w.amaxnan := rfl
@[simp] theorem setS_ackseq (w : Warp) (d : Nat) (v : RVal) : (w.setS d v).ackseq = w.ackseq := rfl
@[simp] theorem setS_msgdst (w : Warp) (d : Nat) (v : RVal) : (w.setS d v).msgdst = w.msgdst := rfl
@[simp] theorem setS_privlim (w : Warp) (d : Nat) (v : RVal) : (w.setS d v).privlim = w.privlim := rfl
@[simp] theorem setS_handler (w : Warp) (d : Nat) (v : RVal) : (w.setS d v).handler = w.handler := rfl
@[simp] theorem setS_stall (w : Warp) (d : Nat) (v : RVal) : (w.setS d v).stall = w.stall := rfl
@[simp] theorem setS_record (w : Warp) (d : Nat) (v : RVal) : (w.setS d v).record = w.record := rfl
@[simp] theorem setS_prior (w : Warp) (d : Nat) (v : RVal) : (w.setS d v).prior = w.prior := rfl
@[simp] theorem setS_frame (w : Warp) (d : Nat) (v : RVal) : (w.setS d v).frame = w.frame := rfl
@[simp] theorem setS_held (w : Warp) (d : Nat) (v : RVal) : (w.setS d v).held = w.held := rfl
@[simp] theorem setS_wait (w : Warp) (d : Nat) (v : RVal) : (w.setS d v).wait = w.wait := rfl
@[simp] theorem setS_bump (w : Warp) (d : Nat) (v : RVal) : (w.setS d v).bump = w.bump := rfl
@[simp] theorem setS_away (w : Warp) (d : Nat) (v : RVal) : (w.setS d v).away = w.away := rfl
@[simp] theorem setS_jig (w : Warp) (d : Nat) (v : RVal) : (w.setS d v).jig = w.jig := rfl
@[simp] theorem setS_ended (w : Warp) (d : Nat) (v : RVal) : (w.setS d v).ended = w.ended := rfl

theorem setS_reads (w : Warp) (d j : Nat) (v : RVal) : mgetD (w.setS d v).s j {} = if j = d then v else mgetD w.s j {} :=
  mgetD_mput ({} : RVal) w.s d j v

@[simp] theorem modLane_length (w : Warp) (l : Nat) (f : Lane → Lane) : (w.modLane l f).lanes.length = w.lanes.length :=
  setAt_length w.lanes l f

/-! ### A lane -/

@[simp] theorem setReg_tid (x : Lane) (n : Nat) (v : RVal) : (x.setReg n v).tid = x.tid := rfl
@[simp] theorem setReg_live (x : Lane) (n : Nat) (v : RVal) : (x.setReg n v).live = x.live := rfl
@[simp] theorem setReg_pc (x : Lane) (n : Nat) (v : RVal) : (x.setReg n v).pc = x.pc := rfl
@[simp] theorem setReg_rpc (x : Lane) (n : Nat) (v : RVal) : (x.setReg n v).rpc = x.rpc := rfl
@[simp] theorem setReg_queue (x : Lane) (n : Nat) (v : RVal) : (x.setReg n v).queue = x.queue := rfl
@[simp] theorem setReg_guards (x : Lane) (n : Nat) (v : RVal) : (x.setReg n v).guards = x.guards := rfl
@[simp] theorem setReg_park (x : Lane) (n : Nat) (v : RVal) : (x.setReg n v).park = x.park := rfl
@[simp] theorem setReg_hint (x : Lane) (n : Nat) (v : RVal) : (x.setReg n v).hint = x.hint := rfl
@[simp] theorem setReg_age (x : Lane) (n : Nat) (v : RVal) : (x.setReg n v).age = x.age := rfl
@[simp] theorem setReg_yield (x : Lane) (n : Nat) (v : RVal) : (x.setReg n v).yield = x.yield := rfl
@[simp] theorem setReg_blocked (x : Lane) (n : Nat) (v : RVal) : (x.setReg n v).blocked = x.blocked := rfl

@[simp] theorem pushQ_tid (x : Lane) (v : RVal) : (x.pushQ v).tid = x.tid := rfl
@[simp] theorem pushQ_live (x : Lane) (v : RVal) : (x.pushQ v).live = x.live := rfl
@[simp] theorem pushQ_pc (x : Lane) (v : RVal) : (x.pushQ v).pc = x.pc := rfl
@[simp] theorem pushQ_rpc (x : Lane) (v : RVal) : (x.pushQ v).rpc = x.rpc := rfl
@[simp] theorem pushQ_regs (x : Lane) (v : RVal) : (x.pushQ v).regs = x.regs := rfl
@[simp] theorem pushQ_guards (x : Lane) (v : RVal) : (x.pushQ v).guards = x.guards := rfl
@[simp] theorem pushQ_park (x : Lane) (v : RVal) : (x.pushQ v).park = x.park := rfl
@[simp] theorem pushQ_hint (x : Lane) (v : RVal) : (x.pushQ v).hint = x.hint := rfl
@[simp] theorem pushQ_age (x : Lane) (v : RVal) : (x.pushQ v).age = x.age := rfl
@[simp] theorem pushQ_yield (x : Lane) (v : RVal) : (x.pushQ v).yield = x.yield := rfl
@[simp] theorem pushQ_blocked (x : Lane) (v : RVal) : (x.pushQ v).blocked = x.blocked := rfl

@[simp] theorem setGuard_tid (x : Lane) (k : BitVec 3) (b : Bool) : (x.setGuard k b).tid = x.tid := rfl
@[simp] theorem setGuard_live (x : Lane) (k : BitVec 3) (b : Bool) : (x.setGuard k b).live = x.live := rfl
@[simp] theorem setGuard_pc (x : Lane) (k : BitVec 3) (b : Bool) : (x.setGuard k b).pc = x.pc := rfl
@[simp] theorem setGuard_rpc (x : Lane) (k : BitVec 3) (b : Bool) : (x.setGuard k b).rpc = x.rpc := rfl
@[simp] theorem setGuard_regs (x : Lane) (k : BitVec 3) (b : Bool) : (x.setGuard k b).regs = x.regs := rfl
@[simp] theorem setGuard_queue (x : Lane) (k : BitVec 3) (b : Bool) : (x.setGuard k b).queue = x.queue := rfl
@[simp] theorem setGuard_park (x : Lane) (k : BitVec 3) (b : Bool) : (x.setGuard k b).park = x.park := rfl
@[simp] theorem setGuard_hint (x : Lane) (k : BitVec 3) (b : Bool) : (x.setGuard k b).hint = x.hint := rfl
@[simp] theorem setGuard_age (x : Lane) (k : BitVec 3) (b : Bool) : (x.setGuard k b).age = x.age := rfl
@[simp] theorem setGuard_yield (x : Lane) (k : BitVec 3) (b : Bool) : (x.setGuard k b).yield = x.yield := rfl
@[simp] theorem setGuard_blocked (x : Lane) (k : BitVec 3) (b : Bool) : (x.setGuard k b).blocked = x.blocked := rfl

theorem setReg_reads (x : Lane) (n j : Nat) (v : RVal) : mgetD (x.setReg n v).regs j {} = if j = n then v else mgetD x.regs j {} :=
  mgetD_mput ({} : RVal) x.regs n j v

/-- The queue after a push: the new value, then the first fifteen it held (R21). -/
@[simp] theorem pushQ_queue (x : Lane) (v : RVal) : (x.pushQ v).queue = v :: x.queue.take 15 := rfl

end Sys2Proof.Laws
end

