-- ==== Sys2Proof/Tests/Slice0.lean ====
section
/-! SUPPORT. The package's own tests: words written out from the encodings of the spec, ill-formed terms that the check refuses, single
steps with values worked out by hand from the rules, and for each statement with hypotheses a state and operands that meet them. -/

namespace Sys2Proof.Tests

set_option Elab.async false

open Sys2Proof Sys2Proof.Machine Sys2Proof.Safety

/-! ### Words

Each word is written out from the encoding tables of the spec (MAJ, function and field positions of R35 to R42), with fields of many
different values. -/

/-- Every word decodes to the instruction beside it. -/
def readsAll (l : List (Nat × Instr)) : Bool := l.all (fun e => decodeTableWord 32 e.1 == some e.2)

theorem test_words_00 : readsAll
    [(0x06B2B320, (.add 43 21 76 1)),
     (0x06B2B321, (.sub 43 21 76 1)),
     (0x06B2B322, (.mul 43 21 76 1)),
     (0x06B2B323, (.mulhu 43 21 76 1)),
     (0x06B2B324, (.min 43 21 76 1)),
     (0x06B2B325, (.max 43 21 76 1)),
     (0x06B2B326, (.minu 43 21 76 1)),
     (0x06B2B327, (.maxu 43 21 76 1)),
     (0x06B2B328, (.divu 43 21 76 1)),
     (0x06B2B329, (.remu 43 21 76 1)),
     (0x0AB2B320, (.and 43 21 76 1)),
     (0x0AB2B321, (.or 43 21 76 1)),
     (0x0AB2B322, (.xor 43 21 76 1)),
     (0x0AB2B323, (.andn 43 21 76 1)),
     (0x0AB2B324, (.shl 43 21 76 1)),
     (0x0AB2B325, (.shr 43 21 76 1))] = true := by decide +kernel

theorem test_words_01 : readsAll
    [(0x0AB2B326, (.sar 43 21 76 1)),
     (0x0AB2BC27, (.popc 43 21 1)),
     (0x0AB2BC28, (.clz 43 21 1)),
     (0x0AB2BC29, (.ctz 43 21 1)),
     (0x0AB2B32A, (.bfx 43 21 76 1)),
     (0x0EB2B300, (.ceq 43 21 76)),
     (0x0EB2B301, (.clt 43 21 76)),
     (0x0EB2B302, (.cltu 43 21 76)),
     (0x0C32B308, (.geq 3 21 76)),
     (0x0C32B309, (.gne 3 21 76)),
     (0x0C32B30A, (.glt 3 21 76)),
     (0x0C32B30B, (.gle 3 21 76)),
     (0x0C32B30C, (.gltu 3 21 76)),
     (0x0C32B30D, (.gleu 3 21 76)),
     (0x0C30A110, (.gand 3 5 4)),
     (0x0C30A111, (.gor 3 5 4))] = true := by decide +kernel

theorem test_words_02 : readsAll
    [(0x0C30BC12, (.gnot 3 5)),
     (0x12B2B30C, (.madW 43 21 76 3)),
     (0x12B2B30D, (.madD 43 21 76 3)),
     (0x12B2B30E, (.shadd 43 21 76 3)),
     (0x12B2B30F, (.bfi 43 21 76 3)),
     (0x16B2A04C, (.addi 43 21 76)),
     (0x16B2A44C, (.andi 43 21 76)),
     (0x16B2A84C, (.ori 43 21 76)),
     (0x16B2AC4C, (.xori 43 21 76)),
     (0x16B2B04C, (.shli 43 21 76)),
     (0x16B2B44C, (.shri 43 21 76)),
     (0x16B2B84C, (.sari 43 21 76)),
     (0x1AB2A04C, (.ceqi 43 21 76)),
     (0x1AB2A44C, (.clti 43 21 76)),
     (0x1832A84C, (.geqi 3 21 76)),
     (0x1832AC4C, (.gnei 3 21 76))] = true := by decide +kernel

theorem test_words_03 : readsAll
    [(0x1832B04C, (.glti 3 21 76)),
     (0x1EB2B318, (.sel 43 21 76 3)),
     (0x1EB2B319, (.seln 43 21 76 3)),
     (0x22B2B300, (.fadd 43 21 76)),
     (0x22B2B301, (.fsub 43 21 76)),
     (0x22B2B302, (.fmul 43 21 76)),
     (0x22B2B303, (.fmin 43 21 76)),
     (0x22B2B304, (.fmax 43 21 76)),
     (0x22B2BC05, (.fabs 43 21)),
     (0x22B2BC06, (.fneg 43 21)),
     (0x22B2BC07, (.frint 43 21)),
     (0x26B2B30C, (.fma 43 21 76 3)),
     (0x26B2B30D, (.fms 43 21 76 3)),
     (0x26B2B30E, (.fnma 43 21 76 3)),
     (0x26B2B30F, (.dfma 43 21 76 3)),
     (0x2AB2B300, (.hadd2 43 21 76))] = true := by decide +kernel

theorem test_words_04 : readsAll
    [(0x2AB2B301, (.hmul2 43 21 76)),
     (0x2AB2B302, (.hmin2 43 21 76)),
     (0x2AB2B303, (.hmax2 43 21 76)),
     (0x2EB2B30C, (.hfma2 43 21 76 3)),
     (0x2EB2B30D, (.dot4 43 21 76 3)),
     (0x32B2B300, (.dadd 43 21 76)),
     (0x32B2B301, (.dsub 43 21 76)),
     (0x32B2B302, (.dmul 43 21 76)),
     (0x32B2B303, (.dmin 43 21 76)),
     (0x32B2B304, (.dmax 43 21 76)),
     (0x36B2BC00, (.cvtF32S32 43 21)),
     (0x36B2BC01, (.cvtS32F32 43 21)),
     (0x36B2BC02, (.cvtU32F32 43 21)),
     (0x36B2BC03, (.cvtF64F32 43 21)),
     (0x36B2BC04, (.cvtF32F64 43 21)),
     (0x36B2BC05, (.cvtF64S64 43 21))] = true := by decide +kernel

theorem test_words_05 : readsAll
    [(0x36B2BC06, (.cvtS64F64 43 21)),
     (0x36B2BC07, (.cvtBf16F32 43 21)),
     (0x36B2BC08, (.cvtF32Bf16 43 21)),
     (0x36B2BC09, (.cvtF16F32 43 21)),
     (0x36B2BC0A, (.cvtF32F16 43 21)),
     (0x36B2B30B, (.pack2 43 21 76)),
     (0x3AB2B300, (.fclt 43 21 76)),
     (0x3AB2B301, (.fcle 43 21 76)),
     (0x3AB2B302, (.fceq 43 21 76)),
     (0x3832B308, (.fglt 3 21 76)),
     (0x3832B309, (.fgle 3 21 76)),
     (0x3832B30A, (.fgeq 3 21 76)),
     (0x3832B30B, (.fgne 3 21 76)),
     (0x3832B30C, (.fgun 3 21 76)),
     (0x3832B310, (.dglt 3 21 76)),
     (0x3EB2BC20, (.ex2 43 21 1))] = true := by decide +kernel

theorem test_words_06 : readsAll
    [(0x3EB2BC21, (.lg2 43 21 1)),
     (0x3EB2BC22, (.rcp 43 21 1)),
     (0x3EB2BC23, (.rsq 43 21 1)),
     (0x3EB2BC24, (.sqrt 43 21 1)),
     (0x3EB2BC25, (.sinpi 43 21 1)),
     (0x3EB2BC26, (.cospi 43 21 1)),
     (0x3EB2BC27, (.tanh 43 21 1)),
     (0x3EB2BC28, (.sigm 43 21 1)),
     (0x3EB2BC29, (.gelu 43 21 1)),
     (0x42B2BC00, (.qse3 43 21)),
     (0x42B2BC01, (.qse5 43 21)),
     (0x42B2BC02, (.qse8 43 21)),
     (0x42B2BC03, (.dqse3 43 21)),
     (0x42B2BC04, (.dqse5 43 21)),
     (0x42B2BC05, (.dqse8 43 21)),
     (0x47598CC0, (.uadd 1 21 76 51))] = true := by decide +kernel

theorem test_words_07 : readsAll
    [(0x47598CC1, (.usub 1 21 76 51)),
     (0x47598CC2, (.umul 1 21 76 51)),
     (0x47598CC3, (.umin 1 21 76 51)),
     (0x47598CC4, (.umax 1 21 76 51)),
     (0x47598CC5, (.uand 1 21 76 51)),
     (0x47598CC6, (.uor 1 21 76 51)),
     (0x47598CC7, (.ushl 1 21 76 51)),
     (0x47598CC8, (.ushr 1 21 76 51)),
     (0x47598CC9, (.uceq 1 21 76 51)),
     (0x47598CCA, (.uclt 1 21 76 51)),
     (0x47598CCB, (.ucltu 1 21 76 51)),
     (0x47598CCC, (.udivu 1 21 76 51)),
     (0x4B598033, (.uaddi 1 21 76 51)),
     (0x4B598433, (.uandi 1 21 76 51)),
     (0x4B598833, (.ushli 1 21 76 51)),
     (0x4B598C33, (.ushri 1 21 76 51))] = true := by decide +kernel

theorem test_words_08 : readsAll
    [(0x4B599033, (.uceqi 1 21 76 51)),
     (0x4B599433, (.uclti 1 21 76 51)),
     (0x4F598033, (.ulda 1 21 76 51)),
     (0x4F598433, (.uldk 1 21 76 51)),
     (0x4CB2A84C, (.uld 11 21 76)),
     (0x50B2B300, (.ureadl 11 21 76)),
     (0x50B2BC01, (.ufirst 11 21)),
     (0x6159566A, (.ld 43 21 0 6 3 1 2)),
     (0x65595471, (.st 43 21 0 4 3 2 1)),
     (0x6AB2B06F, (.atomAdd 43 21 1 3 1 7)),
     (0x6AB2B16F, (.atomMin 43 21 1 3 1 7)),
     (0x6AB2B26F, (.atomMax 43 21 1 3 1 7)),
     (0x6AB2B36F, (.atomAnd 43 21 1 3 1 7)),
     (0x6AB2B46F, (.atomOr 43 21 1 3 1 7)),
     (0x6AB2B56F, (.atomXor 43 21 1 3 1 7)),
     (0x6AB2B66F, (.atomExch 43 21 1 3 1 7))] = true := by decide +kernel

theorem test_words_09 : readsAll
    [(0x6AB2B76F, (.atomCas 43 21 1 3 1 7)),
     (0x6AB2B86F, (.atomFadd 43 21 1 3 1 7)),
     (0x6EB2B077, (.redAdd 43 21 1 3 2 7)),
     (0x6EB2B177, (.redMax 43 21 1 3 2 7)),
     (0x6EB2B277, (.redFadd 43 21 1 3 2 7)),
     (0x6EB2A376, (.redFadd2 43 21 3 2 6)),
     (0x70383800, (.fence 3 2)),
     (0x7055B800, (.fenceR 43 3 2)),
     (0x7095B000, (.cwb 43 3)),
     (0x70D5C000, (.cinv 43 4)),
     (0x7115B000, (.pref 43 3)),
     (0x81800015, (.br 3 21)),
     (0x81A00015, (.brn 3 21)),
     (0x81C00015, (.call 3 21)),
     (0x8654004C, (.bruz 1 21 76)),
     (0x8656004C, (.brunz 1 21 76))] = true := by decide +kernel

theorem test_words_10 : readsAll
    [(0x8BF57C00, (.jmpi 43)),
     (0x8BF57C01, (.calli 43)),
     (0x8BFE1C02, .ret),
     (0x8BFE1C03, .land),
     (0x8FF57C00, (.park 43)),
     (0x8FFE1C01, .yield),
     (0x8FFE1C02, .exit),
     (0x93F57C00, (.regroup 43)),
     (0x9032BC01, (.part 3 21)),
     (0x92B03C02, (.gmask 43 1)),
     (0x96B2BC10, (.vall 43 21 1)),
     (0x96B2BC11, (.vany 43 21 1)),
     (0x96B2BC12, (.vbal 43 21 1)),
     (0x96B2B333, (.shfl 43 21 76 3)),
     (0x96B2B334, (.push 43 21 76 3)),
     (0x96B2BC15, (.csum 43 21 1))] = true := by decide +kernel

theorem test_words_11 : readsAll
    [(0x96B2BC16, (.cmax 43 21 1)),
     (0x96B2BC17, (.cfsum 43 21 1)),
     (0x96B2BC18, (.cscan 43 21 1)),
     (0x9AB2B30C, (.compress 43 21 76 3)),
     (0x9AB2B30D, (.expand 43 21 76 3)),
     (0x9AB2B30E, (.slideup 43 21 76 3)),
     (0x9AB2B30F, (.slidedn 43 21 76 3)),
     (0xA32A018F, (.loop 3 21 12 3 1 1)),
     (0xA5A387E0, (.lbrk 3 1)),
     (0xA5A66060, (.lrd 3 1 76 3)),
     (0xA468AFE0, (.lwr 3 21)),
     (0xAAC15980, (.adbase 11 21 76)),
     (0xAAC95980, (.adcoef 11 21 76)),
     (0xAAD15E00, (.adlim 11 21)),
     (0xAAD95E00, (.adstg 11 21)),
     (0xC0000160, (.macq 11))] = true := by decide +kernel

theorem test_words_12 : readsAll
    [(0xC0400000, .mrel),
     (0xC082C000, (.mwl 11)),
     (0xC0EC2C00, (.mms 11 5 1)),
     (0xC12B2B00, (.mrd 43 21 4)),
     (0xC16B2B00, (.mwr 43 21 4)),
     (0xC1AC2980, (.mepi 11 5 12)),
     (0xC1C01800, (.mzero 3)),
     (0xC6C15980, (.thbase 11 21 76)),
     (0xC6C95980, (.thshape 11 21 76)),
     (0xC6D15980, (.thfmt 11 21 76)),
     (0xC6D95E00, (.thmc 11 21)),
     (0xC82EC000, (.cpy 11 5 1 0)),
     (0xC8AEC000, (.cpym 11 5 1 0)),
     (0xC92EC000, (.cpyg 11 5 1 0)),
     (0xCD6B8000, (.chain 11 5 12)),
     (0xD0565400, (.jinit 43 21))] = true := by decide +kernel

theorem test_words_13 : readsAll
    [(0xD1565600, (.jarv 43 21 4)),
     (0xD2565400, (.jexp 43 21)),
     (0xD3565700, (.jwait 43 21 6)),
     (0xD4950C00, (.tlrd 1 21 12)),
     (0xD6956000, (.tlwait 1 21 3)),
     (0xD9700000, (.enq 11 1)),
     (0xE000002B, (.trap 43)),
     (0xE100002B, (.bkpt 43)),
     (0xE2000000, .eret),
     (0xE4AF8015, (.csrr 43 21)),
     (0xE5FD5815, (.csrw 43 21)),
     (0xE6ACA84C, (.csrs 43 21 76)),
     (0xE5FD5831, (.msgs 43)),
     (0xE4AF8032, (.msgr 43)),
     (0xE9654000, (.metr 11 21)),
     (0xFC00002B, (.himm 43))] = true := by decide +kernel

theorem test_words_14 : readsAll
    [(0xFD00003F, (.hsched 3 1 1 1 1)),
     (0xFE0001AB, (.hmod 1 1 2 1 3))] = true := by decide +kernel

/-- How a word is refused. -/
def refuses (w : BitVec 32) : Option DecodeError :=
  match decode w with
  | .error e => some e
  | .ok _ => none

/-- R42, R43: a reserved MAJ (0, 0x15, 0x27, 0x2B, 0x37, 0x3B), a function that is not assigned (IALU FN 31, JMP FN 63), a field
that is not as the format asks (guard destination g0, JMPI with D 0, LD at scope 7, BRN without a guard). -/
theorem test_words_refused :
    [0x00000000#32, 0x54000000#32, 0x9C000000#32, 0xAC000000#32, 0xDC000000#32, 0xEC000000#32].all
        (fun w => refuses w == some .reservedMajor) = true
    ∧ [0x0440A1BF#32, 0x8BF0BC3F#32].all (fun w => refuses w == some .unassignedFunction) = true
    ∧ [0x0C00814A#32, 0x8800BC00#32, 0x60302EE8#32].all (fun w => refuses w == some .badField) = true
    ∧ decodeBytes [0x40, 0x10, 0x48] = .error .truncated := by
  refine ⟨by decide +kernel, by decide +kernel, by decide +kernel, rfl⟩

/-! ### Ill-formed terms -/

/-- One ill-formed term for each check of `fieldsOk`: a guard destination g0; a signed offset with a wide address form, scope 7, an
acquire without a scope, a policy past 3 (LD); a size that stores nothing (ST); scope 7, an order without a scope (atomics, reductions);
a fence without scope or order; CWB, CINV without scope; PREF at scope 1; BRN and PART of register 0; an empty loop body; LRD of field 0;
a copy's scope and completion; JARV and JWAIT at scope 1; TLRD, TLWAIT of context 3; write-only and read-only CSRs; HMOD of nothing,
with a mode past 4, with a policy but no policy bit. -/
theorem test_ill_formed :
    ([.geq 0 4 5, .fgun 0 4 5, .dglt 0 4 5, .gnot 0 1, .glti 0 4 5, .ld 6 0x10 1 6 0 0 0, .ld 6 2 1 6 7 0 0, .ld 6 2 1 6 0 1 0, .ld 6 2 1 6 1 2 0,
      .st 6 4 0 1 0 0 0, .st 6 4 0 3 0 0 0, .st 6 4 0 5 0 0 0, .st 6 4 0 4 0 2 0, .st 6 4 0 4 7 0 0, .atomAdd 6 4 0 7 0 0, .atomCas 6 4 0 0 1 0,
      .redAdd 6 4 0 1 1 0, .redFadd2 6 4 7 0 0] : List Instr).all (fun i => !i.wf) = true
    ∧ ([.fence 0 1, .fence 7 1, .fence 3 0, .fenceR 4 7 1, .cwb 4 0, .cinv 4 7, .pref 4 1, .brn 0 4, .part 0 4, .loop 0 4 0 0 0 0, .lrd 0 0 4 0,
      .cpy 0 2 1 1, .cpym 0 7 1 1, .cpyg 0 3 0 0, .jarv 4 5 1, .jwait 4 5 7, .tlrd 3 4 5, .tlwait 3 4 2, .tlwait 0 4 1, .csrr 6 0x32,
      .csrw 4 0x31, .hmod 0 0 0 0 0, .hmod 1 0 0 0 1, .hmod 1 0 1 0 0, .hmod 0 0 0 1 5] : List Instr).all (fun i => !i.wf) = true := by
  constructor <;> decide +kernel

/-! ### A small state -/

/-- A workgroup of one warp (key 2) with eight live lanes, about to issue, after a change of the warp. -/
def small (f : Warp → Warp) : State :=
  { State.reset with
    nodes := [(0, { status := .placed, grid := 1, wgsize := 8, next := 1,
                    kernel := { codeVa := 0x1000, codeSize := 4096, named := 63 } })],
    wgs := [(1, { node := 0, size := 8, cores := [(0, 65536)] })],
    warps := [(2, f { wg := 1, levels := noLevels,
                      lanes := (List.range 8).map (fun l => { tid := l, live := true, pc := 0x1000#64 }) })],
    cur := { warp := 2, lanes := 0xFF#32 } }

/-- Every lane's register n holds v. -/
def allReg (n v : Nat) (w : Warp) : Warp := w.modLanes (List.range 8) (fun _ x => x.setReg n (clean (BitVec.ofNat 64 v)))
/-- Every lane's queue holds v at its head. -/
def allQueue (v : Nat) (w : Warp) : Warp := w.modLanes (List.range 8) (fun _ x => x.pushQ (clean (BitVec.ofNat 64 v)))
/-- Uniform register n holds v. -/
def uni (n v : Nat) (w : Warp) : Warp := w.setS n (clean (BitVec.ofNat 64 v))

/-- The state after an instruction. -/
def then' (i : Instr) (s : State) : Option State :=
  match exec i s with
  | .next t => some t
  | _ => none

/-- The warp after an instruction. -/
def after (i : Instr) (s : State) : Option Warp := (then' i s).bind (fun t => t.warp 2)

/-- What an instruction pushes in lane 7, with a, b in named registers 4, 5 and c at the head of the queue. -/
def pushes (i : Instr) (a b c : Nat) : Option Nat :=
  (after i (small (fun v => allQueue c (allReg 5 b (allReg 4 a v))))).map (fun v => (((v.lane 7).queue.getD 0 {}).bits).toNat)

/-- What an instruction leaves in uniform register 9, with a, b in uniform registers 4, 5. -/
def leaves (i : Instr) (a b : Nat) : Option Nat :=
  (after i (small (fun v => uni 5 b (uni 4 a v)))).map (fun v => (mgetD v.s 9 {}).bits.toNat)

/-- Guard 3 of lane 7 after an instruction, with a, b in named registers 4, 5. -/
def guards (i : Instr) (a b : Nat) : Option Bool :=
  (after i (small (fun v => allReg 5 b (allReg 4 a v)))).map (fun v => (v.lane 7).guards.getLsbD 3)

/-! ### Single steps: values

The expected values are the worked examples of the rules of the arithmetic chapters and hand calculation from them: wraps, signs, full-width
shifts, division by zero, NaNs, signed zeros, saturation. -/

theorem test_ialu : [
    pushes (.add 6 4 5 0) 0xFFFFFFFFFFFFFFFF 2 0 == some 1,
    pushes (.add 6 4 5 1) 0x7FFFFFFF 1 0 == some 0xFFFFFFFF80000000,
    pushes (.sub 6 4 5 0) 3 5 0 == some 0xFFFFFFFFFFFFFFFE,
    pushes (.mul 6 4 5 1) 0x10001 0x10001 0 == some 0x20001,
    pushes (.mulhu 6 4 5 0) 0x8000000000000000 4 0 == some 2,
    pushes (.min 6 4 5 0) 0xFFFFFFFFFFFFFFFF 1 0 == some 0xFFFFFFFFFFFFFFFF,
    pushes (.max 6 4 5 0) 0xFFFFFFFFFFFFFFFF 1 0 == some 1,
    pushes (.minu 6 4 5 1) 0x80000000 5 0 == some 5,
    pushes (.maxu 6 4 5 0) 0xFFFFFFFFFFFFFFFF 1 0 == some 0xFFFFFFFFFFFFFFFF,
    pushes (.divu 6 4 5 1) 7 0x100000000 0 == some 0xFFFFFFFFFFFFFFFF,
    pushes (.remu 6 4 5 0) 7 0 0 == some 7].all id = true := by decide +kernel

theorem test_ilogic : [
    pushes (.and 6 4 5 0) 0xF0F 0x1FF 0 == some 0x10F,
    pushes (.or 6 4 5 0) 0xF00 0xF 0 == some 0xF0F,
    pushes (.xor 6 4 5 0) 0xFF 0xF 0 == some 0xF0,
    pushes (.andn 6 4 5 0) 0xFF 0xF 0 == some 0xF0,
    pushes (.shl 6 4 5 0) 3 0x41 0 == some 6,
    pushes (.shr 6 4 5 0) 0xFFFFFFFFFFFFFFFF 0x3C 0 == some 0xF,
    pushes (.sar 6 4 5 1) 0x80000000 4 0 == some 0xFFFFFFFFF8000000,
    pushes (.popc 6 4 1) 0xFFFFFFFFFFFFFFFF 0 0 == some 0x20,
    pushes (.clz 6 4 0) 0 0 0 == some 0x40,
    pushes (.ctz 6 4 0) 8 0 0 == some 3,
    pushes (.bfx 6 4 5 0) 0x12345678 0xC08 0 == some 0x456].all id = true := by decide +kernel

theorem test_compares : [
    pushes (.ceq 6 4 5) 5 5 0 == some 1,
    pushes (.clt 6 4 5) 0xFFFFFFFFFFFFFFFF 0 0 == some 1,
    pushes (.cltu 6 4 5) 0xFFFFFFFFFFFFFFFF 0 0 == some 0].all id = true := by decide +kernel

theorem test_three_sources : [
    pushes (.madW 6 4 5 0) 3 5 0x7FFFFFFF == some 0xFFFFFFFF8000000E,
    pushes (.madD 6 4 5 0) 0x100000000 0x100000000 7 == some 7,
    pushes (.shadd 6 4 5 0) 5 3 0x1000 == some 0x1028,
    pushes (.bfi 6 4 5 0) 0xABC 0x804 0 == some 0xBC0].all id = true := by decide +kernel

theorem test_immediates : [
    pushes (.addi 6 4 0x3FF) 5 0 0 == some 4,
    pushes (.andi 6 4 0x3FE) 7 0 0 == some 6,
    pushes (.ori 6 4 8) 7 0 0 == some 0xF,
    pushes (.xori 6 4 0x3FF) 0 0 0 == some 0xFFFFFFFFFFFFFFFF,
    pushes (.shli 6 4 0x3F) 3 0 0 == some 0x8000000000000000,
    pushes (.shri 6 4 0x3F) 0xFFFFFFFFFFFFFFFF 0 0 == some 1,
    pushes (.sari 6 4 0x3F) 0x8000000000000000 0 0 == some 0xFFFFFFFFFFFFFFFF,
    pushes (.ceqi 6 4 0x3FF) 0xFFFFFFFFFFFFFFFF 0 0 == some 1,
    pushes (.clti 6 4 0) 0xFFFFFFFFFFFFFFFF 0 0 == some 1].all id = true := by decide +kernel

theorem test_select_dot : [
    pushes (.sel 6 4 5 0) 1 2 0 == some 1,
    pushes (.seln 6 4 5 1) 1 2 0 == some 1,
    pushes (.dot4 6 4 5 0) 0xFF030201 0x2010101 0xA == some 0xE].all id = true := by decide +kernel

theorem test_fp32 : [
    pushes (.fadd 6 4 5) 0x3F800000 0x40000000 0 == some 0x40400000,
    pushes (.fsub 6 4 5) 0x7F800000 0x7F800000 0 == some 0x7FC00000,
    pushes (.fmul 6 4 5) 0x40000000 0x40000000 0 == some 0x40800000,
    pushes (.fmin 6 4 5) 0x80000000 0 0 == some 0x80000000,
    pushes (.fmax 6 4 5) 0x3F800000 0x7F800001 0 == some 0x7FC00000,
    pushes (.fabs 6 4) 0xBF800000 0 0 == some 0x3F800000,
    pushes (.fneg 6 4) 0 0 0 == some 0x80000000,
    pushes (.frint 6 4) 0x40200000 0 0 == some 0x40000000,
    pushes (.fma 6 4 5 0) 0x40000000 0x40400000 0x3F800000 == some 0x40E00000,
    pushes (.fms 6 4 5 0) 0x40000000 0x40400000 0x3F800000 == some 0x40A00000,
    pushes (.fnma 6 4 5 0) 0x40000000 0x40400000 0x3F800000 == some 0xC0A00000].all id = true := by decide +kernel

theorem test_fp64 : [
    pushes (.dfma 6 4 5 0) 0x4000000000000000 0x4008000000000000 0x3FF0000000000000 == some 0x401C000000000000].all id = true := by decide +kernel

theorem test_bf16 : [
    pushes (.hadd2 6 4 5) 0x40003F80 0x3F803F80 0 == some 0x40404000,
    pushes (.hmul2 6 4 5) 0x40003F80 0x40003F80 0 == some 0x40803F80,
    pushes (.hmin2 6 4 5) 0x40003F80 0x3F804000 0 == some 0x3F803F80,
    pushes (.hmax2 6 4 5) 0x40003F80 0x3F804000 0 == some 0x40004000,
    pushes (.hfma2 6 4 5 0) 0x40003F80 0x40003F80 0x3F803F80 == some 0x40A04000].all id = true := by decide +kernel

theorem test_fp64_two : [
    pushes (.dadd 6 4 5) 0x3FF0000000000000 0x4000000000000000 0 == some 0x4008000000000000,
    pushes (.dsub 6 4 5) 0x3FF0000000000000 0x4000000000000000 0 == some 0xBFF0000000000000,
    pushes (.dmul 6 4 5) 0x4000000000000000 0x4000000000000000 0 == some 0x4010000000000000,
    pushes (.dmin 6 4 5) 0x4000000000000000 0x3FF0000000000000 0 == some 0x3FF0000000000000,
    pushes (.dmax 6 4 5) 0x4000000000000000 0x3FF0000000000000 0 == some 0x4000000000000000].all id = true := by decide +kernel

theorem test_conversions : [
    pushes (.cvtF32S32 6 4) 0xFFFFFFFF 0 0 == some 0xBF800000,
    pushes (.cvtS32F32 6 4) 0x4F509F2C 0 0 == some 0x7FFFFFFF,
    pushes (.cvtU32F32 6 4) 0xBF800000 0 0 == some 0,
    pushes (.cvtF64F32 6 4) 0x40000000 0 0 == some 0x4000000000000000,
    pushes (.cvtF32F64 6 4) 0x4000000000000000 0 0 == some 0x40000000,
    pushes (.cvtF64S64 6 4) 0xFFFFFFFFFFFFFFFF 0 0 == some 0xBFF0000000000000,
    pushes (.cvtS64F64 6 4) 0xC000000000000000 0 0 == some 0xFFFFFFFFFFFFFFFE,
    pushes (.cvtBf16F32 6 4) 0x3F808000 0 0 == some 0x3F80,
    pushes (.cvtF32Bf16 6 4) 0x4000 0 0 == some 0x40000000,
    pushes (.cvtF16F32 6 4) 0x40000000 0 0 == some 0x4000,
    pushes (.cvtF32F16 6 4) 0x3C00 0 0 == some 0x3F800000,
    pushes (.pack2 6 4 5) 0x3F800000 0x40000000 0 == some 0x40003F80].all id = true := by decide +kernel

theorem test_fp_compares : [
    pushes (.fclt 6 4 5) 0x3F800000 0x40000000 0 == some 1,
    pushes (.fcle 6 4 5) 0x7FC00000 0x40000000 0 == some 0,
    pushes (.fceq 6 4 5) 0x80000000 0 0 == some 1].all id = true := by decide +kernel

theorem test_special : [
    pushes (.ex2 6 4 0) 0x3F800000 0 0 == some 0x40000000,
    pushes (.lg2 6 4 0) 0xBF800000 0 0 == some 0x7FC00000,
    pushes (.rcp 6 4 1) 0xFF800000 0 0 == some 0x80000000,
    pushes (.sqrt 6 4 0) 0x40800000 0 0 == some 0x40000000,
    pushes (.cospi 6 4 0) 0 0 0 == some 0x3F800000,
    pushes (.dqse8 6 4) 0x7F000000 0 0 == some 0].all id = true := by decide +kernel

theorem test_guard_compares : [
    guards (.geq 3 4 5) 0xFFFFFFFFFFFFFFFF 1 == some false,
    guards (.gne 3 4 5) 0xFFFFFFFFFFFFFFFF 1 == some true,
    guards (.glt 3 4 5) 0xFFFFFFFFFFFFFFFF 1 == some true,
    guards (.gle 3 4 5) 0xFFFFFFFFFFFFFFFF 1 == some true,
    guards (.gltu 3 4 5) 0xFFFFFFFFFFFFFFFF 1 == some false,
    guards (.gleu 3 4 5) 0xFFFFFFFFFFFFFFFF 1 == some false,
    guards (.gor 3 0 1) 0 0 == some true,
    guards (.gand 3 0 1) 0 0 == some false,
    guards (.gnot 3 1) 0 0 == some true,
    guards (.geqi 3 4 0x3FF) 0xFFFFFFFFFFFFFFFF 0 == some true,
    guards (.gnei 3 4 0x3FF) 0xFFFFFFFFFFFFFFFF 0 == some false,
    guards (.glti 3 4 0) 0xFFFFFFFFFFFFFFFF 0 == some true].all id = true := by decide +kernel

theorem test_guard_fp : [
    guards (.fglt 3 4 5) 0x3F800000 0x40000000 == some true,
    guards (.fgne 3 4 5) 0x7FC00000 0x40000000 == some true,
    guards (.fgun 3 4 5) 0x3F800000 0x40000000 == some false,
    guards (.fgeq 3 4 5) 0x80000000 0 == some true,
    guards (.fgle 3 4 5) 0x40000000 0x3F800000 == some false,
    guards (.dglt 3 4 5) 0xBFF0000000000000 0 == some true].all id = true := by decide +kernel

theorem test_ualu : [
    leaves (.uadd 0 9 0x54 0x55) 0xFFFFFFFFFFFFFFFF 2 == some 1,
    leaves (.usub 0 9 0x54 0x55) 3 5 == some 0xFFFFFFFFFFFFFFFE,
    leaves (.umul 0 9 0x54 0x55) 0x100000000 0x100000000 == some 0,
    leaves (.umin 0 9 0x54 0x55) 0xFFFFFFFFFFFFFFFF 1 == some 0xFFFFFFFFFFFFFFFF,
    leaves (.umax 0 9 0x54 0x55) 0xFFFFFFFFFFFFFFFF 1 == some 1,
    leaves (.uand 0 9 0x54 0x55) 0xC 0xA == some 8,
    leaves (.uor 0 9 0x54 0x55) 0xC 0xA == some 0xE,
    leaves (.ushl 0 9 0x54 0x55) 3 0x41 == some 6,
    leaves (.ushr 0 9 0x54 0x55) 0xFFFFFFFFFFFFFFFF 0x3C == some 0xF,
    leaves (.uceq 0 9 0x54 0x55) 4 4 == some 1,
    leaves (.uclt 0 9 0x54 0x55) 0xFFFFFFFFFFFFFFFF 0 == some 1,
    leaves (.ucltu 0 9 0x54 0x55) 0xFFFFFFFFFFFFFFFF 0 == some 0,
    leaves (.udivu 0 9 0x54 0x55) 4 0 == some 0xFFFFFFFFFFFFFFFF].all id = true := by decide +kernel

theorem test_uimm : [
    leaves (.uaddi 0 9 0x54 0x3FF) 5 0 == some 4,
    leaves (.uandi 0 9 0x54 0x3FE) 7 0 == some 6,
    leaves (.ushli 0 9 0x54 0x3F) 3 0 == some 0x8000000000000000,
    leaves (.ushri 0 9 0x54 0x3F) 0xFFFFFFFFFFFFFFFF 0 == some 1,
    leaves (.uceqi 0 9 0x54 0x3FF) 0xFFFFFFFFFFFFFFFF 0 == some 1,
    leaves (.uclti 0 9 0x54 0) 0xFFFFFFFFFFFFFFFF 0 == some 1].all id = true := by decide +kernel

theorem test_ux : [
    leaves (.ufirst 9 0x71) 0 0 == some 0,
    leaves (.ureadl 9 0x71 0x54) 0x105 0 == some 5].all id = true := by decide +kernel

theorem test_collectives : [
    pushes (.vall 6 4 0) 1 0 0 == some 1,
    pushes (.vany 6 4 0) 0 0 0 == some 0,
    pushes (.vbal 6 0x71 0) 0 0 0 == some 0xFE,
    pushes (.shfl 6 0x71 5 0) 0 0x23 0 == some 3,
    pushes (.csum 6 4 0) 2 0 0 == some 0x10,
    pushes (.cmax 6 0x71 0) 0 0 0 == some 7,
    pushes (.cscan 6 4 0) 2 0 0 == some 0x10,
    pushes (.cfsum 6 4 0) 0x3F800000 0 0 == some 0x41000000,
    pushes (.push 6 0x71 5 0) 0 3 0 == some 0].all id = true := by decide +kernel

theorem test_lane_state : [
    pushes (.gmask 6 0) 0 0 0 == some 0xFF,
    pushes (.csrr 6 0x11) 0 0 0 == some 0x1C007].all id = true := by decide +kernel

/-! ### Single steps: control, levels, claims, memory, control registers

The values follow from the rules named, worked out by hand for a set of eight lanes at address 0x1000. -/

/-- The PCs of lane 0 and lane 7 after an instruction, with 1 in s4. -/
def pcs (i : Instr) : Option (Nat × Nat) := (after i (small (uni 4 1))).map (fun v => ((v.lane 0).pc.toNat, (v.lane 7).pc.toNat))

/-- R253, R254: displacements count words from the branch itself, and are signed. -/
theorem test_branches : [pcs (.br 0 4) == some (0x1010, 0x1010), pcs (.br 1 4) == some (0x1004, 0x1004),
    pcs (.brn 1 0x1FFFFF) == some (0xFFC, 0xFFC), pcs (.bruz 0 0x54 6) == some (0x1004, 0x1004),
    pcs (.brunz 0 0x54 6) == some (0x1018, 0x1018),
    (after (.call 0 4) (small id)).map (fun v => (mgetD (v.lane 3).regs 15 {}).bits.toNat) == some 0x1004].all id = true := by decide +kernel

/-- R256 to R258: PARK of %zero watches nothing; YIELD withholds its set for 32 opportunities; the last lane's EXIT ends the workgroup. -/
theorem test_waits : [(after (.park 0x70) (small id)).map (fun v => (v.lane 3).park) == some (.watch none 0 false),
    (after .yield (small id)).map (fun v => ((v.lane 3).yield, v.away)) == some (32, 1),
    (then' .exit (small id)).map (fun t => (t.wg 1).status) == some .ended].all id = true := by decide +kernel

/-- R261, R271: PART sets a group size; LOOP of two iterations over three words enters a level; of none it goes past the body. -/
theorem test_groups_levels : [(after (.part 1 0x54) (small (uni 4 8))).map (fun v => v.k1) == some 8,
    (after (.loop 0 0x54 3 1 0 0) (small (uni 4 2))).map (fun v => ((v.level 0).count, (v.level 0).start, (v.level 0).last, v.depth))
      == some (2#32, 0x1004#56, 0x100C#56, 1),
    (after (.loop 0 0x54 3 1 0 0) (small (uni 4 0))).map (fun v => ((v.lane 3).pc, v.depth)) == some (0x1010#64, 0)].all id = true := by
  decide +kernel

/-- R153, R134: a claim of two banks of one Bench waits, and is granted from the head of its ring. -/
theorem test_claim : ((after (.macq 4) (small (uni 4 0x102))).map (fun v => (v.wants, (v.lane 3).park)) == some (some (2, 1), .claim)
    && (match then' (.macq 4) (small (uni 4 0x102)) with
        | none => false
        | some s => match execMacqGrant 0 s with
          | .next t => (t.warp 2).map (fun v => (v.claim.count, v.claim.banks)) == some (2, [[0, 1]])
          | _ => false)) = true := by decide +kernel

/-- R199, R150: the base of an address descriptor and of a tile handle. -/
theorem test_descriptors : [(after (.adbase 3 0x54 0x70) (small (uni 4 0x1234))).map (fun v => mgetD v.d 3 0) == some 0x1234#256,
    (after (.thbase 3 0x54 0x70) (small (uni 4 0x1230))).map (fun v => mgetD v.t 3 0) == some 0x1230#128].all id = true := by decide +kernel

/-- R32, R48, R222: CSRW, a pending immediate, and a Joint's first phase. -/
theorem test_registers : [(after (.csrw 0x54 0) (small (uni 4 63))).map (fun v => v.flags) == some 63#6,
    (after (.himm 5) (small id)).map (fun v => ((v.lane 3).hint.map (fun h => h.himm))) == some (some [5#24]),
    (then' (.jinit 0x54 0x55) (small (fun w => uni 4 0x200 (uni 5 3 w)))).map (fun t => (t.jointAt (scratchFlat 1 0x200)).expect)
      == some 3].all id = true := by decide +kernel

/-- R40, R185: a 32-bit store to scratch leaves its low four bytes there, and no more. -/
theorem test_store : (then' (.st 5 0x54 0 4 0 0 0) (small (fun w => uni 4 0xFFFD0000000100 (allReg 5 0x1122334455667788 w)))).map
    (fun t => t.num (scratchFlat 1 0x100) 8) = some 0x55667788 := by decide +kernel

/-- R238: a message of each lane, in order; R374, R372: TRAP without a handler ends the workgroup. -/
theorem test_messages_trap : [(then' (.msgs 0x71) (small id)).map (fun t => t.transit.map (fun m => m.value.toNat))
      == some [0, 1, 2, 3, 4, 5, 6, 7],
    (then' (.trap 5) (small id)).map (fun t => (t.wg 1).status) == some .ended].all id = true := by decide +kernel

/-- R391, R393: a congestion event is counted, and a flit's CRC failure is one corrected error of its domain. -/
theorem test_host : [(match execCongestionEvent 9 1 State.reset with
      | .next t => (t.reg 0x2200 == 1#64) && (t.reg 0x2208 == 0x10009#64)
      | _ => false),
    (match execFlitCrcFailure 6 State.reset with
      | .next t => t.reg 0x2130 == 1#64
      | _ => false)].all id = true := by decide +kernel

/-- R71, R72, R263: a lone lane's signalling NaN gives the canonical one and sets NV (bit 0 of FLAGS). -/
theorem test_lone : (after (.cfsum 6 4 0) (small (fun w => allReg 4 0x7F800001 (w.modLanes [1, 2, 3, 4, 5, 6, 7] (fun _ x => { x with live := false }))))).map
    (fun v => (((v.lane 0).queue.getD 0 {}).bits.toNat, v.flags.getLsbD 0)) = some (0x7FC00000, true) := by decide +kernel

/-- R223: a JEXP whose lanes' arrivals would pass EXPECT overruns the Joint: the workgroup, without a handler, ends. -/
theorem test_jexp : (then' (.jexp 0x54 0x55) ((small (fun w => uni 4 0x200 (uni 5 3 w))).setJoint (scratchFlat 1 0x200)
    { bytes := 0, target := 0, arrived := 0, expect := 4, gen := 0, faulted := false })).map (fun t => (t.wg 1).status) = some .ended := by
  decide +kernel
/-! ### Witnesses: for each statement with hypotheses, states and operands that meet them -/

/-- The issue of s executes a word with uses u, and p holds of it. -/
def Witness (s : State) (u : State → Iss → Uses) (p : State → Iss → Bool) : Prop := ∃ j, Executes s j (u s j) ∧ p s j = true

/-- The same as a computation. -/
def executes (s : State) (u : State → Iss → Uses) (p : State → Iss → Bool) : Bool :=
  match s.issue with
  | none => false
  | some j => (j.check s (u s j)).isNone && (j.ready s (u s j)).isNone && p s j

theorem witness_of {s : State} {u : State → Iss → Uses} {p : State → Iss → Bool} (h : executes s u p = true) : Witness s u p := by
  unfold executes at h
  split at h
  · cases h
  · simp only [Bool.and_eq_true, Option.isNone_iff_eq_none] at h
    exact ⟨_, ⟨by assumption, h.1.1, h.1.2⟩, h.2⟩

/-- A state, what a word uses there, and what more is asked. -/
abbrev Case := State × (State → Iss → Uses) × (State → Iss → Bool)

/-- Each of the cases has its witness. -/
def Witnesses (cs : List Case) : Prop := ∀ c ∈ cs, Witness c.1 c.2.1 c.2.2

theorem witnesses_of {cs : List Case} (h : cs.all (fun c => executes c.1 c.2.1 c.2.2) = true) : Witnesses cs :=
  fun c hc => witness_of (List.all_eq_true.1 h c hc)

/-- A set is to issue, p holds of it, and its operands or hints are illegal for a word with uses u. -/
def Refused (s : State) (u : State → Iss → Uses) (p : State → Iss → Bool) : Prop :=
  ∃ j f, s.issue = some j ∧ j.check s (u s j) = some f ∧ p s j = true

theorem refused_of {s : State} {u : State → Iss → Uses} {p : State → Iss → Bool} (h : (match s.issue with
    | none => false
    | some j => (j.check s (u s j)).isSome && p s j) = true) : Refused s u p := by
  split at h
  · cases h
  · simp only [Bool.and_eq_true, Option.isSome_iff_exists] at h
    exact ⟨_, h.1.choose, by assumption, h.1.choose_spec, h.2⟩

/-- The issue of s completes a rendezvous over kj with uses u, and p holds of it. -/
def Met (s : State) (k : Nat) (u : State → Iss → Uses) (p : State → Iss → Iss → Bool) : Prop := ∃ j m, Meets s j m k u ∧ p s j m = true

/-- The whole set of the rendezvous that j completes. -/
def whole (j : Iss) (k : Nat) : Iss :=
  { k := j.k, w := j.parkAt k, lanes := (j.parkAt k).subgroup k (j.lanes.headD 0), led := j.lanes.headD 0, code := j.code,
    hint := ((j.parkAt k).lane (j.lanes.headD 0)).hint }

/-- The set that is to issue meets the rendezvous, operands apart. -/
def gathers (j : Iss) (k : Nat) : Bool :=
  decide (j.lanes ≠ [] ∧ j.w.groupSize k ∈ [4, 8, 16, 32] ∧ (∀ l ∈ j.lanes, l / j.w.groupSize k = j.lanes.headD 0 / j.w.groupSize k)
    ∧ (j.parkAt k).complete j.code (j.lanes.headD 0) = true)

/-- Met as a computation. -/
def meets (s : State) (k : Nat) (u : State → Iss → Uses) (p : State → Iss → Iss → Bool) : Bool :=
  match s.issue with
  | none => false
  | some j => gathers j k && ([j, whole j k].all (fun i => (i.check s (u s i)).isNone) && ((whole j k).ready s (u s (whole j k))).isNone)
      && p s j (whole j k)

theorem met_of {s : State} {k : Nat} {u : State → Iss → Uses} {p : State → Iss → Iss → Bool} (h : meets s k u p = true) : Met s k u p := by
  unfold meets at h
  split at h
  · cases h
  · rename_i j hj
    rw [Bool.and_eq_true, Bool.and_eq_true, gathers, decide_eq_true_eq] at h
    have uses := h.1.2
    simp only [List.all_cons, List.all_nil, Bool.and_true, Bool.and_eq_true, Option.isNone_iff_eq_none] at uses
    have set := h.1.1
    exact ⟨j, whole j k, ⟨hj, set.1, set.2.1, set.2.2.1, uses.1.1, set.2.2.2, rfl, uses.1.2, uses.2⟩, h.2⟩

/-- A state, a group register, what a word uses there, and what more is asked. -/
abbrev Meeting := State × Nat × (State → Iss → Uses) × (State → Iss → Iss → Bool)

/-- Each of the rendezvous is met. -/
def Mets (cs : List Meeting) : Prop := ∀ c ∈ cs, Met c.1 c.2.1 c.2.2.1 c.2.2.2

theorem mets_of {cs : List Meeting} (h : cs.all (fun c => meets c.1 c.2.1 c.2.2.1 c.2.2.2) = true) : Mets cs :=
  fun c hc => met_of (List.all_eq_true.1 h c hc)

/-- What an Option holds. -/
theorem some_of {α : Type} {o : Option α} {p : α → Bool} (h : o.any p = true) : ∃ x, o = some x ∧ p x = true := by
  cases o with
  | none => simp at h
  | some x => exact ⟨x, rfl, by simpa using h⟩

theorem ok_of {α β : Type} [DecidableEq β] {x : Except α β} {y : β}
    (h : (match x with
      | .ok v => decide (v = y)
      | .error _ => false) = true) : x = .ok y := by
  split at h
  · rw [of_decide_eq_true h]
  · cases h

/-- Nothing more is asked. -/
def plain (_ : State) (_ : Iss) : Bool := true
/-- Nothing more is asked of a rendezvous. -/
def plain2 (_ : State) (_ : Iss) (_ : Iss) : Bool := true
/-- A word that reads the uniform register s4. -/
def s4 (_ : State) (_ : Iss) : Uses := { uni := [0x54] }
/-- A word that reads the named register n4. -/
def n4 (_ : State) (_ : Iss) : Uses := { srcs := [4] }
/-- A word without operands. -/
def bare (_ : State) (_ : Iss) : Uses := {}

theorem witness_IntegerArithmetic : Witnesses [(small id, lane2 6 4 0x50, plain), (small id, lane1 63 0x7E, plain)] :=
  witnesses_of (by decide +kernel)

theorem witness_Compares : Witnesses [(small id, laneI 6 4 5, plain),
    (small id, fun s j => { laneI 6 4 63 s j with legal := decide ((j.imm 63).toNat < 64) }, plain),
    (small id, fun _ _ => { srcs := [4], imm := some 0 }, plain), (small id, bare, plain)] :=
  witnesses_of (by decide +kernel)

theorem witness_ThreeSources : Witnesses [(small id, laneQ 6 4 5 15, plain)] := witnesses_of (by decide +kernel)

theorem witness_UniformInstructions : Witnesses [(small id, fun _ _ => { uni := [0x50, 0x6F] }, plain),
    (small id, fun _ j => { uni := [0x50], imm := some 63, legal := decide ((j.imm 63).toNat < 64) }, plain),
    (small (uni 4 7), fun _ _ => { uni := [0x54], also := [5] }, fun s j => j.lanes.elem ((j.uval s 0x54).toNat % 32)
        && (j.readSpec s none 7 5).pend.isNone && !(j.readSpec s none 7 5).poison),
    (small (uni 4 8), fun _ _ => { uni := [0x54], also := [5] }, fun s j => !j.lanes.elem ((j.uval s 0x54).toNat % 32)),
    (small id, fun _ _ => { also := [5] }, fun s j => j.lanes != []
        && (j.readSpec s none (j.lanes.headD 0) 5).pend.isNone && !(j.readSpec s none (j.lanes.headD 0) 5).poison)] :=
  witnesses_of (by decide +kernel)

theorem witness_FloatArithmetic : Witnesses [(small id, fun _ _ => { srcs := [4, 5, 0x40], dst := [6], rm := true, nf := true }, plain)] :=
  witnesses_of (by decide +kernel)

theorem witness_ConversionsAndCompares : Witnesses [(small id, fun _ _ => { srcs := [4], dst := [6], rm := true, nf := true }, plain),
    (small id, fun _ _ => { srcs := [4, 5], nf := true }, plain)] := witnesses_of (by decide +kernel)

theorem witness_SpecialAndBlocks : Witnesses [(small id, fun _ _ => { srcs := [4], dst := [6], nf := true }, plain), (small id, lane1 6 4, plain)] :=
  witnesses_of (by decide +kernel)

theorem witness_NaNsAndFlags : (fval fp32 0x7F800001).isNan = true ∧ (fval bf16 0xFFFF).isNan = true
    ∧ 0x3F800000 ∈ [0x3F800000] ∧ (fval fp32 0x3F800000).isNan = false := by decide +kernel

/-- Reset with a launched workgroup of 32 lanes whose code starts with word w, after a change of its warp. -/
def started (w : Nat) (f : Warp → Warp) : State :=
  ({ State.reset.placeWord w with cur := { warp := 2, lanes := 0xFFFFFFFF#32 } } : State).modWarp 2 f

/-- Every lane's register 4 holds the address of the code. -/
def atCode (w : Warp) : Warp := w.modLanes (List.range 32) (fun _ x => x.setReg 4 (clean (BitVec.ofNat 64 probeVa)))

theorem witness_Transfers : Witnesses [(small id, bare, fun _ j => j.escaping j.lanes (fun _ => j.run + 4) == []),
    (small id, fun _ _ => { uni := [0x50] }, fun _ j => j.escaping [] (fun _ => j.run) == []),
    (started 0x8BFE1C03 atCode, n4, fun s j => j.w.depth == 0
        && j.lanes.all (fun l => (j.val s l 4).toNat % 4 == 0 && (match s.fetchAt j.w (j.val s l 4) j.w.handler with
            | .ok v => v == 0x8BFE1C03#32
            | .error _ => false))),
    (small (allReg 4 2), n4, fun s j => j.lanes.filter (fun l => (j.val s l 4).toNat % 4 != 0) != [])] := witnesses_of (by decide +kernel)

/-- Lane 3 waits as p says. -/
def lane3 (p : Park) (w : Warp) : Warp := w.modLane 3 (fun x => { x with park := p })

/-- The caches of a core and its cluster have room for n lines. -/
def roomy (s : State) (core n : Nat) : Bool :=
  decide ((s.cache true core).length + n ≤ s.l1Lines core) && decide ((s.cache false (core / 16)).length + n ≤ ccLines)

/-- The warp is in one active level, whose body is the words from a to b. -/
def level (a b : Nat) (back exit : Mask) (count : Nat) (w : Warp) : Warp :=
  { w with levels := setAt noLevels 0 (fun _ =>
      { count := BitVec.ofNat 32 count, ostart := BitVec.ofNat 56 a, olast := BitVec.ofNat 56 b, start := BitVec.ofNat 56 a,
        last := BitVec.ofNat 56 b, active := true, sm := 1, back := back, exit := exit }) }

/-- That level from 0x1000 to 0x1020. -/
def looping : Mask → Mask → Nat → Warp → Warp := level 0x1000 0x1020

/-- The lanes 0 to 3 alone are to issue. -/
def four (f : Warp → Warp) : State := { small f with cur := { warp := 2, lanes := 0x0F#32 } }

theorem witness_WaitingAndEnding : Witnesses [
      (small id, n4, fun s j => j.lanes.all (fun l => (j.watchLine s l 4 (j.val s l 4)).all (fun n => !s.locked n)) && roomy s j.w.core 32),
      (started 0 atCode, n4, fun s j => j.lanes.all (fun l => (j.watchLine s l 4 (j.val s l 4)).any (fun n => !s.locked n && isCached (n * 128)
        && !s.isPoison (n * 128) && !s.lostAt (n * 128))) && roomy s j.w.core 32),
      (four id, bare, fun _ j => j.w.depth == 0 && !j.lanes.elem 5 && (j.w.lane 5).live),
      (four (looping 0 0 9), bare, fun _ j => j.w.depth == 1 && !j.lanes.elem 5 && (j.w.lane 5).live),
      (small id, bare, fun _ j => (List.range 32).all (fun l => !(j.w.lane l).live || j.lanes.elem l))]
    ∧ (∃ w, (small (lane3 (.watch none 0 true))).warp 2 = some w ∧ ((w.lane 3).park == .watch none 0 true) = true)
    ∧ (∃ w, ({ small (lane3 (.watch none 5 false)) with cycle := 4101 } : State).warp 2 = some w
        ∧ ((w.lane 3).park == .watch none 5 false && decide (5 + 4096 ≤ 4101 ∧ 4100 < 5 + 4096)) = true) :=
  ⟨witnesses_of (by decide +kernel), some_of (by decide +kernel), some_of (by decide +kernel)⟩

/-- All lanes hold a hint state. -/
def hinted (h : Hint) (w : Warp) : Warp := w.modLanes (List.range 8) (fun _ x => { x with hint := some h })

/-- Every lane stands at an address. -/
def at' (a : Nat) (w : Warp) : Warp := w.modLanes (List.range 8) (fun _ x => { x with pc := BitVec.ofNat 64 a })

/-- The warp is in handler mode, with a frame in which lane 3 stands at an address. -/
def handling (pc : Word) (w : Warp) : Warp :=
  { w with handler := true,
           frame := some { lanes := [(3, { pc := pc, found := pc, place := (pc, none), queue := [], guards := 0, park := .no })], s := [],
                           levels := noLevels } }

/-- How a hint word stands: whether it may be the last of its group's code, and whether a back edge stands there. -/
def hintAt (s : State) (stops atEnd : Bool) : Bool :=
  match s.issue with
  | none => false
  | some j => (!j.w.handler && j.lastWord) == stops
      && (decide (0 < j.w.depth) && j.lanes.any (fun l => j.w.participates (j.w.depth - 1) l) && j.w.atEnd j.code (j.w.depth - 1) j.lead) == atEnd
      && (j.hint.getD { first := 0 }).himm.length < 2 && (j.hint.getD { first := 0 }).hsched.isNone

theorem witness_HintsAndPartitions :
    [hintAt (small id) false false, hintAt (small (looping 0 0 9)) false false, hintAt (small (hinted { first := 0x1000, himm := [5] })) false false,
     hintAt (small (at' 0x1FFC)) true false, hintAt (small (fun w => at' 0x1FFC (handling 0x1000 w))) false false,
     hintAt (small (level 0x1000 0x1000 0 0 9)) false true, hintAt (small (fun w => hinted { first := 0xFFC, himm := [5] } (level 0xFF0 0x1000 0 0 9 w))) false true].all
      id = true
    ∧ (small (hinted { first := 0x1000, himm := [5, 6], hsched := some 1, hmod := some 8 })).issue.any (fun j =>
        j.hint == some { first := 0x1000, himm := [5, 6], hsched := some 1, hmod := some 8 }) = true
    ∧ Witnesses [(small (uni 4 4), s4, fun s j => [4, 8, 16, 32].elem (j.uval s 0x54).toNat),
        (small (uni 4 5), s4, fun s j => !([4, 8, 16, 32].elem (j.uval s 0x54).toNat)), (small id, fun _ _ => { dst := [6] }, plain)] :=
  ⟨by decide +kernel, by decide +kernel, witnesses_of (by decide +kernel)⟩

/-- The use of a rearrangement of operands 4 and 5 by s4. -/
def rearranges (_ : State) (j : Iss) : Uses := { srcs := [4, 5], uni := [0x54], dst := [6], legal := j.himm == [] }

theorem witness_Collectives : Mets [(small id, 0, fun _ _ => { srcs := [4, 5], dst := [6] }, plain2),
    ({ small (fun w => { w with k1 := 4 }) with cur := { warp := 2, lanes := 0xF0#32 } }, 1,
        fun _ _ => { srcs := [4], dst := [6], nf := true }, fun _ _ m => m.lanes == [4, 5, 6, 7]),
    (small (fun w => allReg 4 0x7F800001 (w.modLanes [1, 2, 3, 4, 5, 6, 7] (fun _ x => { x with live := false }))), 0,
        fun _ _ => { srcs := [4], dst := [6], nf := true }, fun s _ m => m.lanes.length == 1 && (fval fp32 (lo32 (m.val s 0 4))).isNan),
    (small (uni 4 32), 0, rearranges, fun s _ m => decide ((m.uval s 0x54).toNat ≤ 32)),
    (small (uni 4 33), 0, rearranges, fun s _ m => decide (32 < (m.uval s 0x54).toNat))] := mets_of (by decide +kernel)
theorem witness_Regrouping :
    Mets [(started 0x8BFE1C03 atCode, 0, n4, fun s j m => m.w.claim.count == 0 && m.w.depth == 0
      && !m.w.handler && s.ops.all (fun o => o.warp != j.k) && m.lanes.all (fun l => (m.val s l 4).toNat % 4 == 0
        && (match s.fetchAt m.w (m.val s l 4) false with
            | .ok v => v == 0x8BFE1C03#32
            | .error _ => false)))]
    ∧ (let p : Pool := { core := 0, opened := 7, warps := [] }
       let at' := fun (c : Nat) => ({ small id with cycle := c, wgs := [(1, { node := 0, size := 8, cores := [(0, 65536)], pools := [p] })] } : State)
       ((at' 263).wg 1).pools.find? (fun q => q.core == 0) = some p ∧ p.opened + 256 ≤ (at' 263).cycle
        ∧ (at' 262).poolFull 1 p = false ∧ (at' 262).cycle < p.opened + 256 ∧ (at' 0).poolFull 1 { p with warps := [2] } = true) :=
  ⟨mets_of (by decide +kernel), by decide +kernel⟩

/-- Two warps of eight lanes have entered a pool that is full, for two targets. -/
def pooled : State :=
  let enters := fun (first : Nat) (w : Warp) =>
    w.modLanes (List.range 8) (fun l x => { x with tid := first + l, park := .pool (if l % 2 == 0 then 0x1000#64 else 0x1010#64) })
  let s := small (enters 0)
  { s with warps := s.warps ++ s.warps.map (fun e => (3, { enters 32 e.2 with index := 1, slot := 1 })), serial := 4,
           wgs := [(1, { node := 0, size := 40, cores := [(0, 65536)], pools := [{ core := 0, opened := 0, warps := [3, 2] }] })] }

theorem witness_FreshWarps : ∃ (p : Pool) (ws : List Warp), (pooled.wg 1).pools.find? (fun q => q.core == 0) = some p ∧ pooled.poolFull 1 p = true
    ∧ ws.Perm (p.warps.filterMap pooled.warp) ∧ ws.Pairwise (fun a b => a.index < b.index) ∧ (∀ w ∈ ws, (pooled.code w).jig = none)
    ∧ ((ws.flatMap (fun w => w.live.map w.lane)).map (fun x => x.tid)) = (List.range 8) ++ (List.range 8).map (fun l => 32 + l) :=
  ⟨{ core := 0, opened := 0, warps := [3, 2] }, [2, 3].filterMap pooled.warp, by decide +kernel, by decide +kernel,
   (List.Perm.swap _ _ []).filterMap _, by decide +kernel, by decide +kernel, by decide +kernel⟩

/-- The levels are four, and the first of them, as many as the depth, are active. -/
def filled (w : Warp) : Bool :=
  w.levels.length == 4 && decide (w.depth ≤ 4) && (List.range 4).all (fun k => (w.level k).active == decide (k < w.depth))

theorem filled_sound {w : Warp} (h : filled w = true) : LevelsFill w := by
  simp only [filled, Bool.and_eq_true, beq_iff_eq, decide_eq_true_eq, List.all_eq_true, List.mem_range] at h
  exact ⟨h.1.1, h.1.2, fun k hk => by rw [h.2 k hk]; simp⟩

/-- LOOP with count s4 meets the premises of its statement, in a warp of this depth. -/
def loops (n depth : Nat) (f : Warp → Warp) : Meeting :=
  (small (fun w => f (uni 4 n w)), 4, fun s i => { uni := [0x54], opOk := (0 : BitVec 1) == 0 || decide (48 ≤ i.named s) },
    fun s _ m => filled m.w && m.code.jig.isNone && m.lanes.all (fun x => (m.w.lane x).rpc.isNone) && m.lead.rpc.isNone
      && m.w.depth == depth && (m.uval s 0x54).toNat == n
      && (depth == 0 || decide ((m.pc + BitVec.ofNat 64 (4 * 3)).toNat ≤ (m.w.level 0).olast.toNat)))

theorem witness_LoopEntryAndExit : Mets [loops 1 0 id, loops (2 ^ 32 - 1) 1 (looping 0 0 9), loops 0 0 id, loops (2 ^ 32) 0 id]
    ∧ Witnesses [(small id, bare, fun _ j => filled j.w && j.code.jig.isNone && decide (j.w.depth ≤ 0)),
      (small (fun w => looping 0 0 9 (w.modLane 3 (fun x => { x with guards := 4 }))), bare, fun _ j =>
        filled j.w && j.code.jig.isNone && decide (0 < j.w.depth)
        && (j.lanes.filter (fun x => (j.w.lane x).guards.getLsbD 2)) == [3]
        && decide (0x1000 ≤ (j.w.lane 3).pc.toNat ∧ (j.w.lane 3).pc.toNat ≤ 0x1020)
        && j.lanes.elem 4 && !(j.w.level 0).exit.getLsbD 4 && !(j.w.level 0).back.getLsbD 4
        && j.lanes.all (fun x => (j.w.lane x).pc != (j.w.level 0).olast.setWidth 64))] :=
  ⟨mets_of (by decide +kernel), witnesses_of (by decide +kernel)⟩

/-- The back edge of the innermost level of warp 2 meets the premises of its statement. -/
def edges (f : Warp → Warp) (p : Level → List Nat → BitVec 8 → Bool) : Bool :=
  match (small f).warp 2 with
  | none => false
  | some w =>
    let v := w.level 0
    let parts := (List.range 32).filter (fun x => (w.lane x).live && !v.exit.getLsbD x)
    let more := decide (v.index.toNat + 1 < v.count.toNat)
    filled w && w.depth == 1 && ((small f).code w).jig.isNone && v.copies == 0 && decide (v.index.toNat < 2 ^ 32) && parts != []
      && p v parts (((v.sm <<< 1) ||| (if more then 1 else 0)) &&& BitVec.ofNat 8 (2 ^ (v.st.toNat + 1) - 1))

theorem witness_LoopRegistersAndBackEdge :
    Witnesses [(small (fun w => looping 0 0 9 (uni 4 7 w)), s4, fun s j => decide (0 < j.w.depth ∧ (j.uval s 0x54).toNat ≤ 7)),
      (small (fun w => looping 0 0 9 (uni 4 (2 ^ 32 - 1) w)), s4, fun s j =>
        decide (0 < j.w.depth ∧ (j.uval s 0x54).toNat < 2 ^ 32) && j.code.jig.isNone && j.w.participates 0 4 && !(j.w.level 0).back.getLsbD 4
        && j.lanes.all (fun x => (j.w.lane x).pc != (j.w.level 0).olast.setWidth 64)),
      (small id, s4, fun _ j => decide (j.w.depth ≤ 0)),
      (small (fun w => looping 0 0 9 (uni 4 8 w)), s4, fun s j => decide (8 ≤ (j.uval s 0x54).toNat)),
      (small (fun w => looping 0 0 9 (uni 4 (2 ^ 32) w)), s4, fun s j => decide (2 ^ 32 ≤ (j.uval s 0x54).toNat))]
    ∧ [edges (looping 0x7F 0 9) (fun v ps _ => ps.any (fun x => !v.back.getLsbD x)),
       edges (looping 0xFF 0 2) (fun v ps m => ps.all (fun x => v.back.getLsbD x) && m != 0),
       edges (looping 0xFF 0 1) (fun v ps m => ps.all (fun x => v.back.getLsbD x) && m == 0)].all id = true :=
  ⟨witnesses_of (by decide +kernel), by decide +kernel⟩

/-! Memory accesses: every lane's register 4 holds a scratch address of the warp's own core (R172). -/

/-- Address 0x100 of the core's own scratch, through its alias. -/
def localAt : Nat := 0xFFFD0000000100

/-- The accesses of a word of n bytes at register 4, in lane order. -/
def accesses (s : State) (j : Iss) (n : Nat) : List (Nat × Word) := j.lanes.map (fun l => (l, (j.laneAddress s false 4 n l).1))

/-- They pass the checks, and nothing holds them. -/
def passes (s : State) (j : Iss) (scope n : Nat) (k : AccKind) (obj : Nat × Nat) (cached : Bool) : Bool :=
  match j.checkAll s scope n k obj (accesses s j n) with
  | .error _ => false
  | .ok rs =>
    let lines := linesOf (rs.flatMap (fun r => r.2.flats))
    rs != [] && !j.mustWait s rs && !s.forcedIn rs && (j.migrating s rs).isNone && !s.heldWrite j.k
      && rs.all (fun r => policyOf (j.policy 0) r.2.vias != 4 && r.2.apart (j.policy 0) == []) && !s.conflict j.k lines
      && roomy (j.touched s scope true rs) j.w.core lines.length
      && rs.all (fun r => r.2.flats.all (fun b => isCached b == cached) && !s.operandBad j.w.core (s.pointOf j.w scope) r.2.flats)

/-- A check of R183 refuses them: the first (an address outside the space), the second (a misaligned one), or a later one. -/
def refusedBy (n : Nat) (k : AccKind) (check : Nat) (s : State) (j : Iss) : Bool :=
  (match j.checkAll s 0 n k (dscObj false 4) (accesses s j n) with
    | .error _ => true
    | .ok _ => false)
  && ((accesses s j n).any (fun e => decide (2 ^ 56 ≤ e.2.toNat)) == (check == 1))
  && ((accesses s j n).any (fun e => decide (e.2.toNat % n ≠ 0)) == (check == 2))

/-- The cases of the checks, for a word with uses u. -/
def refusals (n : Nat) (k : AccKind) (u : State → Iss → Uses) : List Case :=
  [(small (allReg 4 (2 ^ 56)), u, refusedBy n k 1), (small (allReg 4 (localAt + 1)), u, refusedBy n k 2), (small (allReg 4 0x10000), u, refusedBy n k 3)]

/-- A state with n bytes of v put at a flat address. -/
def put (s : State) (a n v : Nat) : State := { s with mem := pokeList s.mem a (bytesLE n v) }

/-- A second page, readable and writable, at device address 0x201000, to which every lane's register 4 points. -/
def atData : State :=
  put (started 0 (fun w => w.modLanes (List.range 32) (fun _ x => x.setReg 4 (clean (BitVec.ofNat 64 (probeVa + 4096)))))) 0x105008 8 0x2010AF

/-- An operation in flight of warp 2. -/
def flight (k : OpKind) (point : Nat) (parts : List Part) : MemOp := { id := 9, warp := 2, core := 0, kind := k, point := point, parts := parts }
/-- The small state with that operation. -/
def flying (o : MemOp) (f : Warp → Warp) : State := { small f with ops := [o] }

/-- What a load of up to 8 bytes, a store of them, and an atomic of register 6 use. -/
def loading (_ : State) (_ : Iss) : Uses := { srcs := [4], dst := [6], cp := true, opOk := true }
/-- A store. -/
def storing (_ : State) (_ : Iss) : Uses := { srcs := [4], also := [5], pair := [], guard := 0, cp := true, opOk := true }
/-- An atomic. -/
def atomics (_ : State) (j : Iss) : Uses := { srcs := [4, 6], guard := 0, legal := j.himm == [], opOk := true }

theorem witness_Loads :
    Witnesses ([(small (allReg 4 localAt), loading, fun s j => passes s j 0 4 .load (dscObj false 4) false),
      (started 0 atCode, fun _ _ => { srcs := [4], dst := [6, 7], cp := true, opOk := true },
        fun s j => passes s j 6 16 .load (dscObj false 4) true)] ++ refusals 4 .load loading)
    ∧ Refused (small id) (fun _ _ => { srcs := [4], dst := [62, 63], cp := true, opOk := false }) plain
    ∧ (let o := flight (.load 7) 0 [{ lane := 3, addrs := (List.range 16).map (fun k => 0x4000 + k), unit := 8 }]
       let s := flying o id
       s.opOf 9 = some o ∧ o.policy ≠ 3 ∧ o.apart = [] ∧ s.opReady o = true ∧ s.pushFirst o (linesOf o.now) = none
        ∧ (∀ l ∈ linesOf o.now, s.locked l = false)
        ∧ roomy s 0 (linesOf o.now).length = true ∧ (s.warp o.warp).isSome = true ∧ (s.wg 1).status ≠ .ended
        ∧ (∃ p ∈ o.parts, (o.phase + 1) * p.unit < p.addrs.length)
        ∧ ∀ p ∈ o.parts, p.addrs.length ≤ (({ o with phase := 1 } : MemOp).phase + 1) * p.unit) :=
  ⟨witnesses_of (by decide +kernel), refused_of (by decide +kernel), by decide +kernel⟩

theorem witness_Stores :
    Witnesses ([(small (allReg 4 localAt), storing,
        fun s j => passes s j 0 4 .store (dscObj false 4) false && j.lanes.all (fun l => (j.readSpec s none l 5).pend.isNone)),
      (atData, storing, fun s j => passes s j 0 8 .store (dscObj false 4) true),
      (small (allReg 4 localAt), fun _ _ => { srcs := [4], also := [6], pair := [7], guard := 0, cp := true, opOk := true },
        fun s j => passes s j 6 16 .store (dscObj false 4) false && j.lanes.all (fun l => (j.readSpec s none l 7).pend.isNone))]
      ++ refusals 4 .store storing)
    ∧ Refused (small id) (fun _ _ => { srcs := [4], also := [7], pair := [8], guard := 0, cp := true, opOk := false }) plain :=
  ⟨witnesses_of (by decide +kernel), refused_of (by decide +kernel)⟩

theorem witness_Atomics :
    Witnesses ([(small (allReg 4 localAt), fun _ j => { srcs := [4, 6, 7], guard := 0, legal := j.himm == [], opOk := true },
        fun s j => passes s j 3 8 (.rmw false) (0, 0) false), (atData, atomics, fun s j => passes s j 6 8 (.rmw true) (0, 0) true)]
      ++ refusals 8 (.rmw false) atomics)
    ∧ Refused (small (hinted { first := 0x1000, himm := [5] })) atomics plain :=
  ⟨witnesses_of (by decide +kernel), refused_of (by decide +kernel)⟩

theorem witness_WritesTakeEffect :
    (let o := flight .store 2 [{ lane := 3, addrs := [0x4000, 0x4001], data := [1, 2] }]
     let s := flying o id
     s.opOf 9 = some o ∧ s.opReady o = true ∧ o.lines = [128] ∧ s.locked 128 = false ∧ s.lostAt (128 * 128) = false
      ∧ s.dirtyBytes true 0 128 = [] ∧ s.dirtyBytes false 0 128 = [] ∧ o.atHome = true ∧ roomy s 0 1 = true
      ∧ o.parts.flatMap (fun p => p.addrs.zip p.data) ≠ [])
    ∧ (let p : Part := { lane := 3, addrs := [0x4000, 0x4001, 0x4002, 0x4003], data := [1, 2, 3, 4] }
       let o := flight (.atom 7 false) 0 [p]
       let s := flying o id
       s.opOf 9 = some o ∧ s.opReady o = true ∧ o.lines = [128] ∧ o.atHome = false ∧ p.addrs.Nodup ∧ roomy s 0 1 = true
        ∧ ∀ b ∈ p.addrs, (s.claimed o.core o.region [128]).poisonAt 0 0 b = false)
    ∧ (let o := { flight (.atom 0 true) 2 [{ lane := 3, addrs := [0x4000], taken := true }] with done := true }
       (flying o id).opOf 9 = some o ∧ ∃ p ∈ o.parts, p.taken = true)
    ∧ (let o := { flight (.red 0 true) 2 [{ lane := 3, addrs := [0x4000] }] with done := true, acks := [none, some 5] }
       (flying o id).opOf 9 = some o ∧ ((flying o id).warp 2).isSome = true ∧ ((flying o id).wg 1).status ≠ .ended ∧ 1 < o.acks.length
        ∧ ∀ l ∈ o.lines, (flying o id).locked l = false) := by decide +kernel

/-- A line of a cache with one dirty byte. -/
def dirtyLine (i : Nat) : Line := (emptyLine i).put 5 0x77 true

theorem witness_FencesAndCaches : Witnesses [(small id, bare, fun s j => !s.heldWrite j.k),
      (small (uni 4 511), s4, fun s j => decide ((j.uval s 0x54).toNat < 512) && !s.heldWrite j.k),
      (small (uni 4 512), s4, fun s j => decide (512 ≤ (j.uval s 0x54).toNat)),
      (started 0 atCode, n4, fun s j => !j.acquiring s && !s.heldWrite j.k && roomy s j.w.core 32 && j.lanes.all (fun l =>
        match j.lineAddress s l (j.val s l 4) with
        | .ok (some n) => !s.conflict j.k [n / 128] && !s.locked (n / 128) && !s.lostAt n
        | _ => false)),
      (started 0 atCode, fun _ _ => { srcs := [4], cp := true }, fun s j => j.lanes.all (fun l =>
        match j.reach s 0 l (j.val s l 4) 1 .load with
        | .ok r => !r.mig && policyOf (j.policy 0) r.vias != 3 && policyOf (j.policy 0) r.vias != 4 && roomy (j.touched s 0 false [(l, r)]) j.w.core 32
            && r.flats.all (fun b => isCached b && !s.locked (b / 128) && !s.lostAt (b / 128 * 128) && !s.isPoison b)
        | .error _ => false))]
    ∧ (let s := flying (flight .fence 0 []) (lane3 (.fence 9))
       s.opOf 9 = some (flight .fence 0 []) ∧ s.warp 2 ≠ none ∧ ((s.warp 2).getD {}).live.elem 3 = true
        ∧ (List.range 32).filter (fun m => (((s.warp 2).getD {}).lane m).park == .fence 9) = [3])
    ∧ (let s := { flying (flight (.drain 17) 1 []) id with l1 := [(17, [dirtyLine 128])] }
       s.opOf 9 = some (flight (.drain 17) 1 []) ∧ (128 * 128 + 5, 0x77#8) ∈ s.dirtyBytes true 17 128
        ∧ (s.cache false 1).length + (s.cache true 17).length ≤ ccLines) :=
  ⟨witnesses_of (by decide +kernel), by decide +kernel, by decide +kernel⟩

/-- A started workgroup whose argument block and constant segment are the first 20 bytes of its code page. -/
def argued (f : Warp → Warp) : State :=
  (started 0x12345678 f).modNode 0 (fun n => { n with argCopy := probeVa, kernel := { n.kernel with args := 24, constVa := probeVa, constSize := 20 } })

theorem witness_UniformLoads :
    (let ok := fun (off : Int) => off % 8 = 0 ∧ 0 ≤ off ∧ off + 8 ≤ 24
     let block := fun (_ : State) (_ : Iss) => ({ uni := [0x54], imm := some 0 } : Uses)
     Witnesses [(argued (uni 4 16), block, fun s j => decide (ok (j.uloadOffset s 0x54 0))
        && (match reachGlobal s (j.who s 0) (probeVa + 16) 8 .load with
            | .ok r => (j.migrating s [(0, r)]).isNone
            | .error _ => false)),
      (argued (uni 4 4), block, fun s j => decide (j.uloadOffset s 0x54 0 % 8 ≠ 0)),
      (argued (uni 4 24), block, fun s j => decide (j.uloadOffset s 0x54 0 % 8 = 0 ∧ 24 < j.uloadOffset s 0x54 0 + 8)),
      (argued (hinted { first := 0x1000, himm := [0xFFFFFF] }), fun _ _ => { uni := [0x54], imm := some 0x3FF },
        fun s j => decide (j.uloadOffset s 0x54 0x3FF % 8 = 0 ∧ j.uloadOffset s 0x54 0x3FF < 0)),
      (argued (uni 4 probeVa), fun _ _ => { uni := [0x54], imm := some 0, cp := true }, fun s j =>
        match j.reach s 0 0 (BitVec.ofInt 64 (j.uloadOffset s 0x54 0)) 8 .load with
        | .ok r => (j.migrating s [(0, r)]).isNone && !s.forcedIn [(0, r)] && !j.mustWait s [(0, r)]
        | .error _ => false),
      (argued (uni 4 (2 ^ 56)), fun _ _ => { uni := [0x54], imm := some 0, cp := true }, fun s j => decide (2 ^ 56 ≤ j.uloadOffset s 0x54 0))]) :=
  witnesses_of (by decide +kernel)

theorem witness_DescriptorsAndHandles : Witnesses [(small id, fun _ _ => { uni := [0x54, 0x55] }, plain)] := witnesses_of (by decide +kernel)

theorem witness_LinesAndPages :
    (let s := { small (lane3 (.watch (some 128) 0 false)) with invs := [(0, 128)], l1 := [(0, [dirtyLine 128])] }
     s.invs.elem (0, 128) = true ∧ s.invs.elem (1, 128) = false ∧ s.locked 128 = true ∧ s.locked 129 = false ∧ s.lostAt (129 * 128) = false
      ∧ s.coreHolds 0 128 = true ∧ (s.warp 2).any (fun w => w.core / 16 == 0 && (w.lane 3).park == .watch (some 128) 0 false) = true)
    ∧ homedHere (128 * 128) = true ∧ homeDie (128 / 4) = 2 ∧ homeDie (128 / 4) ≠ 1
    ∧ ((match walk (started 0 id) 0 0 probeVa with
        | .ok l => l.addr.any (fun ea => decide (ea + 8 ≤ deviceBytes))
        | .error _ => false) = true ∧ (started 0 id).migrating = [])
    ∧ (let s := fun (ts : List (Nat × Nat)) (st : WgStatus) =>
         { small id with wgs := [(1, { node := 0, size := 8, cores := [(0, 65536)], status := st, absent := [(0, 3)], touched := ts })] }
       ((s [(0, 3)] .resident).wg 1).absent.elem (0, 3) = true ∧ ((s [(0, 3)] .resident).wg 1).touched.elem (0, 3) = true
        ∧ ((s [(0, 3)] .resident).wg 1).present = true ∧ ((s [] .resident).wg 1).touched.elem (0, 3) = false
        ∧ ((s [(0, 3)] .saved).wg 1).present = false)
    ∧ (let h : Held := { id := 9, cluster := 0, key := 2, pasid := 0, va := probeVa }
       let s := { started 0 (lane3 (.migrating 9)) with heldMig := [h] }
       (s.heldMig.filter (fun h => h.cluster == 0)).find? (fun h => !s.stillHeld h) = some h ∧ h.go = false)
    ∧ (let h : Held := { id := 9, cluster := 0, key := 2, pasid := 0, va := probeVa }
       let s := put { started 0 id with heldMig := [h] } 0x105000 8 0x2001AB
       ∀ h ∈ s.heldMig.filter (fun h => h.cluster == 0), s.stillHeld h = true) := by decide +kernel

/-- What MACQ reads of s4. -/
def claims (_ : State) (i : Iss) : Uses := { uni := [0x54], legal := i.himm == [] }

/-- A claim of two banks on one member. -/
def held2 (fam : Family) (w : Warp) : Warp :=
  { w with claim := { count := 2, gang := 1, bench := 0, banks := [[4, 5]], family := [fam, fam] } }

/-- A MACQ of s4, whose warp holds no claim. -/
def asks (v : Nat) : Meeting := (small (uni 4 v), 0, claims, fun s _ m => (m.uval s 0x54).toNat == v && m.w.claim.count == 0)

theorem witness_Claims : Mets [asks 0x101, asks 0x408, asks 0x100, asks 0x509, asks 0x101F, asks 0x800, asks 0x111,
      (small (fun w => uni 4 0x101 (held2 .unset w)), 0, claims, fun _ _ m => m.w.claim.count != 0),
      (small id, 0, usesNothing, fun _ _ m => m.w.claim.count == 0),
      (small (held2 .unset), 0, usesNothing, fun s _ m => m.w.claim.count != 0 && m.w.claim.gang == 1 && s.arrays == [])]
    ∧ (let w := { (small id).warps.headD (0, {}) |>.2 with wants := some (3, 1), claim := { bench := 0, banks := [[]] } }
       let s := ({ small id with benches := [(0, { waiting := [2], ring := [7, 6, 5] })] } : State).setWarp 2 w
       (s.bench 0).waiting = 2 :: [] ∧ s.warp 2 = some w ∧ w.wants = some (3, 1) ∧ w.claim.banks.length = 1
        ∧ w.claim.bench % 4 = 0 % 4 ∧ 3 ≤ (s.bench 0).ring.length ∧ ({ ring := [7, 6] } : Bench).ring.length < 3
        ∧ (s.wg w.wg).quiescing = false ∧ ({ status := .saving } : Wg).quiescing = true)
    ∧ (let w := { held2 .unset ((small id).warps.headD (0, {})).2 with reclaim := [(0, 0x8000)] }
       let s := ({ small id with benches := [(0, { waiting := [2], ring := [7, 6] })] } : State).setWarp 2 w
       (s.bench 0).waiting = 2 :: [] ∧ s.warp 2 = some w ∧ w.wants = none
        ∧ w.reclaim.find? (fun e => memberOf w.claim.bench e.1 == 0) = some (0, 0x8000) ∧ w.claim.kept.length ≤ (s.bench 0).ring.length
        ∧ ({ ring := [7] } : Bench).ring.length < w.claim.kept.length) :=
  ⟨mets_of (by decide +kernel), by decide +kernel, by decide +kernel⟩

/-- A handle of 16 rows and 16 columns in a format, with a row pitch, at window address 0x100. -/
def tile (fmt pitch : Nat) : BitVec 128 := BitVec.ofNat 128 (0x100 + 16 * 2 ^ 40 + 16 * 2 ^ 50 + fmt * 2 ^ 60 + pitch * 2 ^ 64)

/-- A warp with that handle in t1, a claim of two banks, and a latched tile. -/
def matrix (h : BitVec 128) (fam : Family) (w : Warp) : Warp :=
  { held2 fam w with t := [(1, h)], latch := some { handle := tile 2 32, gang := 1 } }

/-- The handle t1 is legal, untagged, and there is room for an operation. -/
def queues (s : State) (m : Iss) : Bool :=
  (m.handlePlace s 1).isNone && (match m.footMeter s 1 with | .ok x => x.isNone | .error _ => false)
    && decide (s.queuedOf m.k (m.w.core / 4) < 4) && !m.orderWaits s && shapeOk (m.w.handle 1) && (mget s.wgs m.w.wg).isSome

/-- The uses of MEPI with its parameters in s4 to s6. -/
def drains (_ : State) (i : Iss) : Uses := { uni := [0x54, 0x55, 0x56], nf := true, block := some 4, legal := i.himm == [] }

/-- MEPI of bank 0 to the FP32 tile t1 meets the premises of its statement; p2 is its third parameter. -/
def hands (p2 : Nat) : Meeting :=
  (small (fun w => uni 6 p2 (matrix (tile 0 64) .fp32 w)), 0, drains, fun s _ m =>
    let h := m.w.handle 1
    (mget s.wgs m.w.wg).isSome && (m.uval s 0x54).toNat == 0 && (m.uval s 0x56).toNat == p2 && shapeOk h && decide (thRows h ≤ 192)
      && decide (thCols h ≤ 192 * m.w.claim.gang) && outputOk (thFmt h) (m.w.claim.family.getD 0 .unset) && alignOk h
      && (footprints h).all (m.scratchOk s) && (p2 == 0 || (p2 % 16 == 0 && m.scratchOk s (p2 % 2 ^ 40, 16))) && !m.orderWaits s)

/-- A state in which a multiply of the warp into its bank 1 is under way. -/
def busy (f : Warp → Warp) : State :=
  { small (fun w => held2 .unset (f w)) with arrays := [{ id := 9, warp := 2, core := 0, wg := 1, a := some (tile 2 32), w := tile 2 32,
                                                           members := [0], banks := [5] }] }

/-- What MRD of index register 4 uses. -/
def readsBank (_ : State) (i : Iss) : Uses := { srcs := [4], dst := [6], legal := i.himm == [] }
/-- What MWR of index register 4 uses. -/
def writesBank (_ : State) (i : Iss) : Uses := { srcs := [4, 6], legal := i.himm == [] }

/-- Every lane's index lies in the bank of a claim, or some lane's does not. -/
def indexed (s : State) (m : Iss) : Bool := m.lanes.all (fun l => decide ((m.val s l 4).toNat < 36864 * m.w.claim.gang))

theorem witness_ArraysIssue :
    Mets [(small (matrix (tile 2 32) .unset), 0, usesNothing, fun s _ m => queues s m && decide (thRows (m.w.handle 1) ≤ 192)),
      (small (matrix (tile 2 32) .fp32), 0, usesNothing, fun s _ m => queues s m && thCols (m.w.handle 1) == thRows (tile 2 32)
        && decide (0 < m.w.claim.count) && !m.w.claim.gone.getLsbD 0 && pairFamily 2 2 == some .fp32
        && m.w.claim.family.getD 0 .unset == .fp32),
      (small (fun w => allReg 4 36863 (held2 .unset w)), 0, writesBank, fun s _ m =>
        decide (1 < m.w.claim.count) && !m.bankBusy s 1 && indexed s m && !s.rangePoison (bankFlat 0 5 (4 * 36863)) 4),
      (small (fun w => allReg 4 0 (held2 .unset w)), 0, readsBank, fun s _ m => decide (1 < m.w.claim.count) && !m.bankBusy s 1
        && !s.rangePoison (bankFlat 0 5 0) 4),
      (small (fun w => allReg 4 36864 (held2 .unset w)), 0, readsBank, fun s _ m => decide (1 < m.w.claim.count) && !indexed s m),
      (small (fun w => allReg 4 36864 (held2 .unset w)), 0, writesBank, fun s _ m => decide (1 < m.w.claim.count) && !indexed s m),
      (small id, 0, usesNothing, fun _ _ m => !decide (1 < m.w.claim.count)), (small id, 0, readsBank, fun _ _ m => !decide (1 < m.w.claim.count)),
      (busy id, 0, usesNothing, fun s _ m => decide (1 < m.w.claim.count) && m.bankBusy s 1),
      (busy (allReg 4 7), 0, writesBank, fun s _ m => m.bankBusy s 1 && indexed s m),
      (busy (allReg 4 7), 0, readsBank, fun s _ m => m.bankBusy s 1 && indexed s m), hands 0, hands (2 ^ 40 + 0x200)] :=
  mets_of (by decide +kernel)

/-- An array operation of warp 2 on Bench 0. -/
def arrayOp (a : Option (BitVec 128)) (running : Bool) : ArrayOp :=
  { id := 9, warp := 2, core := 0, wg := 1, a := a, w := tile 2 32, members := [0], banks := [4], running := running,
    chosen := if running then [0] else [] }

/-- A drain of warp 2 on Bench 0. -/
def drainOp (started : List Nat) : DrainOp :=
  { id := 9, warp := 2, wg := 1, index := 0, members := [0], banks := [4], out := tile 0 64, act := 0, smode := 0, bmode := 0, vbase := 0,
    scale := 0, bias := 0, started := started }

/-- A handle like tile 2 32 in core k's scratchpad, with a multicast mask. -/
def tileOf (k mask : Nat) : BitVec 128 := tile 2 32 ||| BitVec.ofNat 128 (k * 2 ^ 31 + mask * 2 ^ 112)

/-- The fetch of a tile begun for core 4, whose handle names core 0 and which core 0's operation names in turn. -/
def merging : State × ArrayOp :=
  let o := { arrayOp none true with w := tileOf 0 0x11, need := [0] }
  ({ small id with arrays := [o], cycle := 16,
                   fetches := [{ id := 3, wg := 1, core := 4, handle := tileOf 0 0x11, since := 0, rows := [(0, (small id).tileRow 1 (tileOf 0 0x11) 0)] }] }, o)

theorem witness_ArraysRun :
    (let s := { small id with arrays := [arrayOp none false] }
     s.arrayIdle 0 = true ∧ s.arbiter 0 = some (arrayOp none false) ∧ s.arrayOf 9 = some (arrayOp none false))
    ∧ (let s := { small id with arrays := [arrayOp none true] }
       s.arrayIdle 0 = false ∧ s.arrayOf 9 = some (arrayOp none true) ∧ (arrayOp none true).stage ≠ 2)
    ∧ (∀ k ∈ [0, 1],
       let a := if k = 0 then none else some (tile 2 32)
       let o := { arrayOp a true with stage := 2, step := 385 }
       let s := { small id with arrays := [o] }
       s.arrayOf 9 = some o ∧ s.oldest o = true ∧ o.imm = none ∧ (s.wg o.wg).status ≠ .ended ∧ (mget s.wgs o.wg).isSome = true
        ∧ ({ o with step := 384 } : ArrayOp).step < 385)
    ∧ (∀ n ∈ [0, 190, 191],
       let o := { arrayOp none true with need := [0], step := n }
       let s := { small id with arrays := [o] }
       s.arrayOf 9 = some o ∧ o.running = true ∧ o.stage = 0 ∧ thBase o.w / 2 ^ 31 = o.core
        ∧ ∀ r, r < 16 → (s.fetching o o.w).1.rowAway 1 o.w (s.fetching o o.w).2 r = false)
    ∧ (let o := { arrayOp none true with w := tileOf 1 0, need := [0], late := 6 }
       thBase o.w / 2 ^ 31 ≠ o.core ∧ o.step = 0 ∧ o.late < 7 ∧ ¬ ({ o with late := 7 } : ArrayOp).late < 7)
    ∧ (let o := { arrayOp none true with need := [0] }
       let s := { small id with arrays := [o], wgs := [(1, { node := 0, size := 8, cores := [(0, 65536)], absent := [(0, 0)] })] }
       (s.fetching o o.w).1.rowAway 1 o.w (s.fetching o o.w).2 0 = true)
    ∧ (let s := merging.1
       let o := merging.2
       o.fetch = none ∧ ∃ f ∈ s.fetches, f.wg = o.wg ∧ f.core / 16 = o.core / 16 ∧ f.core / 4 ≠ o.core / 4 ∧ s.cycle ≤ f.since + 16
        ∧ f.handle.extractLsb' 0 112 = o.w.extractLsb' 0 112 ∧ o.w.getLsbD (112 + f.core % 16) = true
        ∧ f.handle.getLsbD (112 + o.core % 16) = true ∧ f.rows.map Prod.fst = [0] ∧ ∀ e ∈ f.rows, s.tileRow o.wg o.w e.1 = e.2)
    ∧ (let s := { small id with drains := [drainOp []] }
       (small id).nextDrain 0 = none ∧ s.nextDrain 0 = some (drainOp [])
        ∧ ((drainOp []).started.elem 0 || (drainOp []).after != [] || (drainOp []).behind.any (fun i => s.ops.any (fun o => o.id == i))) = false)
    ∧ (∀ n ∈ [0, 20, 35, 36],
       let d := { drainOp [0] with rows := [(0, n)] }
       let s := { small id with drains := [d] }
       s.nextDrain 0 = some d ∧ d.started.elem 0 = true ∧ mgetD d.rows 0 0 = n ∧ thRows d.out + 20 = 36 ∧ d.members = [0] ∧ d.joint = none
        ∧ (s.wg d.wg).status ≠ .ended ∧ (mget s.wgs d.wg).isSome = true ∧ seWidth (thFmt d.out) = 0
        ∧ s.windowAbsent d.wg (d.prints (n - 20)) = false) := by decide +kernel

theorem witness_MultiplyResult :
    (∀ n ∈ [0, 1],
     let o := { arrayOp (some (tile 2 32)) true with stage := 1, step := n }
     let s := { small id with arrays := [o] }
     s.arrayOf 9 = some o ∧ o.running = true ∧ o.members = [0] ∧ o.banks = [4] ∧ thBase (tile 2 32) / 2 ^ 31 = o.core
      ∧ (s.fetching o (tile 2 32)).1.rowAway o.wg (tile 2 32) (s.fetching o (tile 2 32)).2 n = false)
    ∧ (thBase (tileOf 1 0) / 2 ^ 31 ≠ (arrayOp none true).core ∧ (arrayOp none true).step = 0 ∧ (arrayOp none true).late < 7)
    ∧ (let s := { small id with wgs := [(1, { node := 0, size := 8, cores := [(0, 65536)], absent := [(0, 0)] })] }
       s.rowAway 1 (tile 2 32) 7 0 = true) := by decide +kernel

/-- A copy of 64 bytes between two places of the core's scratch, by the register block s8 to s13; r4 and r5 are its last words. -/
def copyBlock (r4 r5 : Nat) (w : Warp) : Warp :=
  uni 13 r5 (uni 12 r4 (uni 10 (64 + 2 ^ 40) (uni 9 localAt (uni 8 (localAt + 0x100) w))))

/-- A copy of a kind whose block can be read, with room in the cluster's queue; legal, or not. -/
def copies (kind r4 src : Nat) (legal : Bool) : Case :=
  (small (fun w => uni 9 src (copyBlock r4 0x300 w)),
    fun _ j => { uni := (List.range (if kind = 2 then 6 else 5)).map (fun k => 0x58#7 + BitVec.ofNat 7 k), block := some 8, legal := j.himm == [] },
    fun s j => (mget s.wgs j.w.wg).isSome && (j.copyCheck s (j.copyBlock s kind 8 5 1 0) 8).isNone == legal && decide (s.copies.length < 51)
      && !j.orderWaits s && !j.listWaits s (j.copyBlock s kind 8 5 1 0))

/-- A copy in a cluster's queue. -/
def copyOp (rows : Nat) : CopyOp :=
  { id := 9, kind := 0, warp := 2, wg := 1, core := 0, pasid := 0, scope := 5, dst := BitVec.ofNat 64 (localAt + 0x100),
    src := BitVec.ofNat 64 localAt, rows := rows, rbytes := 64, dpitch := 0, spitch := 0, tlnum := some 1, opc := 0, rpc := 0 }

theorem witness_Copies :
    Witnesses [copies 0 0 localAt true, copies 1 (2 ^ 48) localAt true, copies 2 0 localAt true, copies 0 (2 ^ 48) localAt false]
    ∧ (let s := { small id with copies := [copyOp 0] }
       s.copies.find? (fun x => x.id == 9) = some (copyOp 0) ∧ s.copyReady (copyOp 0) = true ∧ (s.wg 1).status ≠ .ended)
    ∧ ((∃ d ∈ ({ small id with drains := [{ drainOp [] with id := 8 }] } : State).drains, d.warp = (copyOp 1).warp ∧ d.id < (copyOp 1).id)
        ∧ ∃ i ∈ ({ copyOp 1 with after := [9] } : CopyOp).after, ∃ o ∈ (flying (flight .fence 0 []) id).ops, o.id = i)
    ∧ (let s := { small id with copies := [copyOp 1] }
       let w := s.engineWho 0 1 5
       let f := scratchFlat 1 0x100
       (s.spot w localAt 64 .load = .ok (.mem f none [] false) ∧ s.spot w (localAt + 0x100) 64 .store = .ok (.mem (f + 0x100) none [] false))
        ∧ s.copyReady (copyOp 1) = true ∧ s.engineWaits 9 0 0 false [] = none ∧ roomy (s.engineMade 9) 0 5 = true ∧ 64 ≤ 4096 - localAt % 4096
        ∧ s.spotBusy 1 64 (.mem f none [] false) = false ∧ s.spotBusy 1 64 (.mem (f + 0x100) none [] false) = false
        ∧ ∀ k, k < 64 → (s.engineMade 9).poisonAt 0 2 (f + k) = false ∧ s.lostAt (f + 0x100 + k) = false) :=
  ⟨witnesses_of (by decide +kernel), by decide +kernel, by decide +kernel, ⟨ok_of (by decide +kernel), ok_of (by decide +kernel)⟩,
   by decide +kernel⟩
/-- What p says of the result of a computation that succeeds. -/
def yields {α β : Type} (x : Except α β) (p : β → Bool) : Bool :=
  match x with
  | .ok v => p v
  | .error _ => false

/-- A chain record of one step, ABS, on FP32, at window address 0x400 of the workgroup's scratch. -/
def recorded (f : Warp → Warp) : State := put (small f) (scratchFlat 1 0x400) 64 (1 + 6 * 2 ^ 64)

/-- A descriptor of successive words from an address, the last of which end at a limit. -/
def words (base lim : Nat) : BitVec 256 := BitVec.ofNat 256 (base + lim * 2 ^ 64 + 4 * 2 ^ 224)

/-- A descriptor of one word at the core's scratch. -/
def stream : BitVec 256 := words localAt 4

/-- A chain operation of count elements from one descriptor to another. -/
def chainOp (count : Nat) (di dout : BitVec 256) : ChainOp :=
  { id := 9, warp := 2, wg := 1, index := 0, core := 0, pasid := 0, record := BitVec.ofNat 512 (1 + 6 * 2 ^ 64), count := count, di := di,
    dout := dout, iBase := 0, oBase := 0, iOn := true, oOn := true, iNum := 1, oNum := 1, noflag := false, tlnum := 1, opc := 0, rpc := 0 }

/-- The small state with a chain operation. -/
def chained (c : ChainOp) : State := { small id with chains := [c] }

/-- The states that the elements of a chain leave, one after the other. -/
def after' (c : ChainOp) : Nat → State
  | 0 => chained c
  | n + 1 => ((after' c n).chainOne c n).state

/-- An access of a chain can be made at once, to bytes that are neither poisoned nor lost. -/
def reaches (s : State) (c : ChainOp) (a : Word) (write : Bool) : Bool :=
  match s.chainAccess c a 4 write with
  | .go u r p =>
    let v := (u.engineMade c.id).touchAll (s.engineWho 0 1 0) write r.vias
    r.flats.all (fun f => !v.poisonAt 0 p f && !u.lostAt f) && decide (r.flats.Nodup ∧ r.flats.length = 4) && roomy v 0 4
  | _ => false

/-- Every one of the first n elements runs without fault and without waiting. -/
def runs (c : ChainOp) (n : Nat) : Bool :=
  (List.range n).all (fun i => ((after' c i).chainOne c i).fault.isNone && !((after' c i).chainOne c i).waits)

theorem witness_Chains :
    Witnesses [(recorded (fun w => uni 8 0x400 (uni 9 1 { w with d := [(1, stream)] })),
      fun _ j => { uni := [0x58, 0x59], block := some 8, nf := true, legal := j.himm == [] }, fun s j =>
        let r := BitVec.ofNat 512 (s.num (scratchFlat 1 0x400) 64)
        let d := j.w.dsc 1
        (j.uval s 0x58).toNat == 0x400 && (j.uval s 0x59).toNat == 1 && yields (reachScratch s (j.who s 0) 0x400 64 false) (fun _ => true)
          && !s.pageAbsent 1 (scratchFlat 1 0x400) && !s.conflict j.k [scratchFlat 1 0x400 / 128] && !j.orderWaits s
          && !s.rangePoison (scratchFlat 1 0x400) 64 && recordOk r && decide (recIfmt r ≤ 5) && decide (recOfmt r ≤ 5)
          && streamAligned d (j.dscInduction d) (chainSize (recIfmt r)) && s.chains == [] && (mget s.wgs 1).isSome)]
    ∧ (let c := chainOp 1 stream stream
       (chained c).chains.find? (fun c => c.core == 0) = some c ∧ ((chained c).wg 1).status ≠ .ended ∧ (mget (chained c).wgs 1).isSome = true
        ∧ (streamAt stream 0 true 4 0).2 = false ∧ reaches (chained c) c (streamAt stream 0 true 4 0).1 false = true
        ∧ reaches (chained c) c (streamAt stream 0 true 4 0).1 true = true)
    ∧ (let s := { flying (flight .fence 0 []) id with chains := [{ chainOp 1 stream stream with after := [9] }] }
       s.chains.find? (fun c => c.core == 0) = some { chainOp 1 stream stream with after := [9] } ∧ ∃ o ∈ s.ops, o.id = 9)
    ∧ runs (chainOp 33 (words localAt 1024) (words (localAt + 512) 1024)) 32 = true
    ∧ runs (chainOp 2 (words localAt 1024) (words (localAt + 512) 1024)) 2 = true
    ∧ (let c := chainOp 2 (words localAt 1024) (words (localAt - 0x100 + 65532) 1024)
       runs c 1 = true ∧ ((after' c 1).chainOne c 1).fault.isSome = true)
    ∧ ((streamAt stream 0 true 4 1).2 = true ∧ (streamAt (words localAt 8) 0 true 4 1).2 = false
        ∧ (let c := chainOp 2 stream (words localAt 8)
           reaches (chained c) c (streamAt c.dout 0 true 4 1).1 true = true)
        ∧ (match (chained (chainOp 1 (words (2 ^ 56 - 4) 8) stream)).chainAccess (chainOp 1 (words (2 ^ 56 - 4) 8) stream)
              (streamAt (words (2 ^ 56 - 4) 8) 0 true 4 0).1 4 false with
            | .fault _ _ => true
            | _ => false) = true) :=
  ⟨witnesses_of (by decide +kernel), by decide +kernel⟩

/-- A Joint with its counts. -/
def joint (bytes target arrived expect : Nat) : Joint :=
  { bytes := bytes, target := target, arrived := arrived, expect := expect, gen := 32767, faulted := false }

theorem witness_JointRules :
    ((joint 0 0 1 2).faulted = false ∧ 1 + 1 ≤ (joint 0 0 1 2).expect ∧ (1 ≤ 2 ∧ 1 + 1 = 2 ∧ (0 : Nat) = 0 + 0))
    ∧ ((joint 0 0 0 2).faulted = false ∧ 0 + 1 ≤ (joint 0 0 0 2).expect ∧ ¬ (0 + 1 = (joint 0 0 0 2).expect))
    ∧ ((joint 0 0 2 2).expect < (joint 0 0 2 2).arrived + 1)
    ∧ (2 ^ 40 ≤ (joint 0 (2 ^ 40 - 1) 0 2).target + 1)
    ∧ (1 ≤ (joint 9 3 1 2).expect ∧ (joint 9 3 1 2).arrived + 1 = (joint 9 3 1 2).expect ∧ (joint 9 3 1 2).target + 5 < (joint 9 3 1 2).bytes)
    ∧ ({ joint 0 0 0 2 with faulted := true } : Joint).faulted = true
    ∧ ((joint 4 12 2 2).bytes + 8 = (joint 4 12 2 2).target ∧ (joint 4 12 2 2).arrived = 2)
    ∧ ((joint 4 11 2 2).target < (joint 4 11 2 2).bytes + 8 ∧ (joint 4 11 2 2).bytes + 8 < 2 ^ 40) := by decide +kernel

/-- The state whose Joint at window address 0x200 is x. -/
def jointed (x : Joint) (f : Warp → Warp) : State := (small f).setJoint (scratchFlat 1 0x200) x

/-- The Joint's address in s4 and an operand in s5. -/
def joins' (v : Nat) (w : Warp) : Warp := uni 4 0x200 (uni 5 v w)

/-- JOINT instructions at that Joint, with operand v, meet the common premises of their statement. -/
def joins (x : Joint) (v : Nat) (f : State → State) (p : State → Iss → Joint → Bool) : Case :=
  (f (jointed x (joins' v)), fun _ j => { uni := [0x54, 0x55], legal := j.himm == [] }, fun s j =>
    yields (j.jointWindow s (j.uval s 0x54)) (fun win => win == 0x200) && (j.uval s 0x55).toNat == v
      && !s.pageAbsent 1 (scratchFlat 1 0x200) && !s.conflict j.k [scratchFlat 1 0x200 / 128] && !j.acquiring s
      && !s.rangePoison (scratchFlat 1 0x200) 16 && !s.heldWrite j.k && p s j (s.jointAt (scratchFlat 1 0x200)))

/-- No wait of a warp that has failed was issued before number n, and those of that number wait as p says. -/
theorem firsts_of {s : State} {w : Warp} {n : Nat} {q : Park} (h : ((List.range 32).all (fun m => (s.failedWait w m).all (fun p =>
    decide (n ≤ p.1) && (decide (p.1 ≠ n) || (w.lane m).park == q)))) = true) :
    ∀ m p, m < 32 → s.failedWait w m = some p → n ≤ p.1 ∧ (p.1 = n → (w.lane m).park = q) := by
  intro m p hm hp
  have := List.all_eq_true.1 h m (List.mem_range.2 hm)
  rw [hp] at this
  simp only [Option.all_some, Bool.and_eq_true, decide_eq_true_eq, Bool.or_eq_true, beq_iff_eq] at this
  exact ⟨this.1, fun e => this.2.resolve_left (fun g => g e)⟩

/-- Lane 3 of warp 2, which is live, waits as q, and no wait of the warp issued before its own, number 1, has failed. -/
theorem first_of {s : State} {q : Park} (h : (s.warp 2).any (fun w => (w.lane 3).live && (w.lane 3).park == q
    && (List.range 32).all (fun m => (s.failedWait w m).all (fun p => decide (1 ≤ p.1) && (decide (p.1 ≠ 1) || (w.lane m).park == q)))) = true) :
    ∃ w, s.warp 2 = some w ∧ (w.lane 3).live = true ∧ (w.lane 3).park = q
      ∧ ∀ m p, m < 32 → s.failedWait w m = some p → 1 ≤ p.1 ∧ (p.1 = 1 → (w.lane m).park = (w.lane 3).park) := by
  obtain ⟨w, hw, hp⟩ := some_of h
  simp only [Bool.and_eq_true, beq_iff_eq] at hp
  exact ⟨w, hw, hp.1.1, hp.1.2, hp.1.2 ▸ firsts_of hp.2⟩

/-- The workgroup of the small state leaves its cores. -/
def quiesced (s : State) : State := s.modWg 1 (fun g => { g with status := .saving })

/-- An entry of the fault store for the Joint at 0x200. -/
def stored : FsEntry := { cls := 0x0F, addr := 7, jaddr := some 0x200, tl := none, opc := 0, rpc := 0 }

theorem witness_JointInstructions :
    Witnesses [joins (joint 0 0 0 0) 1 id (fun _ _ _ => true), joins (joint 0 0 0 0) 65535 id (fun _ _ _ => true),
      joins (joint 0 0 0 20) 9 id (fun s j x => (s.releaseAction j.k j.w 2).2 == [] && (x.arrive j.lanes.length 0 9).isSome
        && (x.arrive j.lanes.length j.lanes.length 9).isSome),
      joins (joint 0 0 0 4) 9 id (fun s j x => (s.releaseAction j.k j.w 2).2 == [] && (x.arrive j.lanes.length j.lanes.length 9).isNone
        && (x.arrive j.lanes.length 0 9).isNone && (x.arrive 4 0 9).isSome),
      joins { joint 0 0 0 4 with faulted := true } 9 id (fun _ j x => (x.arrive j.lanes.length 0 9).isNone),
      joins (joint 0 0 0 20) 9 (fun s => { s with ops := [flight .store 2 [{ lane := 0, addrs := [0x4000] }]] })
        (fun s j _ => (s.releaseAction j.k j.w 2).2 != []),
      joins (joint 0 0 0 4) 32767 id (fun _ _ _ => true), joins (joint 0 0 0 4) 0 id (fun _ _ _ => true)]
    ∧ (let o := flight (.jarv 0x200 8 9) 0 []
       let s := { jointed (joint 0 0 0 20) (lane3 (.fence 9)) with ops := [o] }
       s.opOf 9 = some o ∧ s.opReady o = true ∧ ((s.jointAt (scratchFlat 1 0x200)).arrive 8 8 9).isSome = true
        ∧ s.pageAbsent 1 (scratchFlat 1 0x200) = false ∧ s.rangePoison (scratchFlat 1 0x200) 16 = false ∧ (s.wg 1).status ≠ .ended
        ∧ (s.warp 2).any (fun w => (List.range 32).filter (fun l => (w.lane l).live && (w.lane l).park == .fence 9) != []) = true)
    ∧ (∀ k ∈ [0, 1],
       let s := jointed (joint 0 0 0 4) (lane3 (.joint 0x200 (if k = 0 then 32767 else 0) 5 1))
       (s.jointAt (scratchFlat 1 0x200)).faulted = false ∧ ((s.jointAt (scratchFlat 1 0x200)).gen = 32767) ∧ (s.wg 1).quiescing = false
        ∧ ((quiesced s).wg 1).quiescing = true
        ∧ (s.warp 2).any (fun w => (w.lane 3).park == .joint 0x200 (if k = 0 then 32767 else 0) 5 1) = true)
    ∧ ((small (lane3 (.freed 5 1))).warp 2).any (fun w => (w.lane 3).park == .freed 5 1) = true
    ∧ (let s := { jointed { joint 0 0 0 4 with faulted := true } (lane3 (.joint 0x200 0 5 1)) with
                  wgs := [(1, { node := 0, size := 8, cores := [(0, 65536)], faults := [stored] })] }
       (s.rangePoison (scratchFlat 1 0x200) 16 = false ∧ (s.jointAt (scratchFlat 1 0x200)).faulted = true ∧ (s.wg 1).quiescing = false
        ∧ (s.wg 1).faults.find? (fun e => e.jaddr == some 0x200) = some stored)
        ∧ ∃ w, s.warp 2 = some w ∧ (w.lane 3).live = true ∧ (w.lane 3).park = .joint 0x200 0 5 1
          ∧ ∀ m p, m < 32 → s.failedWait w m = some p → 1 ≤ p.1 ∧ (p.1 = 1 → (w.lane m).park = (w.lane 3).park)) :=
  ⟨witnesses_of (by decide +kernel), by decide +kernel, by decide +kernel, by decide +kernel, by decide +kernel, first_of (by decide +kernel)⟩

/-- The small state whose copy timeline stands so. -/
def timed (t : Timeline) (f : Warp → Warp) : State :=
  { small f with wgs := [(1, { node := 0, size := 8, cores := [(0, 65536)], copyTl := t })] }

theorem witness_Timelines :
    (let reads := fun (_ : State) (j : Iss) => ({ uni := [0x54], legal := j.himm == [] } : Uses)
     Witnesses [(timed { issued := 3, completed := 2 } (uni 4 1), reads, fun s j => decide ((j.uval s 0x54).toNat ≤ 1)),
      (timed { issued := 3, completed := 2 } (uni 4 3), reads, fun s j => decide ((j.uval s 0x54).toNat ≤ ((s.wg j.w.wg).tl 0).issued)),
      (timed { issued := 3, completed := 2 } (uni 4 4), reads, fun s j => decide (((s.wg j.w.wg).tl 0).issued < (j.uval s 0x54).toNat))])
    ∧ ((timed { issued := 3, completed := 2 } (lane3 (.timeline 0 3 5 1))).warp 2).any (fun w => (w.lane 3).park == .timeline 0 3 5 1) = true
    ∧ ((((timed { issued := 3, completed := 2 } id).wg 1).tl 0).completed < 3 ∧ 3 ≤ (((timed { issued := 3, completed := 3 } id).wg 1).tl 0).completed
        ∧ ((timed { issued := 3, completed := 3 } id).wg 1).quiescing = false ∧ ((quiesced (timed { issued := 3, completed := 3 } id)).wg 1).quiescing = true
        ∧ (((timed { issued := 3, completed := 3, faultnum := 4 } id).wg 1).tl 0).faultnum = 4)
    ∧ (let s := timed { issued := 3, completed := 3, faultnum := 3 } (lane3 (.timeline 0 3 5 1))
       ∃ w, s.warp 2 = some w ∧ (w.lane 3).live = true ∧ (w.lane 3).park = .timeline 0 3 5 1
        ∧ ∀ m p, m < 32 → s.failedWait w m = some p → 1 ≤ p.1 ∧ (p.1 = 1 → (w.lane m).park = (w.lane 3).park)) :=
  ⟨witnesses_of (by decide +kernel), by decide +kernel, by decide +kernel, first_of (by decide +kernel)⟩

/-- A started workgroup with a registered kernel and a NODE record of version 2 at its scratch address 0x100, changed by x; s4 holds a. -/
def submitted (a x : Nat) : State :=
  let s := put (put (started 0 (uni 4 a)) 0x20013F 1 1) (scratchFlat 1 0x100) 128
    (1 + 2 * 2 ^ 8 + (probeVa + 0x100) * 2 ^ 64 + 2 ^ 192 + 2 ^ 224 + x)
  ({ s with kernels := [{ kref := 0x200100 }] } : State).modNode 0 (fun n => { n with region := { n.region with dqcap := 1 } })

/-- The record as it is. -/
def submits : State := submitted localAt 0

/-- What ENQ of s4 and s5 uses. -/
def enq (_ : State) (j : Iss) : Uses :=
  { uni := [0x54], block := some 4, legal := j.himm == [] && (j.hint.bind (fun h => h.hmod)).isNone }

/-- ENQ finds its record, which is well formed, or not. -/
def finds (s : State) (j : Iss) (formed : Bool) : Bool :=
  let a := j.uval s 0x54
  let reg := (s.nodeOf j.w).region
  a.toNat % 128 == 0 && apertureOf a.toNat != .privateMem && yields (j.reach s 5 (j.lanes.headD 0) a 128 .load) (fun x =>
    let s0 := s.touchAll (j.who s 5) false x.vias
    let q := natLE (x.flats.map (s0.view j.w.core 2))
    x.flats.all (fun f => !s0.poisonAt j.w.core 2 f) && decide (nodeRecordOk q = true ∧ q / 2 ^ 8 % 2 ^ 4 = 2 ∧ q / 2 ^ 16 % 2 ^ 16 = 0
      ∧ ((countReads s0 [(0, x)]).kernelOf reg.pasid reg.pasid (BitVec.ofNat 64 (q / 2 ^ 64 % 2 ^ 64))).isSome = true) == formed)

/-- ENQ has nothing before it. -/
def first (s : State) (j : Iss) : Bool :=
  decide ((j.uval s 0x54).toNat < 2 ^ 56) && !j.orderWaits s && (s.releaseAction j.k j.w 5).2 == []
    && (j.enqWaits s s.serial (j.uval s 0x54)).isNone

theorem witness_DeviceQueues :
    Witnesses [(submits, enq, fun s j => first s j && finds s j true && yields (j.enqueue s 4 false) (fun r => r.2 == 0)),
      (submitted localAt (2 ^ 16), enq, fun s j => first s j && finds s j false), (submitted (localAt + 64) 0, enq, fun s j => first s j
        && (j.uval s 0x54).toNat % 128 == 64),
      (submitted 0xFFFE0000000000 0, enq, fun s j => (j.uval s 0x54).toNat % 128 == 0 && apertureOf (j.uval s 0x54).toNat == .privateMem),
      (submitted 0x10000 0, enq, fun s j => first s j && (match j.reach s 5 (j.lanes.headD 0) (j.uval s 0x54) 128 .load with
        | .ok _ => false
        | .error _ => true)),
      ({ submits with ops := [flight .store 2 [{ lane := 0, addrs := [0x4000] }]] }, enq, fun s j => !j.orderWaits s
        && (s.releaseAction j.k j.w 5).2 != [])]
    ∧ (let o := flight (.enq 4 false) 0 []
       let s : State := { submits.modWarp 2 (lane3 (.fence 9)) with ops := [o] }
       s.opOf 9 = some o ∧ o.after = [] ∧ (s.wg 1).status ≠ .ended
        ∧ (s.warp 2).any (fun w => (List.range 32).filter (fun m => (w.lane m).live && (w.lane m).park == .fence 9) == [3]
          && (let j : Iss := { k := 2, w := w, lanes := [3], led := 3, code := s.code w, hint := (w.lane 3).hint }
              (j.enqWaits s 9 (j.uval s 0x54)).isNone && yields (j.enqueue (s.engineMade 9) 4 false) (fun r => r.2 == 0))) = true)
    ∧ (let r : Region := { ringOf := 0x310000, dqcap := 0, ringSize := 4 }
       let s := small id
       ¬ ((s.queueOf r.ringOf).length < r.dqcap) ∧ (s.ringWr r.ringOf + 65536 - s.ringRd r.ringOf) % 65536 < 2 ^ r.ringSize)
    ∧ (let e : Spilled := { queue := 0x310000, index := 0, rcb := 0x310000, pasid := 0, source := 0 }
       let s := put (put { small id with spilled := [e] } (0x310000 + 103) 1 1) (0x310000 + 48) 2 1
       s.ringWr 0x310000 ≠ s.ringRd 0x310000 ∧ (s.queueOf 0x310000).length < s.rcb 0x310000 384 16
        ∧ s.spilled.find? (fun (e : Spilled) => e.queue == 0x310000 && e.index == s.ringRd 0x310000) = some e ∧ 0x310000 + 128 ≤ deviceBytes) :=
  ⟨witnesses_of (by decide +kernel), by decide +kernel, by decide +kernel, by decide +kernel⟩

/-- A CSRW of s4 to a CSR is legal, and p holds of its value. -/
def writes (n v : Nat) (h : Bool) (p : Nat → Bool) : Case :=
  (small (fun w => uni 4 v (if h then handling 0x1000 w else w)), fun _ j => { uni := [0x54], legal := decide (n < 0x40) || j.w.handler },
    fun s j => p (j.uval s 0x54).toNat && (!h || j.w.frame.any (fun fr => (fr.levels.getD 0 {}).copies == 0)))

/-- A CSRS of s4. -/
def setting (v : Nat) (p : State → Iss → Nat → Bool) : Case :=
  (small (uni 4 v), fun _ _ => { uni := [0x54], dst := [6] }, fun s j => p s j (j.uval s 0x54).toNat)

/-- A warp whose METER list binds TAG 5 reads the meter that v names. -/
def meters (v : Nat) (p : State → Iss → Nat → Bool) : Case :=
  ((small (uni 4 v)).modNode 0 (fun n => { n with region := { n.region with meter := [(5, 2)] } }), s4, fun s j => p s j (j.uval s 0x54).toNat)

theorem witness_ControlRegisters :
    Witnesses [(small id, fun _ j => { dst := [6], legal := (csrAccess 0x000 j.w.handler).read }, plain),
      (small (handling 0x1000), fun _ j => { dst := [6], legal := (csrAccess 0x200 j.w.handler).read }, plain)]
    ∧ Witnesses [writes 0 63 false (fun v => decide (v < 64)), writes 0 64 false (fun v => !decide (v < 64)),
      writes 2 (2 ^ 32 - 1) false (fun v => decide (v < 2 ^ 32)), writes 2 (2 ^ 32) false (fun v => !decide (v < 2 ^ 32)),
      writes 3 1 false (fun v => decide (v < 2)), writes 3 2 false (fun v => !decide (v < 2)),
      writes 0x30 511 false (fun v => decide (v < 512)), writes 0x30 512 false (fun v => !decide (v < 512)),
      writes 0x60 0 true (fun v => decide (v % 4 = 0 ∧ v ≤ 0)), writes 0x60 2 true (fun v => !decide (v % 4 = 0 ∧ v ≤ 0))]
    ∧ Witnesses [writes 0x40 (2 ^ 32 - 1) true (fun v => decide (v < 2 ^ 32)), writes 0x40 (2 ^ 32) true (fun v => decide (2 ^ 32 ≤ v)),
      writes 0x41 (2 ^ 33 - 1) true (fun v => decide (v < 2 ^ 33)), writes 0x42 (2 ^ 56 - 1) true (fun v => decide (v < 2 ^ 56)),
      writes 0x43 (2 ^ 56) true (fun v => decide (2 ^ 56 ≤ v)), writes 0x44 0x9F true (fun v => decide (v < 256 ∧ v / 2 ^ 5 % 2 ^ 2 = 0)),
      writes 0x44 0x20 true (fun v => decide (v / 2 ^ 5 % 2 ^ 2 ≠ 0)), writes 0x45 255 true (fun v => decide (v < 256)),
      writes 0x46 15 true (fun v => decide (v < 16)), writes 0x46 16 true (fun v => decide (16 ≤ v)), writes 0x47 (2 ^ 64 - 1) true (fun _ => true)]
    ∧ Witnesses [(small (handling 0x1000), fun _ j => { srcs := [4], legal := j.w.handler }, fun _ j => j.w.frame.isSome),
      setting 63 (fun _ j v => decide (v < 64) && decide ((j.w.msgdst.toNat ||| v) < 512)), setting (2 ^ 32 - 1) (fun _ _ v => decide (v < 2 ^ 32)),
      setting 1 (fun _ _ v => decide (v < 2)), setting (2 ^ 32) (fun s j v => decide (64 ≤ v ∧ 2 ^ 32 ≤ v ∧ 2 ≤ v)
        && decide (512 ≤ (j.w.msgdst ||| j.uval s 0x54).toNat)),
      meters (5 + 3 * 1024) (fun s j v => decide (v < 4096 ∧ v % 1024 ≠ 0) && (mget (s.nodeOf j.w).region.meter (v % 1024)).isSome),
      meters 4096 (fun _ _ v => decide (4096 ≤ v)), meters 6 (fun s j v => (mget (s.nodeOf j.w).region.meter (v % 1024)).isNone)]
    ∧ (small id).issue.any (fun j => !(csrAccess 0x200 j.w.handler).read && !(csrAccess 0x060 j.w.handler).write
        && !(csrAccess 0x060 j.w.handler).set) = true :=
  ⟨witnesses_of (by decide +kernel), witnesses_of (by decide +kernel), witnesses_of (by decide +kernel), witnesses_of (by decide +kernel),
   by decide +kernel⟩

theorem witness_Messages :
    Witnesses [(small id, n4, fun s j => s.wgs.any (fun e => e.2.status != .ended && e.2.status != .saved
        && (s.node e.2.node).region.rcb == (s.nodeOf j.w).region.rcb && (mget e.2.cores j.w.msgdst.toNat).isSome)
      && decide ((s.transit.filter (fun m => m.dst == j.w.msgdst.toNat)).length + j.lanes.length ≤ 64)),
      (small (fun w => { w with msgdst := 5 }), n4, fun s j => s.wgs.all (fun e => (mget e.2.cores j.w.msgdst.toNat).isNone)),
      (small id, fun _ _ => { dst := [6] }, plain)]
    ∧ (let m : Message := { dst := 0, src := 3, region := 0, value := 7 }
       let s := { small id with transit := [m] }
       s.transit.find? (fun m => m.dst == 0 && !s.awayFrom 0 m.region) = some m ∧ (s.fifo.filter (fun x => x.dst == 0)).length < 64)
    ∧ 64 ≤ ((List.replicate 64 ({ dst := 0, src := 3, region := 0, value := 7 } : Message)).filter (fun x => x.dst == 0)).length
    ∧ (let m : Message := { dst := 0, src := 3, region := 0, value := 7 }
       let s := { small (lane3 (.message 6 0)) with fifo := [m] }
       s.nextReader 0 = some (2, [3], 6, [m])) :=
  ⟨witnesses_of (by decide +kernel), by decide +kernel, by decide +kernel, by decide +kernel⟩

/-- A fault of lane 3. -/
def fault3 : FaultInfo := { cls := 0x14, addr := 5, lanes := [3], eng := some { epc := 1, tlnum := 2, ctx := 1, jaddr := 2 ^ 40 - 16 } }

theorem witness_FaultRecord : fault3.cls < 2 ^ 8 ∧ fault3.kind < 16 ∧ (∀ l ∈ fault3.lanes, l < 32)
    ∧ fault3.eng.all (fun e => decide (e.ctx < 4 ∧ e.jaddr < 2 ^ 40 ∧ e.tlnum < 2 ^ 64 ∧ e.epc.toNat < 2 ^ 56)) = true
    ∧ ((small id).warp 2).any (fun w => decide (w.index < 512 ∧ w.depth ≤ 4 ∧ ((small id).nodeOf w).region.pasid < 2 ^ 20)) = true := by
  decide +kernel

/-- A started workgroup whose region's handler is its own first word. -/
def guarded (w fdp : Nat) (f : Warp → Warp) : State :=
  (started w f).modNode 0 (fun n => { n with region := { n.region with handler := BitVec.ofNat 64 probeVa, fdp := fdp } })

/-- Warp 2 of a state, and what p says of it. -/
def of2 (s : State) (p : Warp → Bool) : Bool := (s.warp 2).any p

theorem witness_HandlerEntries :
    (let s := guarded 0x8BFE1C03 0 (fun w => hinted { first := BitVec.ofNat 64 probeVa } w)
     of2 s (fun w => !s.halted.elem w.core && !w.handler && !fault3.fatal && (s.nodeOf w).region.handler != 0
      && (s.nodeOf w).region.handler.toNat % 4 == 0 && w.wants.isNone
      && yields (s.fetchAt w (BitVec.ofNat 64 (s.nodeOf w).region.handler.toNat) true) (fun v => v == 0x8BFE1C03#32)
      && ((s.cancelWaits 2).touchFetch w (BitVec.ofNat 64 (s.nodeOf w).region.handler.toNat)).warps == s.warps
      && (w.lane 9).hint.isNone && (w.lane 9).rpc.isNone && (w.lane 3).hint.any (fun x => x.firstR.isNone)) = true)
    ∧ [none, some (7#512)].all (fun h =>
       let s := { guarded 0x8BFE1C03 0 (fun w => { w with held := h }) with halted := [0] }
       of2 s (fun w => s.halted.elem w.core && w.held == h)) = true := by decide +kernel

theorem witness_NestedFaults : of2 (small (handling 0x1000)) (fun w => w.handler && !(small (handling 0x1000)).halted.elem w.core) = true := by
  decide +kernel

/-- The warp holds a fault. -/
def holds (r : BitVec 512) (w : Warp) : Warp := { w with held := some r }

theorem witness_FaultDomains :
    of2 (small id) (fun w => !(small id).halted.elem w.core && ((small id).nodeOf w).region.handler == 0) = true
    ∧ of2 (guarded 0 2 id) (fun w => !handlerOk (guarded 0 2 id) w ((guarded 0 2 id).nodeOf w).region.handler.toNat) = true
    ∧ (let s := { small (holds 20) with halted := [0] }
       of2 s (fun w => w.held == some 20 && s.halted.elem w.core) = true)
    ∧ (let s := guarded 0x8BFE1C03 0 (holds 20)
       of2 s (fun w => w.held == some 20 && !s.halted.elem w.core && !w.handler && !(20#512).getLsbD 11
        && (s.nodeOf w).region.handler != 0 && handlerOk s w (s.nodeOf w).region.handler.toNat) = true)
    ∧ (∀ n ∈ [0, 1, 2],
       let s := guarded 0x8BFE1C03 n (fun w => holds 20 { w with handler := true })
       of2 s (fun w => w.held == some 20 && !s.halted.elem w.core && w.handler && (s.nodeOf w).region.fdp == n) = true) := by decide +kernel

/-- What a SYS word uses. -/
def system (_ : State) (_ : Iss) : Uses := { sys := true }

theorem witness_SoftwareTraps : Witnesses [(small id, system, fun s j => (s.nodeOf j.w).region.handler == 0 && !s.halted.elem j.w.core
    && j.w.depth == 0)] := witnesses_of (by decide +kernel)

theorem witness_Breakpoints :
    Witnesses [({ small id with bar := [(0x2300, BitVec.ofNat 64 (2 ^ 63))] }, system, fun s j => (s.reg 0x2300).getLsbD 63
        && (s.reg 0x2300).toNat % 2 ^ 20 == (s.nodeOf j.w).region.pasid),
      (small id, system, fun s _ => (List.range 4).all (fun n => !(s.reg (0x2300 + 8 * n)).getLsbD 63))]
    ∧ (let s := { small id with halted := [0] }
       of2 s (fun w => s.halted.elem w.core && decide (3 < w.lanes.length)) = true) := ⟨witnesses_of (by decide +kernel), by decide +kernel⟩

/-- What ERET uses. -/
def erets (_ : State) (i : Iss) : Uses := { sys := true, legal := i.w.handler }

/-- The frame of a warp in its handler holds one lane, at an address, and p holds of its levels. -/
def framed (w : Warp) (pc : Word) (p : List Level → Bool) : Bool :=
  w.frame.any (fun f => f.lanes.map (fun e => (e.1, e.2.pc)) == [(3, pc)] && p f.levels)

theorem witness_HandlerReturn :
    Mets [(started 0 (handling (BitVec.ofNat 64 probeVa)), 0, erets, fun s _ m => framed m.w (BitVec.ofNat 64 probeVa) (fun ls => ls.all (fun v => !v.active))
        && yields (s.fetchAt m.w (BitVec.ofNat 64 probeVa) false) (fun _ => true) && (s.jigOf m.w).isNone && (m.w.lane 3).live),
      (started 0 (handling 6), 0, erets, fun s _ m => framed m.w 6 (fun _ => true) && (resumeFault s m.w [(3, 6)]).isSome),
      (started 0 (fun w => let v := handling (BitVec.ofNat 64 probeVa) w
          { v with frame := v.frame.map (fun (f : Frame) => { f with levels := (level 0x1020 0x1000 0 0 1 w).levels }) }), 0, erets, fun s _ m =>
        framed m.w (BitVec.ofNat 64 probeVa) (fun ls => (brokenLevel ls (m.named s)).isSome)
          && (resumeFault s m.w [(3, BitVec.ofNat 64 probeVa)]).isNone)] := mets_of (by decide +kernel)

theorem witness_HostRegisters :
    (invOk ((0 : BitVec 64) ++ State.reset.invLow) = true ∧ State.reset.invReqs.length < 64)
    ∧ 64 ≤ ({ State.reset with invReqs := List.replicate 64 (0, 0) } : State).invReqs.length
    ∧ invOk ((0 : BitVec 64) ++ ({ State.reset with invLow := 44 } : State).invLow) = true
    ∧ invOk ((0 : BitVec 64) ++ ({ State.reset with invLow := 45 } : State).invLow) = false
    ∧ State.reset.invWaits 0 0 = false ∧ (({ State.reset with invReqs := [(0, 0)] } : State).invSpaces 0 = [])
    ∧ (flying { flight .fence 0 [] with id := 8, pages := [(12, 5)] } id).invWaits (2 ^ 6 + 2 ^ 7) 9 = true
    ∧ (let l : Line := { idx := 5, data := 0, valid := 1, dirty := 1, users := [{ region := 0, pasid := 0, page := 3 }] }
       ({ small id with l1 := [(0, [l])], invs := [(1, 5)] } : State).invLocked (2 ^ 6 + 2 ^ 7) = true
        ∧ ({ small id with l1 := [(0, [l])] } : State).invLocked (2 ^ 6 + 2 ^ 7) = false ∧ State.reset.invLocked 0 = false)
    ∧ (State.reset.enabled = false ∧ State.reset.ready = true) ∧ ({ State.reset with enabled := true } : State).enabled = true
    ∧ (0x101 % 8 ≠ 0 ∧ 0x100 % 8 = 0 ∧ 0x148 % 8 = 0 ∧ 0x800 % 8 = 0 ∧ 0xFF8 % 8 = 0 ∧ 0x1000 % 8 = 0 ∧ 0x13F8 % 8 = 0 ∧ 0x2318 % 8 = 0)
    ∧ (let bad := fun (v w : BitVec 64) => v.toNat / 2 ^ 63 = 1 ∧ (2 ^ 19 ≤ w.toNat ∨ v.toNat / 2 ^ 40 % 2 ^ 21 ≠ 0 ∨ v.toNat / 2 ^ 19 % 2 ^ 13 ≠ 0
          ∨ w.toNat = 0 ∨ 393216 < v.toNat % 2 ^ 19 + w.toNat)
       bad (BitVec.ofNat 64 (2 ^ 63)) 0 ∧ ¬ bad (BitVec.ofNat 64 (2 ^ 63)) 393216 ∧ bad (BitVec.ofNat 64 (2 ^ 63)) 393217)
    ∧ (let s := { State.reset with cycle := 2 ^ 20 }
       (∃ p < 24, (1#64).getLsbD p = true) ∧ ∀ p < 24, (1#64).getLsbD p = true → (s.port p).rate = 0 ∧ (s.port p).since + 2 ^ 20 ≤ s.cycle) := by
  decide +kernel

/-- An entry of the export table of s gives a peer what right asks over n bytes from pa on. -/
def Exports (s : State) (pa n peer : Nat) (right : Nat → Prop) : Prop := ∃ e < 64, ∃ b z : Nat,
  let lo := (s.reg (0x1000 + 16 * e)).toNat
  let hi := (s.reg (0x1008 + 16 * e)).toNat
  b = lo % 2 ^ 19 ∧ z = hi ∧ 1 ≤ z ∧ b + z ≤ 393216 ∧ lo / 2 ^ 19 % 2 ^ 13 = 0 ∧ lo / 2 ^ 40 % 2 ^ 21 = 0 ∧ lo / 2 ^ 63 = 1
    ∧ lo / 2 ^ 32 % 2 ^ 8 = peer ∧ right lo ∧ b * 2 ^ 21 ≤ pa ∧ pa + n ≤ (b + z) * 2 ^ 21

/-- Peer 7 may read and write the first 2 MiB. -/
def exported : State := { State.reset with bar := [(0x128, 0x10000000), (0x1000, BitVec.ofNat 64 (2 ^ 63 + 2 ^ 62 + 2 ^ 61 + 7 * 2 ^ 32)), (0x1008, 1)] }

/-- Entry 0 of the table is the one. -/
theorem exports_of {s : State} {pa n peer : Nat} {right : Nat → Prop} (b z : Nat) (h : let lo := (s.reg 0x1000).toNat
    let hi := (s.reg 0x1008).toNat
    b = lo % 2 ^ 19 ∧ z = hi ∧ 1 ≤ z ∧ b + z ≤ 393216 ∧ lo / 2 ^ 19 % 2 ^ 13 = 0 ∧ lo / 2 ^ 40 % 2 ^ 21 = 0 ∧ lo / 2 ^ 63 = 1
      ∧ lo / 2 ^ 32 % 2 ^ 8 = peer ∧ right lo ∧ b * 2 ^ 21 ≤ pa ∧ pa + n ≤ (b + z) * 2 ^ 21) : Exports s pa n peer right :=
  ⟨0, by decide, b, z, h⟩

/-- Where bit 63 of no entry is set, the table gives nothing. -/
theorem exports_none {s : State} {pa n peer : Nat} {right : Nat → Prop}
    (h : ∀ e, e < 64 → ¬ (s.reg (0x1000 + 16 * e)).toNat / 2 ^ 63 = 1) : ¬ Exports s pa n peer right := by
  intro x
  have ⟨e, he, _, _, hx⟩ := x
  exact h e he hx.2.2.2.2.2.2.1

theorem witness_OutsideAccesses :
    (State.reset.booted = true ∧ deviceBytes - 4 + 4 ≤ deviceBytes ∧ deviceBytes ≤ State.reset.bar2 * 2 ^ 30 ∧ deviceBytes < deviceBytes - 4 + 5
      ∧ ({ State.reset with bar2 := 1 } : State).bar2 * 2 ^ 30 < 2 ^ 30 - 4 + 5)
    ∧ Exports exported (2 ^ 21 - 8) 8 7 (fun lo => lo / 2 ^ 61 % 2 = 1 ∧ lo / 2 ^ 62 % 2 = 1) ∧ exported.rangePoison (2 ^ 21 - 8) 8 = false
    ∧ ¬ Exports State.reset 0 8 7 (fun _ => True) :=
  ⟨by decide, exports_of 0 1 (by decide +kernel), by decide +kernel, exports_none (by decide +kernel)⟩

theorem witness_LinksAndErrors :
    (let s := { State.reset with bar := [(0x128, 0x10000000), (0x838, 1)], cycle := 2 ^ 20 }
     (∃ p < 24, (s.reg 0x838).getLsbD p = true)
      ∧ ∀ p, p < 24 → (s.reg 0x838).getLsbD p = true → (s.port p).rate = 0 ∧ (s.port p).since + 2 ^ 20 ≤ s.cycle)
    ∧ (let s := { State.reset with bar := [(0x128, 0x10000000), (0x838, 1)], cycle := 2 ^ 20 - 1 }
       ¬ ∀ p, p < 24 → (s.reg 0x838).getLsbD p = true → (s.port p).rate = 0 ∧ (s.port p).since + 2 ^ 20 ≤ s.cycle)
    ∧ (({ State.reset with ports := [(23, { rate := 2 })] } : State).port 23).rate ≠ 0 ∧ (State.reset.port 23).rate = 0
    ∧ (State.reset.reg 0x2200).toNat < 2 ^ 32
    ∧ ({ State.reset with poison := [64] } : State).rangePoison 64 32 = true ∧ State.reset.rangePoison 64 32 = false
    ∧ 32 * 4 + 32 ≤ (({ State.reset with bar := [(0x128, 0x10000000), (0x140, 160)] } : State).reg 0x140).toNat
    ∧ (State.reset.reg 0x140).toNat + 128 * 2 ^ (State.reset.reg 0x148).toNat ≤ 32 * 4
    ∧ (isCached 0x4000 = true ∧ State.reset.isPoison 0x4000 = false ∧ isCached (scratchFlat 1 0x400) = false
        ∧ ({ State.reset with poison := [0x4000] } : State).isPoison 0x4000 = true ∧ ({ State.reset with poison := [0x4000] } : State).copied 0 0 0x4000 = false
        ∧ (State.reset.reg 0x140).toNat + 128 * 2 ^ (State.reset.reg 0x148).toNat ≤ 0x4000 / 32 * 32)
    ∧ of2 (small id) (fun w => decide (3 < w.lanes.length) && !(mgetD (w.lane 3).regs 5 {}).poison) = true
    ∧ of2 (small (fun w => w.modLane 3 (fun x => x.setReg 5 { bits := 1, poison := true }))) (fun w => (mgetD (w.lane 3).regs 5 {}).poison) = true := by
  decide +kernel

theorem witness_ResetsAndLimits :
    (let s := (small id).modNode 0 (fun n => { n with region := { n.region with chain := [0x310000] } })
     (mget s.nodes 0).any (fun n => n.region.chain != [] && n.status == .placed) = true ∧ (mget s.wgs 1).any (fun x => x.node == 0) = true)
    ∧ (State.reset.tripped = false ∧ (960#64).toNat ≤ 960 ∧ 960 < (961#64).toNat)
    ∧ (let s := { State.reset with tripped := true, agenda := [Instr.clockCycle] }
       s.tripped = true ∧ s.cur.go = false ∧ s.second = none ∧ s.turns = [] ∧ s.agenda = [Instr.clockCycle] ∧ ∀ b, Instr.clockCycle ≠ .coldReset b) := by
  refine ⟨by decide +kernel, by decide, ?_⟩
  exact ⟨rfl, rfl, rfl, rfl, rfl, fun _ h => nomatch h⟩

/-- The turn of core 0 has come; its warp stands at two words ADD r4, r5, r6, and is changed by f. -/
def turn (f : Warp → Warp) : State := put { started 0x0440A1A0 f with turns := [0], cur := { warp := 2, lanes := 0 } } 0x200004 4 0x0440A1A0

/-- The turn is not withheld, and what the trial of its words leaves is as q says. -/
def atTurn (s : State) (q : State → Bool) : Bool :=
  !s.cur.go && s.second == none && s.turns == [0] && s.nodes.all (fun e => decide (e.2.region.prio ≤ 11)) && !s.tripped && !s.throttled
    && q (({ s with turns := [] } : State).probeCore State.issueStep 0)

/-- Half of the lanes stand at the second word. -/
def halves (w : Warp) : Warp := w.modLanes (List.range 16) (fun _ x => { x with pc := BitVec.ofNat 64 (probeVa + 4) })

/-- The group in progress waits for register 5 of each lane, or does not. -/
def grouped (wait : Bool) (w : Warp) : Warp :=
  w.modLanes (List.range 32) (fun _ x => { x.setReg 5 { bits := 0, pend := if wait then some 9 else none } with hint := some { first := BitVec.ofNat 64 probeVa } })

/-- The priorities that the trial of the words finds are those that a region may have. -/
def ranked (s : State) : Bool := s.warps.all (fun e => decide (s.prioOf e.2 ≤ 11))

theorem witness_Cycles :
    ((∀ o ∈ State.reset.arrays, o.chosen = []) ∧ ∀ d ∈ State.reset.drains, d.started = [])
    ∧ (let s := { turn id with throttled := true, cycle := 2 }
       s.cur.go = false ∧ s.second = none ∧ s.turns = [0] ∧ s.throttled = true ∧ s.cycle % 2 = 0)
    ∧ [atTurn (turn (grouped false)) (fun s => (s.groupOn 0).any (fun g => (g.2.1.leadOf g.2.2).blocked == 0)),
       atTurn { turn (grouped true) with ops := [flight (.load 5) 0 []] } (fun s => (s.groupOn 0).any (fun g => (g.2.1.leadOf g.2.2).blocked != 0)),
       atTurn (turn (fun w => { w with ended := true })) (fun s => (s.groupOn 0).isNone && s.contenders 0 == []),
       atTurn (turn id) (fun s => (s.groupOn 0).isNone && s.contenders 0 != [] && ranked s),
       atTurn (turn halves) (fun s => (s.choosePorts 0).second.isSome && ranked s),
       atTurn (turn (fun w => { w with away := 1 })) (fun s => s.contenders 0 == [])].all id = true
    ∧ (let s := { turn id with second := some { warp := 2, lanes := 1, pc := BitVec.ofNat 64 probeVa, run := BitVec.ofNat 64 probeVa } }
       s.cur.go = false ∧ of2 s (fun w => !w.ended && w.held == none && (w.lane 0).live && (w.lane 0).pc == BitVec.ofNat 64 probeVa
        && (w.lane 0).runPc == BitVec.ofNat 64 probeVa && (w.lane 0).park == .no) = true) := by decide +kernel

/-- Reset with a meter command at 0x4000, and what f adds. -/
def commanded (v : Nat) (f : State → State) : State := f (put { State.reset with meterCmds := [0x4000] } 0x4000 64 v)

/-- A live instance in slot 3. -/
def live3 (s : State) : State := { s with meters := [(3, { inst := 7 })] }

theorem witness_MeterCommands :
    (let s := commanded (1 + 3 * 2 ^ 16 + 2 ^ 32 + 0x5000 * 2 ^ 320) id
     s.meterCmds = [0x4000] ∧ physOk 0x4000 = true ∧ s.ready = true ∧ s.reports.length < 64 ∧ s.cmdBad 0x4000 = false ∧ s.cmd 0x4000 0 8 = 1 ∧ s.cmd 0x4000 16 10 = 3
      ∧ mget s.meters 3 = none)
    ∧ (commanded (1 + 3 * 2 ^ 16) id).cmdBad 0x4000 = true ∧ (commanded 1 (fun s => { s with ready := false })).ready = false
    ∧ (let s := commanded (1 + 3 * 2 ^ 16 + 2 ^ 32 + 0x5000 * 2 ^ 320) live3
       s.cmdBad 0x4000 = false ∧ (mget s.meters 3).isSome = true)
    ∧ (let s := commanded (2 + 3 * 2 ^ 16) live3
       s.cmdBad 0x4000 = false ∧ s.cmd 0x4000 0 8 = 2 ∧ mget s.meters 3 = some { inst := 7 } ∧ s.reports.length < 64)
    ∧ 64 ≤ (commanded (2 + 3 * 2 ^ 16) (fun s => { live3 s with reports := List.replicate 64 { body := 0, slot := 3 } })).reports.length
    ∧ (let s := commanded (3 + 3 * 2 ^ 16) live3
       s.cmdBad 0x4000 = false ∧ s.cmd 0x4000 0 8 = 3 ∧ mget s.meters 3 = some { inst := 7 })
    ∧ (let s := commanded (4 + 3 * 2 ^ 16 + 0x6000 * 2 ^ 384 + 0x8000 * 2 ^ 448) id
       s.cmdBad 0x4000 = false ∧ s.cmd 0x4000 0 8 = 4 ∧ mget s.meters 3 = none)
    ∧ (let s := { State.reset with meters := [(3, { inst := 7, sealing := true })] }
       mget s.meters 3 = some { inst := 7, sealing := true } ∧ (∀ g ∈ s.wgs, g.2.status = .ended) ∧ s.reports.length < 64
        ∧ physOk 0 = true ∧ 0 % 64 = 0)
    ∧ (let s := { State.reset with reports := [{ body := 0, slot := 3 }], enabled := true }
       s.reports = [{ body := 0, slot := 3 }] ∧ (s.reg 0x138).toNat ≤ 12 ∧ s.enabled = true ∧ (∀ e ∈ s.meters, e.2.due = false) ∧ s.lost = []
        ∧ (s.reg 0x38).toNat - (s.reg 0x40).toNat < 2 ^ (s.reg 0x138).toNat) := by decide +kernel

/-- The smallest image: one code word, no constants, no keys, named a. -/
def image : Nat :=
  0x58463441 + 2 ^ 32 + 32 * 2 ^ 56 + 128 * 2 ^ 192 + 4 * 2 ^ 224 + 136 * 2 ^ 256 + 136 * 2 ^ 320 + 128 * 2 ^ 384 + 128 * 2 ^ 416 + 97 * 2 ^ 512
    + 0x8FFE1C02 * 2 ^ 1024

/-- In service, with PASID 0 mapping one page, readable and writable, at device address 0x200000; a queue table of 64 slots at 0x400000. -/
def served : State :=
  { State.reset with
    enabled := true,
    mem := [(0x100000, 0x101001), (0x101000, 0x102001), (0x102000, 0x103001), (0x103A00, 0x104001), (0x104000, 0x105001),
            (0x105000, 0x2000AF)].foldl (fun m (e : Nat × Nat) => pokeList m e.1 (bytesLE 8 e.2)) [],
    bar := [(0x100, 0x400000), (0x108, 6), (0x110, 0x100000), (0x118, 4), (0x128, 0x10000000)] }

/-- A registration record at 0x300000 of the image at the mapped page, and what it is changed by. -/
def record (v : Nat) : State :=
  put (put { served with regCmds := [0x300000] } 0x200000 136 image) 0x300000 64 v

/-- The image that a registration reads. -/
def readOf (s : State) (x : List Nat × List Via) : List Byte := x.1.map (({ s with regCmds := [] } : State).hubTouch 0 false x.2).peek

/-- Its code of four bytes can be placed. -/
def placedAt (s : State) (x : List Nat × List Via) (va : Nat) : Bool :=
  (walkBytes ((({ s with regCmds := [] } : State).hubTouch 0 false x.2).deviceWrite 0x300040 (bytesLE 64 (sha3 (readOf s x)).toNat)) 0 va 4 2).isSome

/-- How a registration's image comes out: it can be read, it keeps its rules, and its code can be placed. -/
def registers (s : State) (n : Nat) (ok : Bool) (place : Option (Nat × Bool)) : Bool :=
  s.regCmds == [0x300000] && physOk 0x300000 && s.enabled && (walkBytes { s with regCmds := [] } 0 probeVa n 2).any (fun x =>
    imageOk (readOf s x) == ok && place.all (fun p => placedAt s x p.1 == p.2))

theorem witness_Registrations :
    registers (record (probeVa * 2 ^ 192 + 136 * 2 ^ 256 + probeVa * 2 ^ 320)) 136 true (some (probeVa, true)) = true
    ∧ registers (record (probeVa * 2 ^ 192 + 136 * 2 ^ 256)) 136 true (some (0, false)) = true
    ∧ registers (record (probeVa * 2 ^ 192 + 128 * 2 ^ 256)) 128 false none = true
    ∧ walkBytes { record (136 * 2 ^ 256) with regCmds := [] } 0 0 136 2 = none
    ∧ (record 0).num 0x300000 128 / 2 ^ 256 % 2 ^ 32 = 0 ∧ State.reset.enabled = false := by decide +kernel

/-- A queue for PASID 0, number 5, with a slot, whose ring is the mapped page, with a packet p at RDIDX 0. -/
def queued (p : Nat) : State :=
  put (put { served with slots := [{ qcb := 0x400000 + 64 * ((5 % 2 ^ 32) / 2 ^ 26) }] } 0x400000 64
    (5 + 2 ^ 61 + 2 ^ 63 + probeVa * 2 ^ 64 + 2 ^ 128 + 0x310000 * 2 ^ 192)) 0x200000 128 p

/-- The turn of the queue has come, its QCB is well formed, and its packet is p, with a good header or not. -/
def turns (p : Nat) (good : Bool) : Bool :=
  (queued p).turn 0 == some 0x400000 && (queued p).qcbOk 0x400000 && headerOk p == good
    && ((queued p).packetOf 0x400000).any (fun x => x.2.1 == p && x.1.queueWait == [] && (x.1.creditOf 0 5 0).isNone)

/-- A WAIT for 7 at an address. -/
def waits (va : Nat) : Nat := 2 + 2 ^ 8 + va * 2 ^ 64 + 7 * 2 ^ 128

/-- How the read of the queue's WAIT ends. -/
def reads (s : State) (va n : Nat) : Bool :=
  match s.waitRead 0 va with
  | .value v u => v == n && u.queueWait == [] && (u.creditOf 0 5 0).isNone
  | _ => false

/-- What becomes of the queue at 0x400000 when its doorbell is rung with 1: it has a slot, takes one, waits for one, or is malformed. -/
def rung (s : State) : Nat :=
  let u := s.setWrIdx 0x400000 1
  if u.qcb 0x400000 61 2 == 3 then 4
  else if !u.qcbOk 0x400000 then 3
  else if u.rdIdx 0x400000 == u.wrIdx 0x400000 || s.queueWait != [] || s.parked.any (fun e => e.isOf u 0x400000) then 4
  else if s.slots.any (fun x => x.qcb == 0x400000) then 0
  else if s.slots.length < 128 then 1 else 2

/-- The queue is parked at a WAIT, in STATE 2, and its address is due to be walked again. -/
def parkedAt (va qnum : Nat) : State :=
  { put (put (queued (waits va)) 0x400007 1 (4 * 32 / 2 + 128)) 0x200080 8 6 with
    parked := [{ qcb := 0x400000, pasid := 0, qnum := qnum, addr := va, due := 9 }], cycle := 9, slots := [] }

/-- How the walk of a parked queue goes: the page is absent, the read fails, the queue is gone, or it goes on. -/
def walks (s : State) (va qnum : Nat) : Nat :=
  match s.waitRead 0 va with
  | .absent => 1
  | .broken => 2
  | .value _ _ =>
    match s.findQueue 0 qnum with
    | none => 3
    | some x =>
      let g := ({ s with parked := [] } : State).setQState x 0
      if physOk x && x % 64 == 0 && s.qcb x 61 2 == 2 && g.qcbOk x && g.rdIdx x != g.wrIdx x && s.slots == [] && s.queueWait == [] then 4 else 5

/-- A queue table whose first eight slots are taken by others, and what f adds. -/
def crowded (f : State → State) : State := (List.range 8).foldl (fun s i => put s (0x400000 + 64 * i) 8 (2 ^ 63)) (f served)

/-- How the read of a WAIT ends where it gives no value. -/
def broken (s : State) (va : Nat) (absent : Bool) : Bool :=
  match s.waitRead 0 va with
  | .absent => absent
  | .broken => !absent
  | .value _ _ => false

theorem witness_HostQueues :
    (served.enabled = true ∧ (5 + 2 ^ 16 < 2 ^ 48) ∧ served.probe 0 5 0 8 = .empty ∧ (queued 0x100).probe 0 5 0 8 = .found 0x400000
      ∧ (crowded id).probe 0 5 0 8 = .more)
    ∧ (let s := { queued 0x100 with walks := [(0, 5)] }
       s.walks = [(0, 5#64)] ∧ s.probe 0 5 8 (2 ^ (s.reg 0x108).toNat) = .empty)
    ∧ (let s := crowded (fun s => put { s with walks := [(0, 5)] } 0x400200 64 (5 + 2 ^ 61 + 2 ^ 63 + probeVa * 2 ^ 64 + 2 ^ 128 + 0x310000 * 2 ^ 192))
       s.walks = [(0, 5#64)] ∧ s.probe 0 5 8 (2 ^ (s.reg 0x108).toNat) = .found 0x400200)
    ∧ [rung (queued 0), rung { queued 0 with slots := [] }, rung { queued 0 with slots := List.replicate 128 { qcb := 1 } },
       rung (put (queued 0) 0x400006 1 16)] = [0, 1, 2, 3]
    ∧ [turns 0x100 true, turns (1 + 2 * 2 ^ 8 + 2 ^ 192 + 2 ^ 224) true, turns (waits (probeVa + 128)) true, turns 0x1FF false].all id = true
    ∧ (nodeRecordOk (1 + 2 * 2 ^ 8 + 2 ^ 192 + 16384 * 2 ^ 224) = true ∧ nodeRecordOk (1 + 2 * 2 ^ 8 + 2 ^ 192 + 16385 * 2 ^ 224) = false)
    ∧ [reads (put (queued 0) 0x200080 8 7) (probeVa + 128) 7, reads (put (queued 0) 0x200080 8 6) (probeVa + 128) 6,
       broken (queued 0) 0x1000 true, broken (queued 0) (2 ^ 56) false].all id = true
    ∧ (let x : QSlot := { qcb := 0x400000, waiting := true, since := 5 }
       ¬ x.since + 4096 ≤ 4100 ∧ x.since + 4096 ≤ 4101)
    ∧ [walks (parkedAt 0x1000 5) 0x1000 5, walks (parkedAt (2 ^ 56) 5) (2 ^ 56) 5, walks (parkedAt (probeVa + 128) 6) (probeVa + 128) 6,
       walks (parkedAt (probeVa + 128) 5) (probeVa + 128) 5] = [1, 2, 3, 4]
    ∧ (parkedAt (2 ^ 56) 5).findQueue 0 5 = some 0x400000 := by decide +kernel

theorem witness_NodeCompletion :
    (let n : Node := { status := .placed, grid := 1, next := 1, mval := 7 }
     let s := { served with nodes := [(0, n)], wgs := [(1, { node := 0, status := .ended })] }
     mget s.nodes 0 = some n ∧ n.grid ≤ n.next ∧ n.flushed = [] ∧ (∀ g ∈ s.wgs, g.2.status = .ended ∧ g.2.cores = [])
      ∧ s.crediting = [] ∧ n.nsucc = 0 ∧ s.arenas = [])
    ∧ (let n : Node := { status := .placed, grid := 1, next := 1, mval := 7, maddr := BitVec.ofNat 64 probeVa }
       let s := { served with nodes := [(0, n)] }
       (match hubReach s.publish 0 probeVa 8 .store 2 with
        | .ok r => decide r.flats.Nodup && r.flats.all (fun f => !s.lostAt (f / 128 * 128) && !s.lostAt f)
        | .error _ => false) = true)
    ∧ (let n : Node := { status := .held, packet := some (5, 9), pred := 2 }
       let s := { served with nodes := [(0, n)] }
       s.nodes.find? (fun x => x.2.status == .held && x.2.pasid == 0 && x.2.packet == some (5, 9)) = some (0, n) ∧ mget s.nodes 0 = some n
        ∧ (5 + 9 * 2 ^ 16 < 2 ^ 48))
    ∧ (let s := queued 0
       s.findQueue 0 5 = some 0x400000 ∧ (2 ^ 31 - 1 + 2 ^ 32 - s.rdIdx 0x400000) % 2 ^ 32 < 2 ^ 31 ∧ s.creditOf 0 5 (2 ^ 31 - 1) = none
        ∧ s.nodes = [] ∧ s.pending < 4096)
    ∧ (let s := { queued 0 with credits := List.replicate 4096 { pasid := 1, qnum := 5, index := 0, count := 1 } }
       s.creditOf 0 5 0 = none ∧ 4096 ≤ s.pending) := by decide +kernel

/-- An RCB at 0x310000: DQCAP 1, no limits, a private arena of one page at the mapped page, a save arena of 100 pages at 0x600000, and x. -/
def region (s : State) (x : Nat) : State :=
  put s 0x310000 128 (0xFF * 2 ^ 160 + 0xFFFF * 2 ^ 176 + 0xFFFFFFFF * 2 ^ 192 + 2 ^ 384 + probeVa * 2 ^ 576 + 2 ^ 640 + 0x600000 * 2 ^ 672
    + 100 * 2 ^ 728 + x)

/-- A node that is ready, of a kernel registered at the mapped page. -/
def readyNode (f : Node → Node) : State :=
  put { region served 0 with
        kernels := [{ kref := 0x200100, named := 32 }],
        nodes := [(0, f { status := .ready, rcb := 0x310000, kref := BitVec.ofNat 64 (probeVa + 0x100), grid := 1, wgsize := 8 })] } 0x20013F 1 1

/-- A node waits for its argument copy. -/
def copying (argp : Nat) : Node :=
  { status := .copying, argp := BitVec.ofNat 64 argp, kernel := { args := 8 }, region := { rcb := 0x310000, arenaOf := 0x310000 } }

theorem witness_Admission :
    ((readyNode id).nextAdmission = some 0 ∧ ((readyNode id).judge ((readyNode id).node 0)).2 = [])
    ∧ ((readyNode (fun n => { n with rcb := 1 })).nextAdmission = some 0
        ∧ ((readyNode (fun n => { n with rcb := 1 })).judge ((readyNode (fun n => { n with rcb := 1 })).node 0)).2 ≠ [])
    ∧ State.reset.nextAdmission = none ∧ State.reset.rcbChain 1 8 = none
    ∧ (let s := readyNode (fun n => n)
       let c := { s with kernels := [{ kref := 0x200100, named := 32, constSize := 16 }] }
       (c.judge (c.node 0)).2 = [] ∧ (c.judge (c.node 0)).1.kernel.constSize = 16 ∧ (c.judge (c.node 0)).1.kernel.args = 0)
    ∧ ([5] : List Nat) ≠ [] ∧ 0 + 16 ≤ (List.replicate 16 (3 : Byte)).length
    ∧ (let s := readyNode id
       s.rcbChain 0x310000 8 = some [0x310000] ∧ s.rcbOk 0x310000 = true ∧ s.prioOk [0x310000] = true
        ∧ s.kernelOf 0 (s.regionOf [0x310000]).pasid 0 = none
        ∧ (s.kernelOf 0 (s.regionOf [0x310000]).pasid (BitVec.ofNat 64 (probeVa + 0x100))) = some { kref := 0x200100, named := 32 }
        ∧ 512 * Nat.min 32 (1536 / (32 + 16)) < 16385)
    ∧ (let s := region served (2 ^ 568)
       s.rcbChain 0x310000 8 = some [0x310000] ∧ s.rcbOk 0x310000 = true ∧ s.rcb 0x310000 568 2 = 1)
    ∧ (let s := { region served 0 with nodes := [(0, copying (probeVa + 8))] }
       s.nextCopy (probeVa / 4096) = some (0, copying (probeVa + 8)) ∧ mget s.nodes 0 = some (copying (probeVa + 8))
        ∧ (match hubReach s 0 (probeVa + 8) 8 .load 3, hubReach s 0 probeVa 8 .store 3 with
            | .ok _, .ok b => decide b.flats.Nodup && b.flats.all (fun f => !s.lostAt f && !s.lostAt (f / 128 * 128)
                && decide (f < 0x310000 + 95 ∨ 0x310000 + 99 ≤ f))
            | _, _ => false) = true)
    ∧ (let s := { region served 0 with nodes := [(0, copying (2 ^ 56))] }
       s.nextCopy (probeVa / 4096) = some (0, copying (2 ^ 56))
        ∧ (match hubReach s 0 (2 ^ 56) 8 .load 3 with
            | .error _ => true
            | .ok _ => false) = true) := by decide +kernel

/-- A node of the pool, of one workgroup of 40 threads. -/
def pooledNode : Node := { status := .pooled, grid := 1, wgsize := 40, region := { cmask := 1 } }

/-- A job for a kernel of one EXIT that reads its key. -/
def job : JigJob :=
  { id := 4, key := 0, kernel := { codeSize := 4, code := [0x8FFE1C02], args := 8, keys := [(0, [])] }, keys := [5], die := 0 }

/-- A workgroup of one warp that stands so, of a node with a save arena. -/
def leaving (st : WgStatus) (g : Wg → Wg) : State :=
  ({ region (small id) 0 with wgs := [(1, g { node := 0, size := 8, cores := [(0, 65536)], status := st })], poison := [] } : State).modNode 0
    (fun n => { n with region := { n.region with arenaOf := 0x310000, cmask := 1 } })

theorem witness_Placement :
    (let s := { served with nodes := [(0, pooledNode)] }
     s.nextPlaced = some (0, pooledNode) ∧ mget s.nodes 0 = some pooledNode ∧ pooledNode = s.live pooledNode ∧ s.savedOf 0 = []
      ∧ pooledNode.privPages = 0 ∧ pooledNode.nextWg = some 0
      ∧ s.placeable 0 pooledNode = some [0])
    ∧ served.nextPlaced = none
    ∧ (let m := { pooledNode with cores := true, grid := 2 }
       let s := { served with nodes := [(0, m)] }
       s.nextPlaced = some (0, m) ∧ m = s.live m ∧ s.savedOf 0 = [] ∧ (s.placeable 0 m).isSome = true ∧ (s.placeAll 0 0 3).isSome = true)
    ∧ (let s := leaving .saved (fun g => { g with saveArea := some (0x600, 7) })
       s.nextPlaced.isSome = true ∧ s.savedOf 0 = [1])
    ∧ (let s := { State.reset with jigJobs := [job] }
       s.jigJobs.find? (fun j => j.id == 4) = some job ∧ (s.jigEntry job 4096).special = true
        ∧ (({ s with jigJobs := [], serial := 1 } : State).evictFor (s.jigEntry job 4096).size 4097).any (fun u =>
            u.jigFits 4096 (s.jigEntry job 4096).size && decide (4096 + (s.jigEntry job 4096).size ≤ deviceBytes)) = true)
    ∧ (let s := { State.reset with jigJobs := [job], bar := [(0x128, 0)] }
       s.jigJobs.find? (fun j => j.id == 4) = some job ∧ (s.jigEntry job 4096).special = true
        ∧ ({ s with jigJobs := [], serial := 1 } : State).evictFor (s.jigEntry job 4096).size 4097 = none) := by decide +kernel

theorem witness_Preemption :
    (let n : Node := { status := .pooled, head := some 3 }
     let s := fun (c : Nat) => { State.reset with nodes := [(0, n)], cycle := c }
     mget (s 65539).nodes 0 = some n ∧ 3 + 65536 ≤ (s 65539).cycle ∧ ¬ 3 + 65536 ≤ (s 65538).cycle)
    ∧ (let s := leaving .draining (fun g => { g with request := some 64 })
       (s.wg 1).status = .draining ∧ (s.node (s.wg 1).node).expcyc ≤ s.elapsed 1 ∧ (s.wg 1).request = some 64)
    ∧ (let s := leaving .saving id
       s.quiet 1 = true ∧ (s.wg 1).status = .saving ∧ (s.wg 1).saveArea = none ∧ (s.wg 1).pools = [] ∧ (s.wg 1).absent = []
        ∧ s.someRun 0x310000 true ((s.saveSize 1 + 4095) / 4096) = true ∧ s.pagesFree 0x310000 true 0x600 ((s.saveSize 1 + 4095) / 4096) = true
        ∧ (s.warpsOf 1).Nodup ∧ of2 s (fun w => w.wg == 1 && w.wants == none && w.claim.count == 0) = true)
    ∧ (let s := leaving .saving (fun g => { g with saveArea := some (0x600, 100) })
       s.quiet 1 = true ∧ (s.saveSize 1 + 4095) / 4096 ≤ 100)
    ∧ (let s := put (leaving .saving id) (0x310000 + 91) 4 0
       s.quiet 1 = true ∧ (s.wg 1).saveArea = none ∧ s.someRun 0x310000 true ((s.saveSize 1 + 4095) / 4096) = false)
    ∧ (let s := leaving .flushing id
       s.quiet 1 = true ∧ (s.wg 1).status = .flushing ∧ (s.wg 1).pools = [] ∧ (mget s.nodes (s.wg 1).node).isSome = true)
    ∧ (let s := leaving .saved (fun g => { g with saveArea := some (0x600, 7), messages := [(0, 9, false)] })
       s.nextResumed = some 1 ∧ s.poison = [] ∧ (mget (s.wg 1).cores 0).isSome = true
        ∧ (s.warpsOf 1).Nodup ∧ of2 s (fun w => w.wg == 1 && w.lanes.length == 8) = true) := by decide +kernel

theorem witness_RoundTrip : (Instr.addi 4 0x71 10).wf = true ∧ (decode 0x144E200A#32).isOk = true := by decide +kernel

/-- What p says of the chosen issue of a state, once it has been touched. -/
def chosen (s : State) (p : State → Iss → Bool) : Bool :=
  s.cur.go && (({ s with cur := { s.cur with go := false } } : State).touchIssue).issue.any
    (p (({ s with cur := { s.cur with go := false } } : State).touchIssue))

theorem witness_StepRunsDecoded :
    [chosen (State.reset.withFetchWord 32 0x144E200A) (fun u j => yields (u.fetchLane j.w j.lead) (fun w => w == 0x144E200A#32 && (decode w).isOk)),
     chosen (State.reset.withFetchWord 32 0x00000000) (fun u j => yields (u.fetchLane j.w j.lead) (fun w => !(decode w).isOk)),
     chosen ((State.reset.withFetchWord 32 0).modWarp 2 (fun w => w.modLanes (List.range 32) (fun _ x => { x with pc := 0 })))
        (fun u j => match u.fetchLane j.w j.lead with
      | .ok _ => false
      | .error _ => true)].all id = true
    ∧ (State.reset.cur.go = false ∧ State.reset.second = none ∧ State.reset.turns = [] ∧ Instr.clockCycle.isWord = false
        ∧ State.reset.tripped = false)
    ∧ badModifier 0 = none ∧ badModifier 0xFE000200#32 = some 0 ∧ badModifier 0xFE000180#32 = some 0x180 := by decide +kernel

theorem witness_MemoryKept : Sound State.reset ∧ ∃ t, step State.reset = .next t := by
  refine ⟨?_, ?_⟩
  · unfold Sound; decide +kernel
  · have h : (match step State.reset with
      | .next _ => true
      | _ => false) = true := by decide +kernel
    split at h
    · exact ⟨_, by assumption⟩
    · cases h

theorem put_bytes (s : State) (a n v b k : Nat) (h : b + k ≤ a ∨ a + n ≤ b) : (put s a n v).bytes b k = s.bytes b k := by
  have len : ∀ n v, (bytesLE n v).length = n := by intro n; induction n <;> simp [bytesLE, *]
  apply List.map_congr_left
  intro i hi
  simp only [List.mem_range] at hi
  simp only [put, State.peek, Laws.peekCells_pokeList, len]
  rw [if_neg (by omega)]

theorem put_num (s : State) (a n v : Nat) (h : v < 256 ^ n) : (put s a n v).num a n = v := by
  have len : ∀ n v, (bytesLE n v).length = n := by intro n; induction n <;> simp [bytesLE, *]
  have num : ∀ n v, v < 256 ^ n → natLE (bytesLE n v) = v := by
    intro n
    induction n with
    | zero => intro v hv; simp [bytesLE, natLE] at *; omega
    | succ k ih =>
      intro v hv
      rw [bytesLE, natLE, ih _ (by rw [Nat.pow_succ] at hv; omega)]
      simp; omega
  have same : (put s a n v).bytes a n = bytesLE n v := by
    apply List.ext_getElem
    · simp [State.bytes, len]
    · intro i h1 h2
      simp only [State.bytes, List.length_map, List.length_range] at h1
      simp only [State.bytes, List.getElem_map, List.getElem_range, put, State.peek, Laws.peekCells_pokeList, len]
      rw [if_pos (by omega), Nat.add_sub_cancel_left, List.getD, List.getElem?_eq_getElem h2]
      rfl
  rw [State.num, same, num n v h]

/-- A RESUME, and a RESTART with a set of one, of the report at 0x6000 and the key at 0x10000. -/
def resumes : Nat := 4 + 3 * 2 ^ 16 + 0x6000 * 2 ^ 384 + 0x10000 * 2 ^ 448
/-- The RESTART. -/
def restarts : Nat := 5 + 3 * 2 ^ 16 + 2 ^ 32 + 0x5000 * 2 ^ 320 + 0x6000 * 2 ^ 384 + 0x10000 * 2 ^ 448

theorem resumes_ok {s : State} (h : s.num 0x4000 64 = resumes) : s.cmdBad 0x4000 = false ∧ s.cmd 0x4000 0 8 = 4
    ∧ s.cmd 0x4000 384 64 = 0x6000 ∧ s.cmd 0x4000 448 64 = 0x10000 := by
  have f : ∀ lo n, s.cmd 0x4000 lo n = bitsOf resumes lo n := fun lo n => by rw [State.cmd, h]
  unfold State.cmdBad
  simp only [f, show bitsOf resumes 0 8 = 4 by decide +kernel, show bitsOf resumes 41 279 = 0 by decide +kernel, show bitsOf resumes 26 6 = 0 by decide +kernel, show bitsOf resumes 384 64 = 0x6000 by decide +kernel, show bitsOf resumes 448 64 = 0x10000 by decide +kernel, show bitsOf resumes 32 9 = 0 by decide +kernel, show bitsOf resumes 320 64 = 0 by decide +kernel,
    show physOk 0x6000 = true by decide, show physOk 0x10000 = true by decide]
  simp

theorem restarts_ok {s : State} (h : s.num 0x4000 64 = restarts) : s.cmdBad 0x4000 = false ∧ s.cmd 0x4000 0 8 = 5
    ∧ s.cmd 0x4000 384 64 = 0x6000 ∧ s.cmd 0x4000 448 64 = 0x10000 := by
  have f : ∀ lo n, s.cmd 0x4000 lo n = bitsOf restarts lo n := fun lo n => by rw [State.cmd, h]
  unfold State.cmdBad State.cmdSet
  simp only [f, show bitsOf restarts 0 8 = 5 by decide +kernel, show bitsOf restarts 41 279 = 0 by decide +kernel, show bitsOf restarts 26 6 = 0 by decide +kernel, show bitsOf restarts 384 64 = 0x6000 by decide +kernel, show bitsOf restarts 448 64 = 0x10000 by decide +kernel, show bitsOf restarts 32 9 = 1 by decide +kernel, show bitsOf restarts 320 64 = 0x5000 by decide +kernel,
    show physOk 0x6000 = true by decide, show physOk 0x10000 = true by decide, show physOk 0x5000 = true by decide]
  simp [List.range_succ]

/-- The report a command names is one to resume from where its key's hash is in its body and its signature holds. -/
theorem checked_of {s : State} {k g : List Byte} {n : Nat} (h1 : s.cmd 0x4000 384 64 = 0x6000) (h2 : s.cmd 0x4000 448 64 = 0x10000)
    (h3 : s.bytes 0x10000 2592 = k) (h4 : s.num 0x6000 256 = n) (h5 : s.bytes (0x6000 + 256) 4627 = g)
    (h6 : sha3 k = (BitVec.ofNat 2048 n).extractLsb' 0 512)
    (hv : Config.identity.verify k (bytesLE 64 (sha3 (bytesLE 256 (BitVec.ofNat 2048 n).toNat)).toNat) g = true) :
    s.checkedReport 0x4000 = some (BitVec.ofNat 2048 n) := by
  unfold State.checkedReport
  simp only [h1, h2, h3, h4, h5]
  rw [if_pos ⟨h6, hv⟩]

/-- A command v, whose report's body holds h of its key and a SEAL's flag. -/
def returned (v : Nat) (h : BitVec 512) : State := put (commanded v id) 0x6000 256 (h.toNat + 2 ^ 802)

/-- What the body is. -/
theorem sealed (h : BitVec 512) : h.toNat + 2 ^ 802 < 256 ^ 256 ∧ (BitVec.ofNat 2048 (h.toNat + 2 ^ 802)).extractLsb' 0 512 = h
    ∧ (BitVec.ofNat 2048 (h.toNat + 2 ^ 802)).getLsbD 802 = true := by
  have lt : h.toNat < 2 ^ 512 := h.isLt
  have lt' : h.toNat + 2 ^ 802 < 2 ^ 803 :=
    calc h.toNat + 2 ^ 802 < 2 ^ 512 + 2 ^ 802 := Nat.add_lt_add_right lt _
      _ ≤ 2 ^ 803 := by decide +kernel
  refine ⟨Nat.lt_of_lt_of_le lt' (by decide +kernel), ?_, ?_⟩
  · apply BitVec.eq_of_toNat_eq
    rw [BitVec.extractLsb'_toNat, BitVec.toNat_ofNat, Nat.mod_eq_of_lt (Nat.lt_of_lt_of_le lt' (by decide +kernel)), Nat.shiftRight_zero,
      show (2 : Nat) ^ 802 = 2 ^ 512 * 2 ^ 290 by decide +kernel, Nat.add_mul_mod_self_left, Nat.mod_eq_of_lt lt]
  · rw [BitVec.getLsbD_ofNat, Nat.add_comm, Nat.testBit_two_pow_add_eq, Nat.testBit_lt_two_pow (Nat.lt_of_lt_of_le lt (by decide +kernel))]
    rfl

/-- Whether a signature holds is not the model's to say: where the one given does, the report, whose body holds the hash of its key, is
one to resume and to restart from. -/
theorem witness_MeterReturns (v : Nat) (hx : v = resumes ∨ v = restarts) (h : BitVec 512) (hh : sha3 (List.replicate 2592 0) = h)
    (hv : Config.identity.verify (List.replicate 2592 0) (bytesLE 64 (sha3 (bytesLE 256 (BitVec.ofNat 2048 (h.toNat + 2 ^ 802)).toNat)).toNat)
      (List.replicate 4627 0) = true) :
    (returned v h).cmdBad 0x4000 = false ∧ mget (returned v h).meters 3 = none
    ∧ ∃ b, (returned v h).checkedReport 0x4000 = some b ∧ b.getLsbD 802 = true := by
  have far : ∀ b m, b + m ≤ 0x6000 ∨ 0x6000 + 256 ≤ b → (returned v h).bytes b m = (commanded v id).bytes b m :=
    fun b m h => put_bytes _ _ _ _ _ _ h
  have block : (returned v h).num 0x4000 64 = v := by
    rw [State.num, far _ _ (by omega), ← State.num]
    rcases hx with rfl | rfl <;> exact put_num _ _ _ _ (by decide +kernel)
  have zeros : ∀ b m, 0x4000 + 64 ≤ b → 0x6000 + 256 ≤ b → (returned v h).bytes b m = List.replicate m 0 := by
    intro b m h1 h2
    rw [far b m (.inr h2), commanded, id, put_bytes _ _ _ _ _ _ (.inr h1)]
    apply List.ext_getElem <;> simp [State.bytes, State.peek, State.reset, peekCells]
  have ok : (returned v h).cmdBad 0x4000 = false ∧ (returned v h).cmd 0x4000 384 64 = 0x6000
      ∧ (returned v h).cmd 0x4000 448 64 = 0x10000 := by
    rcases hx with rfl | rfl
    · exact ⟨(resumes_ok block).1, (resumes_ok block).2.2⟩
    · exact ⟨(restarts_ok block).1, (restarts_ok block).2.2⟩
  refine ⟨ok.1, rfl, _, checked_of ok.2.1 ok.2.2 (zeros _ _ (by omega) (by omega)) (put_num _ _ _ _ (sealed h).1)
    (zeros _ _ (by omega) (by omega)) ?_ hv, (sealed h).2.2⟩
  rw [hh, (sealed h).2.1]

end Sys2Proof.Tests
end

section
/-! PROOFS. The words: decoding undoes encoding and encoding undoes decoding (R41, R43), a word is its four bytes (R4), and the
worked words of the spec. -/

namespace Sys2Proof.Proofs.Words

open Sys2Proof.Laws

/-! ### Decoding an instruction's word gives the instruction back -/

/-- Every row: the number of its word fits 32 bits, and its fields are its operands (R37, R41). A row without a word has nothing to
show. -/
theorem encoding_holds (i : Instr) : Encoding.Statement i := by
  cases i with
  | add => apply Encoding.add | sub => apply Encoding.sub | mul => apply Encoding.mul | mulhu => apply Encoding.mulhu
  | min => apply Encoding.min | max => apply Encoding.max | minu => apply Encoding.minu | maxu => apply Encoding.maxu
  | divu => apply Encoding.divu | remu => apply Encoding.remu
  | and => apply Encoding.and | or => apply Encoding.or | xor => apply Encoding.xor | andn => apply Encoding.andn
  | shl => apply Encoding.shl | shr => apply Encoding.shr | sar => apply Encoding.sar | popc => apply Encoding.popc
  | clz => apply Encoding.clz | ctz => apply Encoding.ctz | bfx => apply Encoding.bfx
  | ceq => apply Encoding.ceq | clt => apply Encoding.clt | cltu => apply Encoding.cltu | geq => apply Encoding.geq
  | gne => apply Encoding.gne | glt => apply Encoding.glt | gle => apply Encoding.gle | gltu => apply Encoding.gltu
  | gleu => apply Encoding.gleu | gand => apply Encoding.gand | gor => apply Encoding.gor | gnot => apply Encoding.gnot
  | madW => apply Encoding.madW | madD => apply Encoding.madD | shadd => apply Encoding.shadd | bfi => apply Encoding.bfi
  | addi => apply Encoding.addi | andi => apply Encoding.andi | ori => apply Encoding.ori | xori => apply Encoding.xori
  | shli => apply Encoding.shli | shri => apply Encoding.shri | sari => apply Encoding.sari
  | ceqi => apply Encoding.ceqi | clti => apply Encoding.clti | geqi => apply Encoding.geqi | gnei => apply Encoding.gnei
  | glti => apply Encoding.glti
  | sel => apply Encoding.sel | seln => apply Encoding.seln
  | fadd => apply Encoding.fadd | fsub => apply Encoding.fsub | fmul => apply Encoding.fmul | fmin => apply Encoding.fmin
  | fmax => apply Encoding.fmax | fabs => apply Encoding.fabs | fneg => apply Encoding.fneg | frint => apply Encoding.frint
  | fma => apply Encoding.fma | fms => apply Encoding.fms | fnma => apply Encoding.fnma | dfma => apply Encoding.dfma
  | hadd2 => apply Encoding.hadd2 | hmul2 => apply Encoding.hmul2 | hmin2 => apply Encoding.hmin2 | hmax2 => apply Encoding.hmax2
  | hfma2 => apply Encoding.hfma2 | dot4 => apply Encoding.dot4
  | dadd => apply Encoding.dadd | dsub => apply Encoding.dsub | dmul => apply Encoding.dmul | dmin => apply Encoding.dmin
  | dmax => apply Encoding.dmax
  | cvtF32S32 => apply Encoding.cvtF32S32 | cvtS32F32 => apply Encoding.cvtS32F32 | cvtU32F32 => apply Encoding.cvtU32F32
  | cvtF64F32 => apply Encoding.cvtF64F32 | cvtF32F64 => apply Encoding.cvtF32F64 | cvtF64S64 => apply Encoding.cvtF64S64
  | cvtS64F64 => apply Encoding.cvtS64F64 | cvtBf16F32 => apply Encoding.cvtBf16F32 | cvtF32Bf16 => apply Encoding.cvtF32Bf16
  | cvtF16F32 => apply Encoding.cvtF16F32 | cvtF32F16 => apply Encoding.cvtF32F16 | pack2 => apply Encoding.pack2
  | fclt => apply Encoding.fclt | fcle => apply Encoding.fcle | fceq => apply Encoding.fceq | fglt => apply Encoding.fglt
  | fgle => apply Encoding.fgle | fgeq => apply Encoding.fgeq | fgne => apply Encoding.fgne | fgun => apply Encoding.fgun
  | dglt => apply Encoding.dglt
  | ex2 => apply Encoding.ex2 | lg2 => apply Encoding.lg2 | rcp => apply Encoding.rcp | rsq => apply Encoding.rsq
  | sqrt => apply Encoding.sqrt | sinpi => apply Encoding.sinpi | cospi => apply Encoding.cospi | tanh => apply Encoding.tanh
  | sigm => apply Encoding.sigm | gelu => apply Encoding.gelu
  | qse3 => apply Encoding.qse3 | qse5 => apply Encoding.qse5 | qse8 => apply Encoding.qse8 | dqse3 => apply Encoding.dqse3
  | dqse5 => apply Encoding.dqse5 | dqse8 => apply Encoding.dqse8
  | uadd => apply Encoding.uadd | usub => apply Encoding.usub | umul => apply Encoding.umul | umin => apply Encoding.umin
  | umax => apply Encoding.umax | uand => apply Encoding.uand | uor => apply Encoding.uor | ushl => apply Encoding.ushl
  | ushr => apply Encoding.ushr | uceq => apply Encoding.uceq | uclt => apply Encoding.uclt | ucltu => apply Encoding.ucltu
  | udivu => apply Encoding.udivu
  | uaddi => apply Encoding.uaddi | uandi => apply Encoding.uandi | ushli => apply Encoding.ushli | ushri => apply Encoding.ushri
  | uceqi => apply Encoding.uceqi | uclti => apply Encoding.uclti
  | ulda => apply Encoding.ulda | uldk => apply Encoding.uldk | uld => apply Encoding.uld
  | ureadl => apply Encoding.ureadl | ufirst => apply Encoding.ufirst
  | ld => apply Encoding.ld
  | st => apply Encoding.st
  | atomAdd => apply Encoding.atomAdd | atomMin => apply Encoding.atomMin | atomMax => apply Encoding.atomMax
  | atomAnd => apply Encoding.atomAnd | atomOr => apply Encoding.atomOr | atomXor => apply Encoding.atomXor
  | atomExch => apply Encoding.atomExch | atomCas => apply Encoding.atomCas | atomFadd => apply Encoding.atomFadd
  | redAdd => apply Encoding.redAdd | redMax => apply Encoding.redMax | redFadd => apply Encoding.redFadd
  | redFadd2 => apply Encoding.redFadd2
  | fence => apply Encoding.fence | fenceR => apply Encoding.fenceR | cwb => apply Encoding.cwb | cinv => apply Encoding.cinv
  | pref => apply Encoding.pref
  | br => apply Encoding.br | brn => apply Encoding.brn | call => apply Encoding.call
  | bruz => apply Encoding.bruz | brunz => apply Encoding.brunz
  | jmpi => apply Encoding.jmpi | calli => apply Encoding.calli | ret => apply Encoding.ret | land => apply Encoding.land
  | park => apply Encoding.park | yield => apply Encoding.yield | exit => apply Encoding.exit
  | regroup => apply Encoding.regroup | part => apply Encoding.part | gmask => apply Encoding.gmask
  | vall => apply Encoding.vall | vany => apply Encoding.vany | vbal => apply Encoding.vbal | shfl => apply Encoding.shfl
  | push => apply Encoding.push | csum => apply Encoding.csum | cmax => apply Encoding.cmax | cfsum => apply Encoding.cfsum
  | cscan => apply Encoding.cscan
  | compress => apply Encoding.compress | expand => apply Encoding.expand | slideup => apply Encoding.slideup
  | slidedn => apply Encoding.slidedn
  | loop => apply Encoding.loop
  | lbrk => apply Encoding.lbrk | lrd => apply Encoding.lrd | lwr => apply Encoding.lwr
  | adbase => apply Encoding.adbase | adcoef => apply Encoding.adcoef | adlim => apply Encoding.adlim | adstg => apply Encoding.adstg
  | macq => apply Encoding.macq | mrel => apply Encoding.mrel | mwl => apply Encoding.mwl | mms => apply Encoding.mms
  | mrd => apply Encoding.mrd | mwr => apply Encoding.mwr | mepi => apply Encoding.mepi | mzero => apply Encoding.mzero
  | thbase => apply Encoding.thbase | thshape => apply Encoding.thshape | thfmt => apply Encoding.thfmt | thmc => apply Encoding.thmc
  | cpy => apply Encoding.cpy | cpym => apply Encoding.cpym | cpyg => apply Encoding.cpyg
  | chain => apply Encoding.chain
  | jinit => apply Encoding.jinit | jarv => apply Encoding.jarv | jexp => apply Encoding.jexp | jwait => apply Encoding.jwait
  | tlrd => apply Encoding.tlrd | tlwait => apply Encoding.tlwait
  | enq => apply Encoding.enq
  | trap => apply Encoding.trap | bkpt => apply Encoding.bkpt | eret => apply Encoding.eret
  | csrr => apply Encoding.csrr | csrw => apply Encoding.csrw | csrs => apply Encoding.csrs | msgs => apply Encoding.msgs
  | msgr => apply Encoding.msgr
  | metr => apply Encoding.metr
  | himm => apply Encoding.himm | hsched => apply Encoding.hsched | hmod => apply Encoding.hmod
  | _ => exact Encoding.of_event rfl

/-- The decoder's two questions: what the fields of the word are, and whether it is the word of just that instruction. -/
theorem decode_eq_ok_iff {w : BitVec 32} {i : Instr} :
    decode w = .ok i ↔ readFields w.toNat = .ok i ∧ i.wf = true ∧ encodeNat i = w.toNat := by
  unfold decode
  cases readFields w.toNat with
  | error e => simp
  | ok k =>
    simp only [Bool.and_eq_true, beq_iff_eq]
    split
    case isTrue hk => exact ⟨fun h => ⟨h, Except.ok.inj h ▸ hk⟩, And.left⟩
    case isFalse hk => exact ⟨nofun, fun ⟨hread, hi⟩ => absurd (Except.ok.inj hread ▸ hi) hk⟩

theorem encode_of_wf {i : Instr} (h : i.wf = true) : encode i = [BitVec.ofNat 32 (encodeNat i)] :=
  if_pos (Bool.and_eq_true_iff.mp h).1

theorem decode_encodeNat {i : Instr} (h : i.wf = true) : decode (BitVec.ofNat 32 (encodeNat i)) = .ok i := by
  obtain ⟨hlt, hread⟩ := encoding_holds i h
  have hword : (BitVec.ofNat 32 (encodeNat i)).toNat = encodeNat i := Nat.mod_eq_of_lt hlt
  rw [decode_eq_ok_iff, hword]
  exact ⟨hread, h, rfl⟩

theorem decode_of_encodeNat_eq {i : Instr} {w : BitVec 32} (h : i.wf = true) (hw : BitVec.ofNat 32 (encodeNat i) = w) :
    decode w = .ok i :=
  hw ▸ decode_encodeNat h

/-! ### Encoding what a word decodes to gives the word back -/

theorem encode_of_decode {w : BitVec 32} {i : Instr} (h : decode w = .ok i) : i.wf = true ∧ encode i = [w] := by
  obtain ⟨-, hwf, hnum⟩ := decode_eq_ok_iff.mp h
  exact ⟨hwf, by rw [encode_of_wf hwf, hnum, BitVec.ofNat_toNat, BitVec.setWidth_eq]⟩

/-! ### A word from its bytes -/

theorem wordOfBytes_extractLsb' (w : BitVec 32) :
    wordOfBytes (w.extractLsb' 0 8) (w.extractLsb' 8 8) (w.extractLsb' 16 8) (w.extractLsb' 24 8) = w := by
  unfold wordOfBytes
  rw [BitVec.extractLsb'_append_extractLsb'_eq_extractLsb' (show 24 = 16 + 8 from rfl),
    BitVec.extractLsb'_append_extractLsb'_eq_extractLsb' (show 16 = 8 + 8 from rfl),
    BitVec.extractLsb'_append_extractLsb'_eq_extractLsb' (show 8 = 0 + 8 from rfl)]
  exact BitVec.extractLsb'_eq_self

theorem decodeBytes_bytesOfWord {w : BitVec 32} {i : Instr} (h : decode w = .ok i) (rest : List (BitVec 8)) :
    decodeBytes (bytesOfWord w ++ rest) = .ok (i, rest) := by
  simp only [bytesOfWord, List.cons_append, List.nil_append, decodeBytes, wordOfBytes_extractLsb', h]

/-! ### The statements -/

/-- Settles O57: an instruction's word decodes to it by its row's lemma of Sys2Proof/Laws/PerInstr.lean, and the decoder accepts
a word only where it is the word of what was read. -/
theorem roundTrip : Obligations.RoundTrip := by
  refine ⟨fun i h => ?_, fun w i h => encode_of_decode h⟩
  have hdec := decode_encodeNat h
  exact ⟨_, encode_of_wf h, hdec, decodeBytes_bytesOfWord hdec⟩

/-- Settles O56: each word is the word of the instruction beside it, which O57 says decodes to that instruction. -/
theorem wordsDecode : Obligations.WordsDecode := by
  unfold Obligations.WordsDecode
  and_intros <;> exact decode_of_encodeNat_eq rfl rfl

end Sys2Proof.Proofs.Words
end

section
/-! PROOFS. Writes by the device's own units: what they leave of the device's books (its nodes, its queues, its numbers), and what
memory reads after them. -/

namespace Sys2Proof.Proofs.Writes

open Sys2Proof.Machine Sys2Proof.Safety Sys2Proof.Laws

/-! ### The device's books: what no access to memory touches -/

/-- Nodes, device queues, admission number, event number and lost peers of a state. -/
structure Books where
  nodes    : SMap Node
  dqueue   : SMap (List Nat)
  admitted : BitVec 32
  evseq    : BitVec 56
  lost     : List Nat

/-- The books of a state. -/
def books (s : State) : Books :=
  { nodes := s.nodes, dqueue := s.dqueue, admitted := s.admitted, evseq := s.evseq, lost := s.lost }

section
variable {s t : State} (h : books t = books s)
include h

theorem nodes_of_books : t.nodes = s.nodes := congrArg Books.nodes h
theorem lost_of_books : t.lost = s.lost := congrArg Books.lost h

theorem lostAt_of_books (a : Nat) : t.lostAt a = s.lostAt a := by
  unfold State.lostAt; rw [lost_of_books h]

end

/-- Folds whose steps keep the books keep the books. -/
theorem foldl_books {β : Type} (ls : List β) (f : State → β → State) (h : ∀ s b, books (f s b) = books s) (s : State) :
    books (ls.foldl f s) = books s := by
  induction ls generalizing s with
  | nil => rfl
  | cons b r ih => exact (ih _).trans (h s b)

@[simp] theorem setReg_books (s : State) (off : Nat) (v : Word) : books (s.setReg off v) = books s := rfl
@[simp] theorem poisonRange_books (s : State) (a n : Nat) : books (s.poisonRange a n) = books s := rfl
@[simp] theorem wakeWatchers_books (s : State) (p : Nat → Bool) (l : Nat) : books (s.wakeWatchers p l) = books s := rfl
@[simp] theorem takeTag_books (s : State) (l : Nat) : books (s.takeTag l) = books s := rfl

@[simp] theorem cleanCovered_books (s : State) (l : List Nat) : books (s.cleanCovered l) = books s := by
  unfold State.cleanCovered; split <;> rfl

@[simp] theorem invalidateOthers_books (s : State) (c l : Nat) : books (s.invalidateOthers c l) = books s := by
  unfold State.invalidateOthers; split <;> rfl

@[simp] theorem setCache_books (s : State) (l1 : Bool) (u : Nat) (ls : List Line) : books (s.setCache l1 u ls) = books s := by
  unfold State.setCache; split <;> rfl

@[simp] theorem markClean_books (s : State) (l1 : Bool) (u l : Nat) : books (s.markClean l1 u l) = books s := by
  unfold State.markClean; dsimp only; split <;> simp

@[simp] theorem discardClean_books (s : State) (l1 : Bool) (u : Nat) (p : Nat → Bool) : books (s.discardClean l1 u p) = books s :=
  setCache_books ..

@[simp] theorem invalidate_books (s : State) (c l : Nat) : books (s.invalidate c l) = books s := by
  unfold State.invalidate
  dsimp only
  rw [wakeWatchers_books, foldl_books _ _ (fun _ _ => discardClean_books ..), discardClean_books]
  rfl

@[simp] theorem unlock_books (s : State) (ls : List Nat) : books (s.unlock ls) = books s :=
  foldl_books _ _ (fun _ _ => invalidate_books ..) s

@[simp] theorem homeWrite_books (s : State) (c : Nat) (ps : List (Nat × Byte)) (l : Nat) : books (s.homeWrite c ps l) = books s := by
  have written : books (({ s with mem := pokePairs s.mem ps } : State).cleanCovered (ps.map Prod.fst)) = books s :=
    cleanCovered_books ..
  unfold State.homeWrite
  split
  · rfl
  · dsimp only
    rw [invalidateOthers_books]
    split
    · exact written
    · exact written

@[simp] theorem deviceWrite_books (s : State) (a : Nat) (bs : List Byte) : books (s.deviceWrite a bs) = books s :=
  (foldl_books _ _ (fun _ _ => homeWrite_books ..) _).trans (unlock_books ..)

@[simp] theorem addAt_books (s : State) (a n : Nat) (d : Int) : books (s.addAt a n d) = books s := deviceWrite_books ..

/-- An event takes the next EVSEQ, and leaves the rest of the books (R394). -/
@[simp] theorem event_books (s : State) (type body : Nat) : books (s.event type body) = { books s with evseq := s.evseq + 1 } := by
  unfold State.event
  dsimp only
  split
  · rw [setReg_books, deviceWrite_books]; rfl
  · rfl

/-! ### Walks -/

@[simp] theorem pushL1_books (s : State) (c l : Nat) : books (s.pushL1 c l) = books s := by
  unfold State.pushL1
  split
  · rfl
  · rw [markClean_books, State.useLines, setCache_books]
    exact foldl_books _ _ (fun _ _ => setCache_books ..) s

@[simp] theorem pushCc_books (s : State) (c l : Nat) : books (s.pushCc c l) = books s := by
  unfold State.pushCc; split <;> simp

@[simp] theorem flushFrame_books (s : State) (base size : Nat) : books (s.flushFrame base size) = books s :=
  (foldl_books _ _ (fun _ _ => by simp) _).trans (foldl_books _ _ (fun _ _ => pushL1_books ..) s)

@[simp] theorem carryPage_books (s : State) (old new size : Nat) : books (s.carryPage old new size) = books s :=
  flushFrame_books s old size

@[simp] theorem carried_books (s : State) (pasid va : Nat) (l : Leaf) : books (s.carried pasid va l) = books s := by
  unfold State.carried
  generalize (if s.pageHeld pasid va l then none else s.movedPage pasid va l) = moved
  cases moved with
  | none => rfl
  | some m =>
    dsimp only
    split
    · rfl
    · exact carryPage_books ..

@[simp] theorem touch_books (s : State) (core pasid va : Nat) (wr : Bool) (l : Leaf) : books (s.touch core pasid va wr l) = books s := by
  unfold State.touch
  cases l.again s core pasid va with
  | none => rfl
  | some l =>
    generalize (if s.invs = [] then none else rootOf s pasid) = root
    show books (ite _ _ _) = books s
    rw [apply_ite books, deviceWrite_books, ite_self, carried_books]
    cases root with
    | none => rfl
    | some r => exact unlock_books ..

@[simp] theorem hubTouch_books (s : State) (pasid : Nat) (wr : Bool) (vs : List Via) : books (s.hubTouch pasid wr vs) = books s :=
  foldl_books _ _ (fun _ _ => touch_books ..) { s with tlb := [] }

/-! ### What memory reads after a write -/

/-- Folds whose steps keep the byte at an address keep it. -/
theorem foldl_peek {β : Type} (c : Nat) (ls : List β) (f : State → β → State) (h : ∀ s b, (f s b).peek c = s.peek c) (s : State) :
    (ls.foldl f s).peek c = s.peek c := by
  induction ls generalizing s with
  | nil => rfl
  | cons b r ih => exact (ih _).trans (h s b)

theorem peek_of_mem {s t : State} (h : t.mem = s.mem) (c : Nat) : t.peek c = s.peek c := congrArg (peekCells · c) h

@[simp] theorem unlock_peek (s : State) (ls : List Nat) (c : Nat) : (s.unlock ls).peek c = s.peek c := peek_of_mem (unlock_mem ..) c

/-- A write at home leaves every address that it does not name. -/
theorem homeWrite_peek_outside (s : State) (o l c : Nat) (ps : List (Nat × Byte)) (h : ∀ p ∈ ps, p.1 ≠ c) :
    (s.homeWrite o ps l).peek c = s.peek c := by
  unfold State.peek
  rw [homeWrite_mem]
  split
  · rfl
  · exact peekCells_pokePairs_of_not_mem ps s.mem c h

/-- A write by the device's units leaves every address outside its range. -/
theorem deviceWrite_peek_outside (s : State) (a c : Nat) (bs : List Byte) (h : c < a ∨ a + bs.length ≤ c) :
    (s.deviceWrite a bs).peek c = s.peek c := by
  refine (foldl_peek c _ _ (fun s l => homeWrite_peek_outside s 32 l c _ ?_) _).trans (unlock_peek ..)
  intro p hp
  obtain ⟨e, he, rfl⟩ := List.mem_map.1 (List.mem_filter.1 hp).1
  have := List.mem_range.1 (List.of_mem_zip he).1
  dsimp only
  omega

/-- Where no address is named twice, a write is known by its address. -/
theorem eq_of_fst_eq {ps : List (Nat × Byte)} (hd : (ps.map Prod.fst).Nodup) {p q : Nat × Byte} (hp : p ∈ ps) (hq : q ∈ ps)
    (h : p.1 = q.1) : p = q := by
  induction ps with
  | nil => exact absurd hp List.not_mem_nil
  | cons e r ih =>
    obtain ⟨new, rest⟩ := List.nodup_cons.1 hd
    obtain rfl | hpr := List.mem_cons.1 hp
    · obtain rfl | hqr := List.mem_cons.1 hq
      · rfl
      · exact absurd (List.mem_map.2 ⟨q, hqr, h.symm⟩) new
    · obtain rfl | hqr := List.mem_cons.1 hq
      · exact absurd (List.mem_map.2 ⟨p, hpr, h⟩) new
      · exact ih rest hpr hqr

/-- Of writes that name no address twice, an address that one of them names has that one's byte. -/
theorem lastOf_of_mem {ps : List (Nat × Byte)} (hd : (ps.map Prod.fst).Nodup) {p : Nat × Byte} (hp : p ∈ ps) (old : Byte) :
    lastOf ps p.1 old = p.2 := by
  have mem : p ∈ ps.filter (fun q => q.1 == p.1) := List.mem_filter.2 ⟨hp, beq_self_eq_true _⟩
  have last := List.getLast?_eq_some_getLast (List.ne_nil_of_mem mem)
  have found := List.mem_filter.1 (List.getLast_mem (List.ne_nil_of_mem mem))
  have same : (ps.filter (fun q => q.1 == p.1)).getLast (List.ne_nil_of_mem mem) = p :=
    eq_of_fst_eq hd found.1 hp (beq_iff_eq.1 found.2)
  unfold lastOf
  rw [last, same]
  rfl

/-- A write of one line at home, of a route that is not lost, puts its bytes there. -/
theorem homeWrite_peek {s : State} {o l : Nat} {ps : List (Nat × Byte)} (hl : s.lostAt (l * 128) = false)
    (hd : (ps.map Prod.fst).Nodup) {p : Nat × Byte} (hp : p ∈ ps) : (s.homeWrite o ps l).peek p.1 = p.2 := by
  unfold State.peek
  rw [homeWrite_mem, hl, if_neg Bool.false_ne_true, peekCells_pokePairs, lastOf_of_mem hd hp]

/-- Line after line at home: a byte whose line is among them, or that stands there already, stands there afterwards. -/
theorem foldl_homeWrite_peek {o : Nat} {ps : List (Nat × Byte)} (hd : (ps.map Prod.fst).Nodup) {p : Nat × Byte} (hp : p ∈ ps)
    (ls : List Nat) (s : State) (hl : s.lostAt (p.1 / 128 * 128) = false) (h : p.1 / 128 ∈ ls ∨ s.peek p.1 = p.2) :
    (ls.foldl (fun s l => s.homeWrite o (ps.filter (fun q => q.1 / 128 == l)) l) s).peek p.1 = p.2 := by
  induction ls generalizing s with
  | nil => exact h.resolve_left List.not_mem_nil
  | cons l r ih =>
    refine ih _ ((lostAt_of_books (homeWrite_books ..) _).trans hl) ?_
    by_cases here : p.1 / 128 = l
    · subst here
      exact .inr (homeWrite_peek hl (hd.sublist (List.filter_sublist.map _)) (List.mem_filter.2 ⟨hp, beq_self_eq_true _⟩))
    · refine h.imp (fun m => (List.mem_cons.1 m).resolve_left here) (fun e => Eq.trans ?_ e)
      refine homeWrite_peek_outside s o l p.1 _ (fun q hq same => here ?_)
      rw [← same]
      exact beq_iff_eq.1 (List.mem_filter.1 hq).2

theorem mem_linesOf {as : List Nat} {a : Nat} (h : a ∈ as) : a / 128 ∈ linesOf as :=
  List.mem_eraseDups.2 (List.mem_map.2 ⟨a, h, rfl⟩)

section
variable {s : State} {ps : List (Nat × Byte)} (hl : ∀ p ∈ ps, s.lostAt p.1 = false)
include hl

/-- A hub's write of which no byte goes to a lost peer: each of its lines is written at home. -/
theorem hubWrite_eq : s.hubWrite ps = (linesOf (ps.map Prod.fst)).foldl
    (fun s l => s.homeWrite 32 (ps.filter (fun q => q.1 / 128 == l)) l) (s.unlock (linesOf (ps.map Prod.fst))) := by
  have here : ps.filter (fun p => !s.lostAt p.1) = ps := List.filter_eq_self.2 (fun p hp => by rw [hl p hp]; rfl)
  have found : ps.find? (fun p => s.lostAt p.1) = none :=
    List.find?_eq_none.2 (fun p hp => by rw [hl p hp]; exact Bool.false_ne_true)
  unfold State.hubWrite
  rw [here, found]

theorem hubWrite_books : books (s.hubWrite ps) = books s := by
  rw [hubWrite_eq hl]
  exact (foldl_books _ _ (fun _ _ => homeWrite_books ..) _).trans (unlock_books ..)

/-- Its bytes stand at their addresses afterwards. -/
theorem hubWrite_peek (hd : (ps.map Prod.fst).Nodup) {p : Nat × Byte} (hp : p ∈ ps) (hline : s.lostAt (p.1 / 128 * 128) = false) :
    (s.hubWrite ps).peek p.1 = p.2 := by
  rw [hubWrite_eq hl]
  exact foldl_homeWrite_peek hd hp _ _ ((lostAt_of_books (unlock_books ..) _).trans hline)
    (.inl (mem_linesOf (List.mem_map.2 ⟨p, hp, rfl⟩)))

end

end Sys2Proof.Proofs.Writes
end

section
/-! PROOFS. Admission and the argument copy (R293, R306, R308, R394): class rounding of a block, what the hub reaches, and what
becomes of the node. -/

namespace Sys2Proof.Proofs.Admission

open Sys2Proof.Machine Sys2Proof.Safety Sys2Proof.Laws Sys2Proof.Proofs.Writes

/-! ### Doublewords of a block of bytes -/

@[simp] theorem bytesLE_length (n v : Nat) : (bytesLE n v).length = n := by
  induction n generalizing v with
  | zero => rfl
  | succ n ih => rw [bytesLE, List.length_cons, ih]

theorem natLE_bytesLE (n v : Nat) : natLE (bytesLE n v) = v % 256 ^ n := by
  induction n generalizing v with
  | zero => rw [Nat.pow_zero, Nat.mod_one]; rfl
  | succ n ih => rw [bytesLE, natLE, ih, BitVec.toNat_ofNat, Nat.pow_succ' (m := 256), Nat.mod_mul]

theorem natLE_lt (bs : List Byte) : natLE bs < 256 ^ bs.length := by
  induction bs with
  | nil => exact Nat.one_pos
  | cons b r ih =>
    have := b.isLt
    rw [natLE, List.length_cons, Nat.pow_succ]
    omega

theorem dwordAt_lt (bs : List Byte) (o : Nat) : dwordAt bs o < 2 ^ 64 :=
  calc dwordAt bs o < 256 ^ ((bs.drop o).take 8).length := natLE_lt _
    _ ≤ 256 ^ 8 := Nat.pow_le_pow_right (by decide) (List.length_take_le ..)

/-- Blocks that agree in eight bytes have the same doubleword there. -/
theorem dwordAt_congr {xs ys : List Byte} {o : Nat} (h : ∀ k, o ≤ k → k < o + 8 → xs[k]? = ys[k]?) : dwordAt xs o = dwordAt ys o := by
  unfold dwordAt
  refine congrArg natLE (List.ext_getElem? fun i => ?_)
  rw [List.getElem?_take, List.getElem?_take, List.getElem?_drop, List.getElem?_drop]
  split
  · exact h _ (by omega) (by omega)
  · rfl

section
variable {bs : List Byte} {o : Nat} (h : o + 8 ≤ bs.length) (v : Nat)
include h

theorem setDword_length : (setDword bs o v).length = bs.length := by
  simp only [setDword, List.length_append, List.length_take, List.length_drop, bytesLE_length]
  omega

theorem setDword_outside {k : Nat} (hk : k < o ∨ o + 8 ≤ k) : (setDword bs o v)[k]? = bs[k]? := by
  have front : (bs.take o ++ bytesLE 8 v).length = o + 8 := by
    rw [List.length_append, List.length_take, bytesLE_length]; omega
  unfold setDword
  obtain hk | hk := hk
  · rw [List.getElem?_append_left (by omega), List.getElem?_append_left (by rw [List.length_take]; omega), List.getElem?_take_of_lt hk]
  · rw [List.getElem?_append_right (by omega), front, List.getElem?_drop, Nat.add_sub_cancel' hk]

theorem dwordAt_setDword : dwordAt (setDword bs o v) o = v % 2 ^ 64 := by
  have front : (bs.take o).length = o := by rw [List.length_take]; omega
  have field : ((setDword bs o v).drop o).take 8 = bytesLE 8 v := by
    unfold setDword
    rw [List.append_assoc, List.drop_left' front, List.take_left' (bytesLE_length 8 v)]
  unfold dwordAt
  rw [field, natLE_bytesLE, show 256 ^ 8 = 2 ^ 64 from rfl]

theorem dwordAt_setDword_apart {p : Nat} (hp : p + 8 ≤ o ∨ o + 8 ≤ p) : dwordAt (setDword bs o v) p = dwordAt bs p :=
  dwordAt_congr fun _ h1 h2 => setDword_outside h v (by omega)

end

/-! ### Class rounding (R293) -/

theorem classRound_cons (k : Nat × List Nat) (ks : List (Nat × List Nat)) (bs : List Byte) :
    classRound (k :: ks) bs = classRound ks (classRound [k] bs) := rfl

theorem classRound_unbounded (o : Nat) (bs : List Byte) : classRound [(o, [])] bs = bs := rfl

/-- The class of a key's value: the least bound not below it, or the value where there is none. -/
def classOf (bounds : List Nat) (x : Nat) : Nat := (bounds.find? (fun b => decide (x ≤ b))).getD x

/-- A key with bounds: its value goes into the doubleword after it, its class into the key. -/
theorem classRound_bounded {bounds : List Nat} (h : bounds ≠ []) (o : Nat) (bs : List Byte) :
    classRound [(o, bounds)] bs = setDword (setDword bs (o + 8) (dwordAt bs o)) o (classOf bounds (dwordAt bs o)) := by
  cases bounds with
  | nil => exact absurd rfl h
  | cons => rfl

/-- A key lies in a block of n bytes, with the doubleword after it where it has bounds. -/
def KeyFits (n : Nat) (k : Nat × List Nat) : Prop := k.1 + 8 ≤ n ∧ (k.2 ≠ [] → k.1 + 16 ≤ n)

theorem classRound_length {n : Nat} (keys : List (Nat × List Nat)) (bs : List Byte) (hk : ∀ k ∈ keys, KeyFits n k)
    (hn : bs.length = n) : (classRound keys bs).length = n := by
  induction keys generalizing bs with
  | nil => exact hn
  | cons k r ih =>
    rw [classRound_cons]
    refine ih _ (fun k hk' => hk k (List.mem_cons_of_mem _ hk')) ?_
    obtain ⟨o, bounds⟩ := k
    obtain ⟨-, fits⟩ := hk _ List.mem_cons_self
    by_cases h : bounds = []
    · rw [h, classRound_unbounded, hn]
    · have := fits h
      have kept := setDword_length (o := o + 8) (by omega : o + 8 + 8 ≤ bs.length)
      rw [classRound_bounded h, setDword_length (by rw [kept]; omega), kept, hn]

section
variable {bs : List Byte} {o : Nat} {bounds : List Nat} (hb : bounds ≠ []) (h : o + 16 ≤ bs.length)
include hb h

theorem classRound_value : dwordAt (classRound [(o, bounds)] bs) (o + 8) = dwordAt bs o := by
  have inner : o + 8 + 8 ≤ bs.length := h
  rw [classRound_bounded hb, dwordAt_setDword_apart (by rw [setDword_length inner]; omega) _ (.inr (Nat.le_refl _)),
    dwordAt_setDword inner, Nat.mod_eq_of_lt (dwordAt_lt ..)]

theorem classRound_key : dwordAt (classRound [(o, bounds)] bs) o = classOf bounds (dwordAt bs o) % 2 ^ 64 := by
  have inner : o + 8 + 8 ≤ bs.length := h
  rw [classRound_bounded hb, dwordAt_setDword (by rw [setDword_length inner]; omega)]

theorem classRound_outside {k : Nat} (hk : k < o ∨ o + 16 ≤ k) : (classRound [(o, bounds)] bs).getD k 0 = bs.getD k 0 := by
  have inner : o + 8 + 8 ≤ bs.length := h
  rw [classRound_bounded hb, List.getD_eq_getElem?_getD, List.getD_eq_getElem?_getD,
    setDword_outside (by rw [setDword_length inner]; omega) _ (by omega), setDword_outside inner _ (by omega)]

end

/-! ### What the hub reaches -/

/-- Where the pages suffice, the hub reaches as many bytes as it asks for. -/
theorem hubReach_length {s : State} {pasid : Nat} {k : AccKind} (fuel : Nat) {va n : Nat} {r : Reach}
    (hr : hubReach s pasid va n k fuel = .ok r) (hn : n = 0 ∨ va % 4096 + n ≤ 4096 * fuel) : r.flats.length = n := by
  induction fuel generalizing va n r with
  | zero => cases hr; simp; omega
  | succ f ih =>
    unfold hubReach at hr
    split at hr
    · cases hr; subst n; rfl
    · split at hr
      · cases hr
      · split at hr
        · cases hr
        · dsimp only at hr
          split at hr
          · cases hr
          · split at hr
            · cases hr
            · next q hq =>
              cases hr
              have rest := ih hq (by simp only [Nat.min_def]; split <;> omega)
              rw [List.length_append, List.length_map, List.length_range, rest, Nat.add_sub_cancel' (Nat.min_le_left ..)]


/-! ### Nodes -/

theorem leastBy_mem {α : Type} {f : α → Nat} {l : List α} {x : α} (h : leastBy f l = some x) : x ∈ l := by
  induction l generalizing x with
  | nil => cases h
  | cons y r ih =>
    unfold leastBy at h
    split at h
    · cases h; exact List.mem_cons_self
    · next z hz =>
      split at h
      · cases h; exact List.mem_cons_of_mem _ (ih hz)
      · cases h; exact List.mem_cons_self

/-- The key names a node. -/
def Listed (s : State) (k : Nat) : Prop := (mget s.nodes k).isSome

theorem mget_isSome_of_mem {α : Type} {m : SMap α} {e : Nat × α} (h : e ∈ m) : (mget m e.1).isSome := by
  induction m with
  | nil => cases h
  | cons d r ih =>
    unfold mget
    split
    · rfl
    · obtain rfl | h := List.mem_cons.1 h
      · contradiction
      · exact ih h

theorem node_of_mget {s : State} {k : Nat} {n : Node} (h : mget s.nodes k = some n) : s.node k = n := by
  unfold State.node mgetD; rw [h]; rfl

theorem node_of_nodes {s u : State} (h : u.nodes = s.nodes) (k : Nat) : u.node k = s.node k := by
  unfold State.node; rw [h]

theorem listed_of_nodes {s u : State} (h : u.nodes = s.nodes) {k : Nat} (hk : Listed s k) : Listed u k := by
  unfold Listed; rwa [h]

theorem nextAdmission_listed {s : State} {k : Nat} (h : s.nextAdmission = some k) : Listed s k := by
  unfold State.nextAdmission at h
  obtain ⟨e, he, rfl⟩ := Option.map_eq_some_iff.1 h
  exact mget_isSome_of_mem (List.mem_filter.1 (List.mem_filter.1 (leastBy_mem he)).1).1

theorem modNode_node_self {s : State} {k : Nat} (h : Listed s k) (f : Node → Node) : (s.modNode k f).node k = f (s.node k) := by
  obtain ⟨n, hn⟩ := Option.isSome_iff_exists.1 h
  refine node_of_mget ((mget_mmod ..).trans ?_)
  rw [if_pos rfl, node_of_mget hn, hn]
  rfl

theorem modNode_listed {s : State} {k : Nat} (h : Listed s k) (f : Node → Node) : Listed (s.modNode k f) k := by
  unfold Listed State.modNode
  rwa [mget_mmod, if_pos rfl, Option.isSome_map]

theorem mget_map {α : Type} (m : SMap α) (g : Nat → α → α) (k : Nat) :
    mget (m.map (fun e => (e.1, g e.1 e.2))) k = (mget m k).map (g k) := by
  induction m with
  | nil => rfl
  | cons e r ih =>
    rw [List.map_cons, mget, mget, ih]
    split
    · subst k; rfl
    · rfl

/-- A node as it notes that it stands at the head of its priority, or that it does not (R313). -/
def headNoted (s : State) (k : Nat) (n : Node) : Node :=
  if atHead s.pool k then { n with head := some (n.head.getD s.cycle) } else { n with head := none, blocking := false }

/-- Noting the heads of the pool changes a node in nothing but what it notes (R313). -/
theorem heads_node (s : State) (k : Nat) : ∃ h b, s.heads.node k = { s.node k with head := h, blocking := b } := by
  have read : mget s.heads.nodes k = (mget s.nodes k).map (headNoted s k) := mget_map s.nodes (headNoted s) k
  unfold State.node mgetD
  rw [read]
  cases mget s.nodes k with
  | none => exact ⟨none, false, rfl⟩
  | some n =>
    dsimp only [Option.map_some, Option.getD_some, headNoted]
    split
    · exact ⟨_, n.blocking, rfl⟩
    · exact ⟨_, _, rfl⟩

/-! ### The pool -/

@[simp] theorem enterPool_mem (s : State) (k : Nat) : (s.enterPool k).mem = s.mem := rfl

theorem enterPool_node {s : State} {k : Nat} (h : Listed s k) :
    ∃ hd b, (s.enterPool k).node k = { s.node k with status := .pooled, head := hd, blocking := b } := by
  refine (heads_node _ k).imp fun hd => Exists.imp fun b noted => noted.trans ?_
  rw [modNode_node_self (by exact h)]
  rfl

/-- The constant segment of a node's kernel is write-protected once the node is in the pool (R65). -/
theorem enterPool_protects {s : State} {k : Nat} (h : (s.node k).kernel.constSize ≠ 0) :
    ((s.node k).region.pasid, (s.node k).kernel.constVa, (s.node k).kernel.constSize) ∈ (s.enterPool k).constants := by
  show _ ∈ ite _ _ _
  split
  · next known => exact List.elem_iff.1 (known.resolve_left h)
  · exact List.mem_append_right _ List.mem_cons_self

/-! ### Rejection (R306, R394) -/

/-- What rejection makes of a node: it counts as faulted, and there is nothing left of it to place; the books have one event more. -/
structure Rejected (s : State) (k : Nat) (t : State) : Prop where
  node     : t.node k = { s.node k with faulted := true, next := (s.node k).grid, status := .placed, kernel := {} }
  evseq    : t.evseq = s.evseq + 1
  admitted : t.admitted = s.admitted
  dqueue   : t.dqueue = s.dqueue

theorem reject_rejected {s : State} {k : Nat} (h : Listed s k) (reason : Nat) : Rejected s k (s.reject k reason) := by
  have told := event_books s 6 (eventBody (s.node k).source.toNat reason)
  have nodes : (s.event 6 (eventBody (s.node k).source.toNat reason)).nodes = s.nodes := congrArg Books.nodes told
  refine ⟨(modNode_node_self (listed_of_nodes nodes h) _).trans ?_, congrArg Books.evseq told, congrArg Books.admitted told,
    congrArg Books.dqueue told⟩
  rw [node_of_nodes nodes]

theorem rejectFor_rejected {s : State} {k : Nat} (h : Listed s k) {reasons : List Nat} (hr : reasons ≠ []) :
    Rejected s k (s.rejectFor k reasons) := by
  match reasons with
  | [] => exact absurd rfl hr
  | [r] => exact reject_rejected h r
  | r :: q :: rs =>
    obtain ⟨node, evseq, admitted, dqueue⟩ := reject_rejected (s := { s with free := s.free + 1 }) h
      ((r :: q :: rs).getD ((Config.freeWord s.free).toNat % ((q :: rs).length + 1)) r)
    exact ⟨node, evseq, admitted, dqueue⟩

/-! ### What admission does (R306) -/

/-- The node under a key has its admission number and the kernel and region it was judged by, and has left the device queues. -/
def numbered (s : State) (k : Nat) : State :=
  ({ s with admitted := s.admitted + 1, serial := s.serial + 1,
            dqueue := (s.dqueue.map (fun q => (q.1, q.2.filter (fun x => x != k)))).filter (fun q => q.2 != []) } : State).modNode k
    (fun _ => { (s.judge (s.node k)).1 with number := s.admitted + 1, order := s.serial, status := .copying })

theorem admission_none {s : State} (h : s.nextAdmission = none) : exec .admission s = .next s := by
  show execAdmission s = _
  unfold execAdmission
  rw [h]

section
variable {s : State} {k : Nat} (h : s.nextAdmission = some k)
include h

theorem admission_admits (hj : (s.judge (s.node k)).2 = []) :
    exec .admission s = .next (if (s.judge (s.node k)).1.kernel.args = 0 then (numbered s k).enterPool k else numbered s k) := by
  show execAdmission s = _
  unfold execAdmission
  rw [h]
  dsimp only
  rw [hj, apply_ite Host.Outcome.next]
  rfl

theorem admission_rejects (hj : (s.judge (s.node k)).2 ≠ []) :
    exec .admission s = .next ((numbered s k).rejectFor k (s.judge (s.node k)).2) := by
  show execAdmission s = _
  unfold execAdmission
  rw [h]
  obtain ⟨r, rs, hr⟩ := List.exists_cons_of_ne_nil hj
  dsimp only
  rw [hr]
  rfl

theorem numbered_listed : Listed (numbered s k) k := modNode_listed (nextAdmission_listed h) _

theorem numbered_node : (numbered s k).node k =
    { (s.judge (s.node k)).1 with number := s.admitted + 1, order := s.serial, status := .copying } :=
  modNode_node_self (nextAdmission_listed h) _

end

theorem numbered_dqueue (s : State) (k : Nat) : ∀ q ∈ (numbered s k).dqueue, k ∉ q.2 := by
  intro q hq hk
  obtain ⟨e, -, rfl⟩ := List.mem_map.1 (List.mem_filter.1 hq).1
  exact bne_iff_ne.1 (List.mem_filter.1 hk).2 rfl

/-! ### The reasons against a node (R306, R394) -/

section
variable {s : State} {n : Node}

theorem judge_unchained (h : s.rcbChain n.rcb 8 = none) : s.judge n = (n, [5]) := by
  unfold State.judge; rw [h]

theorem judge_broken {c : List Nat} (h : s.rcbChain n.rcb 8 = some c) (hc : (∃ a ∈ c, s.rcbOk a = false) ∨ s.prioOk c = false) :
    s.judge n = (n, [5]) := by
  have bad : (c.all s.rcbOk && s.prioOk c) = false := by
    obtain ⟨a, ha, hf⟩ | hp := hc
    · rw [List.all_eq_false.2 ⟨a, ha, by rw [hf]; exact Bool.false_ne_true⟩, Bool.false_and]
    · rw [hp, Bool.and_false]
  unfold State.judge
  rw [h]
  dsimp only
  rw [bad]
  rfl

/-- The reasons that lie in the chain: its address space has no tables, one of it has STATE 1, or its binding list is malformed. -/
def chainReasons (s : State) (c : List Nat) : List Nat :=
  (if (rootOf s (s.regionOf c).pasid).isNone then [6] else []) ++ (if c.any (fun a => s.rcb a 568 2 == 1) then [9] else [])
    ++ (if (s.bindings (s.rcb (s.supplier c 6) 448 56)).isNone then [8] else [])

/-- The reasons that lie in a node with its kernel and region. -/
def kernelReasons (s : State) (c : List Nat) (q : Node) : List Nat :=
  (if 16 < q.coreCount then [2] else []) ++ (if c.all (s.budgetHolds q 1) then [] else [3])
    ++ (if (q.cores || q.kernel.coresident) && !(c.all (s.budgetHolds q q.grid)) then [4] else [])
    ++ (if s.rcb q.region.arenaOf 640 32 < q.kernel.argPages + q.privPages then [7] else [])

section
variable {c : List Nat} (h : s.rcbChain n.rcb 8 = some c) (hc : ∀ a ∈ c, s.rcbOk a = true) (hp : s.prioOk c = true)
include h hc hp

theorem judge_unregistered (hk : s.kernelOf n.pasid (s.regionOf c).pasid n.kref = none) :
    (s.judge n).2 = 1 :: chainReasons s c := by
  unfold State.judge
  rw [h]
  dsimp only
  rw [List.all_eq_true.2 hc, hp, hk]
  rfl

theorem judge_registered {x : Kernel} (hk : s.kernelOf n.pasid (s.regionOf c).pasid n.kref = some x) :
    (s.judge n).2 = chainReasons s c ++ kernelReasons s c { n with region := s.regionOf c, kernel := x } := by
  unfold State.judge
  rw [h]
  dsimp only
  rw [List.all_eq_true.2 hc, hp, hk]
  simp only [chainReasons, kernelReasons, List.append_assoc]
  rfl

theorem judge_chainReasons {r : Nat} (hr : r ∈ chainReasons s c) : r ∈ (s.judge n).2 := by
  cases hk : s.kernelOf n.pasid (s.regionOf c).pasid n.kref with
  | none => rw [judge_unregistered h hc hp hk]; exact List.mem_cons_of_mem _ hr
  | some x => rw [judge_registered h hc hp hk]; exact List.mem_append_left _ hr

end

theorem mem_chainReasons_of_state {c : List Nat} (h : ∃ a ∈ c, s.rcb a 568 2 = 1) : 9 ∈ chainReasons s c := by
  obtain ⟨a, ha, hs⟩ := h
  have any : c.any (fun a => s.rcb a 568 2 == 1) = true := List.any_eq_true.2 ⟨a, ha, beq_iff_eq.2 hs⟩
  unfold chainReasons
  rw [any]
  exact List.mem_append_left _ (List.mem_append_right _ List.mem_cons_self)

/-- More threads than 16 cores take at the kernel's resident limit need more than 16 cores (R30, R310). -/
theorem coreCount_of_wgsize {q : Node} (hn : q.kernel.named ≤ 63) (hw : 512 * q.kernel.limit < q.wgsize) : 16 < q.coreCount := by
  have room : 1 ≤ q.kernel.limit :=
    Nat.le_min.2 ⟨by decide, (Nat.le_div_iff_mul_le (by omega)).2 (by omega)⟩
  have warps : 16 * q.kernel.limit < q.warps := by
    unfold Node.warps cdiv; omega
  unfold Node.coreCount cdiv
  exact (Nat.le_div_iff_mul_le room).2 (by omega)

theorem mem_kernelReasons_of_coreCount {c : List Nat} {q : Node} (h : 16 < q.coreCount) : 2 ∈ kernelReasons s c q := by
  unfold kernelReasons
  rw [if_pos h]
  exact List.mem_append_left _ (List.mem_append_left _ (List.mem_append_left _ List.mem_cons_self))

end

/-! ### The argument copy (R308) -/

/-- The argument block as its copy gets it: read at ARGP and rounded to its classes. -/
def block (s : State) (n : Node) (a : Reach) : List Byte :=
  classRound n.kernel.keys (a.flats.map (s.hubTouch n.pasid false a.vias).peek)

/-- The state once the copy of the argument block stands in the arena. -/
def copied (s : State) (n : Node) (a b : Reach) : State :=
  ((a.flats.zip b.flats).filter (fun p => (s.hubTouch n.pasid false a.vias).isPoison p.1)).foldl (fun s p => s.poisonRange p.2 1)
    (((s.hubTouch n.pasid false a.vias).hubTouch n.region.pasid true b.vias).hubWrite (b.flats.zip (block s n a)))

/-- The node takes the pages of its copy, notes where they lie and what keys they hold, and enters the pool. -/
def launched (u : State) (page k : Nat) (n : Node) (bs : List Byte) : State :=
  ((u.takePages n.region.arenaOf false page n.kernel.argPages 0 k).modNode k (fun x =>
    { x with argCopy := page * 4096, keys := n.kernel.keys.map (fun e => BitVec.ofNat 64 (dwordAt bs e.1)) })).enterPool k

section
variable {s : State} {page k : Nat} {n : Node} (h : s.nextCopy page = some (k, n))
include h

theorem argumentCopy_copies {a b : Reach} (ha : hubReach s n.pasid n.argp.toNat n.kernel.args .load 3 = .ok a)
    (hb : hubReach s n.region.pasid (page * 4096) n.kernel.args .store 3 = .ok b) :
    exec (.argumentCopy page) s = .next (launched (copied s n a b) page k n (block s n a)) := by
  show execArgumentCopy page s = _
  unfold execArgumentCopy
  rw [h]
  dsimp only
  rw [ha, hb]
  rfl

theorem argumentCopy_faults {e : Denied} (he : hubReach s n.pasid n.argp.toNat n.kernel.args .load 3 = .error e
      ∨ hubReach s n.region.pasid (page * 4096) n.kernel.args .store 3 = .error e) :
    exec (.argumentCopy page) s = .next (s.reject k 10) := by
  show execArgumentCopy page s = _
  unfold execArgumentCopy
  rw [h]
  dsimp only
  obtain he | he := he
  · rw [he]
  · rw [he]
    cases hubReach s n.pasid n.argp.toNat n.kernel.args .load 3 <;> rfl

end

@[simp] theorem takePages_books (s : State) (rcb first n owner key : Nat) (save : Bool) :
    books (s.takePages rcb save first n owner key) = books s := addAt_books ..

/-- The pages taken are counted in PAUSED, four bytes of the RCB; every other byte is as before (R337). -/
theorem takePages_peek (s : State) (rcb first n owner key c : Nat) (h : c < rcb + 95 ∨ rcb + 99 ≤ c) :
    (s.takePages rcb false first n owner key).peek c = s.peek c := by
  unfold State.takePages State.addAt
  rw [deviceWrite_peek_outside _ _ c _ (by rw [bytesLE_length]; exact h)]
  rfl

theorem launched_peek (u : State) (page k c : Nat) (n : Node) (bs : List Byte)
    (h : c < n.region.arenaOf + 95 ∨ n.region.arenaOf + 99 ≤ c) : (launched u page k n bs).peek c = u.peek c := by
  unfold launched
  rw [peek_of_mem (enterPool_mem ..), peek_of_mem (modNode_mem ..), takePages_peek _ _ _ _ _ _ c h]

theorem launched_node {u : State} {k : Nat} (hk : Listed u k) (page : Nat) (n : Node) (bs : List Byte) :
    ((launched u page k n bs).node k).status = .pooled ∧ ((launched u page k n bs).node k).argCopy = page * 4096 := by
  have nodes := nodes_of_books (takePages_books u n.region.arenaOf page n.kernel.argPages 0 k false)
  have listed := listed_of_nodes nodes hk
  unfold launched
  generalize u.takePages n.region.arenaOf false page n.kernel.argPages 0 k = v at listed
  obtain ⟨hd, b, node⟩ := enterPool_node (modNode_listed listed (fun x =>
    { x with argCopy := page * 4096, keys := n.kernel.keys.map (fun e => BitVec.ofNat 64 (dwordAt bs e.1)) }))
  rw [node, modNode_node_self listed]
  exact ⟨rfl, rfl⟩

/-- A block that lists what stands at each address of a list is what is read there. -/
theorem map_eq_of_zip {α β : Type} {l : List α} {bs : List β} (g : α → β) (hlen : l.length = bs.length)
    (h : ∀ p ∈ l.zip bs, g p.1 = p.2) : l.map g = bs :=
  calc l.map g = ((l.zip bs).map Prod.fst).map g := by rw [List.map_fst_zip (Nat.le_of_eq hlen)]
    _ = (l.zip bs).map (fun p => g p.1) := List.map_map
    _ = (l.zip bs).map Prod.snd := List.map_congr_left h
    _ = bs := List.map_snd_zip (Nat.le_of_eq hlen.symm)

section
variable {s : State} {n : Node} {a b : Reach} (hl : ∀ f ∈ b.flats, s.lostAt f = false ∧ s.lostAt (f / 128 * 128) = false)
include hl

/-- No byte of the copy goes to a lost peer, nor does its line: the walks lose none. -/
theorem copy_lostAt {p : Nat × Byte} (hp : p ∈ b.flats.zip (block s n a)) :
    let u := (s.hubTouch n.pasid false a.vias).hubTouch n.region.pasid true b.vias
    u.lostAt p.1 = false ∧ u.lostAt (p.1 / 128 * 128) = false := by
  have walked := lostAt_of_books ((hubTouch_books (s.hubTouch n.pasid false a.vias) n.region.pasid true b.vias).trans (hubTouch_books ..))
  have kept := hl _ (List.of_mem_zip hp).1
  exact ⟨(walked _).trans kept.1, (walked _).trans kept.2⟩

theorem copied_books : books (copied s n a b) = books s :=
  (foldl_books _ _ (fun _ _ => poisonRange_books ..) _).trans <|
    (hubWrite_books fun _ hp => (copy_lostAt hl hp).1).trans ((hubTouch_books ..).trans (hubTouch_books ..))

/-- The copy has the bytes of the block. -/
theorem copied_peek (hd : b.flats.Nodup) (hn : b.flats.length = (block s n a).length) :
    ∀ p ∈ b.flats.zip (block s n a), (copied s n a b).peek p.1 = p.2 := by
  intro p hp
  refine (peek_of_mem (foldl_mem _ _ (fun _ _ => poisonRange_mem ..) _) p.1).trans ?_
  exact hubWrite_peek (fun _ hq => (copy_lostAt hl hq).1) (by rwa [List.map_fst_zip (Nat.le_of_eq hn)]) hp (copy_lostAt hl hp).2

end

/-- One page's worth of bytes lies in two pages, which a hub's access of three takes. -/
theorem hubReach_length_of_page {s : State} {pasid va n : Nat} {k : AccKind} {r : Reach} (hr : hubReach s pasid va n k 3 = .ok r)
    (hn : n ≤ 4096) : r.flats.length = n :=
  hubReach_length 3 hr (by omega)

theorem block_length {s : State} {n : Node} {a : Reach} (hk : ∀ e ∈ n.kernel.keys, KeyFits n.kernel.args e)
    (ha : a.flats.length = n.kernel.args) : (block s n a).length = n.kernel.args :=
  classRound_length _ _ hk (by rw [List.length_map, ha])

/-! ### The statement, clause by clause -/

/-- A node without a reason against it enters the pool, or waits for its argument copy. -/
theorem admitted_node {s : State} {k : Nat} (h : s.nextAdmission = some k) (hj : (s.judge (s.node k)).2 = []) :
    ∃ t, exec .admission s = .next t ∧ t.admitted = s.admitted + 1 ∧ (∀ q ∈ t.dqueue, k ∉ q.2)
      ∧ (t.node k).number = s.admitted + 1
      ∧ (t.node k).status = (if (s.judge (s.node k)).1.kernel.args = 0 then .pooled else .copying)
      ∧ (t.node k).kernel = (s.judge (s.node k)).1.kernel ∧ (t.node k).region = (s.judge (s.node k)).1.region ∧ t.mem = s.mem
      ∧ ((s.judge (s.node k)).1.kernel.args = 0 → (s.judge (s.node k)).1.kernel.constSize ≠ 0 →
          ((s.judge (s.node k)).1.region.pasid, (s.judge (s.node k)).1.kernel.constVa, (s.judge (s.node k)).1.kernel.constSize)
            ∈ t.constants) := by
  have exec_eq := admission_admits h hj
  have node := numbered_node h
  by_cases args : (s.judge (s.node k)).1.kernel.args = 0
  · rw [if_pos args] at exec_eq ⊢
    obtain ⟨hd, b, pooled⟩ := enterPool_node (numbered_listed h)
    rw [node] at pooled
    refine ⟨_, exec_eq, rfl, numbered_dqueue s k, ?_⟩
    rw [pooled]
    refine ⟨rfl, rfl, rfl, rfl, rfl, fun _ hc => ?_⟩
    have protects := enterPool_protects (s := numbered s k) (k := k) (by rw [node]; exact hc)
    rwa [node] at protects
  · rw [if_neg args] at exec_eq ⊢
    refine ⟨_, exec_eq, rfl, numbered_dqueue s k, ?_⟩
    rw [node]
    exact ⟨rfl, rfl, rfl, rfl, rfl, fun zero => absurd zero args⟩

/-- A node with a reason against it counts as faulted, and nothing of it is left to place. -/
theorem rejected_node {s : State} {k : Nat} (h : s.nextAdmission = some k) (hj : (s.judge (s.node k)).2 ≠ []) :
    ∃ t, exec .admission s = .next t ∧ t.admitted = s.admitted + 1 ∧ (∀ q ∈ t.dqueue, k ∉ q.2)
      ∧ (t.node k).number = s.admitted + 1 ∧ (t.node k).faulted = true ∧ (t.node k).grid ≤ (t.node k).next
      ∧ (t.node k).status = .placed ∧ t.evseq = s.evseq + 1 := by
  obtain ⟨node, evseq, admitted, dqueue⟩ := rejectFor_rejected (numbered_listed h) hj
  refine ⟨_, admission_rejects h hj, admitted, dqueue ▸ numbered_dqueue s k, ?_⟩
  rw [node, numbered_node h]
  exact ⟨rfl, rfl, Nat.le_refl _, rfl, evseq⟩

/-- The argument copy's node enters the pool, and its copy has the block rounded to its classes. -/
theorem argumentCopy_pools {s : State} {page k : Nat} {n : Node} (h : s.nextCopy page = some (k, n)) (hk : mget s.nodes k = some n)
    (hargs : n.kernel.args ≤ 4096) {a b : Reach} (ha : hubReach s n.pasid n.argp.toNat n.kernel.args .load 3 = .ok a)
    (hb : hubReach s n.region.pasid (page * 4096) n.kernel.args .store 3 = .ok b) (hd : b.flats.Nodup)
    (hl : ∀ f ∈ b.flats, s.lostAt f = false ∧ s.lostAt (f / 128 * 128) = false)
    (hu : ∀ f ∈ b.flats, f < n.region.arenaOf + 95 ∨ n.region.arenaOf + 99 ≤ f) :
    ∃ t, exec (.argumentCopy page) s = .next t ∧ (t.node k).status = .pooled ∧ (t.node k).argCopy = page * 4096
      ∧ ((∀ e ∈ n.kernel.keys, KeyFits n.kernel.args e) → b.flats.map t.peek = block s n a) := by
  have listed : Listed (copied s n a b) k :=
    listed_of_nodes (nodes_of_books (copied_books hl)) (Option.isSome_iff_exists.2 ⟨n, hk⟩)
  obtain ⟨status, argCopy⟩ := launched_node listed page n (block s n a)
  refine ⟨_, argumentCopy_copies h ha hb, status, argCopy, fun keys => ?_⟩
  have length : b.flats.length = (block s n a).length :=
    (hubReach_length_of_page hb hargs).trans (block_length keys (hubReach_length_of_page ha hargs)).symm
  refine map_eq_of_zip _ length fun p hp => ?_
  rw [launched_peek _ page k p.1 n _ (hu _ (List.of_mem_zip hp).1)]
  exact copied_peek hl hd length p hp

/-- Settles O53: admission by the equation for a node without a reason against it and the one for a node with one, the reasons by
the cases of `State.judge`, the argument copy by what memory reads after a hub's write, and the rounding by its two doublewords. -/
theorem admission : Obligations.Admission := by
  unfold Obligations.Admission
  refine ⟨fun s => admission_none, fun s k h => ?_, fun s n => ⟨?_, ?_, ?_⟩, fun s page k n h hk hargs => ⟨?_, ?_⟩, ?_⟩
  · by_cases hj : (s.judge (s.node k)).2 = []
    · obtain ⟨t, runs, number, queues, node⟩ := admitted_node h hj
      exact ⟨t, runs, number, fun _ => node, fun hn => absurd hj hn, queues⟩
    · obtain ⟨t, runs, number, queues, node⟩ := rejected_node h hj
      exact ⟨t, runs, number, fun he => absurd he hj, fun _ => node, queues⟩
  · exact fun h => congrArg Prod.snd (judge_unchained h)
  · exact fun c h hc => congrArg Prod.snd (judge_broken h hc)
  · intro c h hc hp
    refine ⟨fun hk => ?_, fun hs => judge_chainReasons h hc hp (mem_chainReasons_of_state hs), fun x hk hn hw => ?_⟩
    · rw [judge_unregistered h hc hp hk]
      exact List.mem_cons_self
    · rw [judge_registered h hc hp hk]
      exact List.mem_append_right _ (mem_kernelReasons_of_coreCount (coreCount_of_wgsize hn hw))
  · exact fun a b ha hb hd hl hu => argumentCopy_pools h hk hargs ha hb hd hl hu
  · intro e he
    obtain ⟨node, evseq, -, -⟩ := reject_rejected (Option.isSome_iff_exists.2 ⟨n, hk⟩ : Listed s k) 10
    refine ⟨_, argumentCopy_faults h he, ?_⟩
    rw [node]
    exact ⟨rfl, rfl, evseq⟩
  · intro bs o bounds hb hn
    refine ⟨classRound_value hb hn, (classRound_key hb hn).trans ?_, fun k hk => classRound_outside hb hn hk⟩
    unfold classOf
    cases bounds.find? (fun b => decide (dwordAt bs o ≤ b)) with
    | none => exact Nat.mod_eq_of_lt (dwordAt_lt ..)
    | some b => rfl

end Sys2Proof.Proofs.Admission
end

section
/-! PROOFS. Floating-point arithmetic, conversions and compares (R100 to R107): each word is one of three shapes, a function of
operands of one format, a function of BF16 pairs, or a compare. -/

namespace Sys2Proof.Proofs.Floats

open Sys2Proof.Machine Sys2Proof.Safety Sys2Proof.Laws

/-! ### What a lane operand is in its format (R76) -/

theorem low_32_eq_lo32 (j : Iss) (s : State) (l : Nat) (a : BitVec 7) : j.low s l 32 a = lo32 (j.val s l a) := rfl

theorem low_64_eq_toNat (j : Iss) (s : State) (l : Nat) (a : BitVec 7) : j.low s l 64 a = (j.val s l a).toNat :=
  Nat.mod_eq_of_lt (j.val s l a).isLt

theorem low_16_eq_half (j : Iss) (s : State) (l : Nat) (a : BitVec 7) : j.low s l 16 a = half 0 (j.val s l a) := by
  simp [Iss.low, half]

/-- Element 0 of a pair, as the pair instructions cut it out of the low 32 bits. -/
theorem low_32_mod_eq_half (j : Iss) (s : State) (l : Nat) (a : BitVec 7) : j.low s l 32 a % 65536 = half 0 (j.val s l a) := by
  unfold Iss.low half
  omega

/-- Element 1 of a pair. -/
theorem low_32_div_eq_half (j : Iss) (s : State) (l : Nat) (a : BitVec 7) : j.low s l 32 a / 65536 = half 1 (j.val s l a) := by
  unfold Iss.low half
  omega

theorem pairOut_eq_out_pair (x y : FRes) : pairOut x y = (pair x y).out := rfl

/-! ### The shapes of a floating-point word -/

/-- A word whose lanes give the value and the flags of f, and no input to AMAX. Where no rounding mode may be named, the mode is RNE
(R100). -/
theorem fpOut_of_floatResult {i : Instr} {srcs : List (BitVec 7)} {rm : Bool} {d : BitVec 6} {f : Rm → (BitVec 7 → Word) → FRes}
    {h : State → Iss → Nat → LaneOut} (he : ∀ s, exec i s = floatResult s d srcs rm true (h s))
    (hf : ∀ s j l, (rm = false → j.rm = .rne) →
      (h s j l).bits = (f j.rm (j.val s l)).bits ∧ (h s j l).flags = (f j.rm (j.val s l)).flags)
    (hn : ∀ s j l, (h s j l).amax = []) : fpOut i srcs rm d f :=
  floatResult_completes he (fun s j hx l => hf s j l (fun hr => rne_of_check hx.2.1 hr)) (fun s j => by simp [hn])

theorem fp2_of_float2 {i : Instr} {f : Fmt} {rm : Bool} {op : Fmt → Rm → Nat → Nat → FRes} {d : BitVec 6} {a b : BitVec 7}
    (he : ∀ s, exec i s = float2 f rm op d a b s) : fp2 i f rm op d a b :=
  fpOut_of_floatResult he (fun _ _ _ _ => ⟨rfl, rfl⟩) (fun _ _ _ => rfl)

/-- A function of one FP32 operand. -/
theorem fp1_of_float1 {i : Instr} {rm : Bool} {op : Fmt → Rm → Nat → FRes} {op' : Rm → Nat → FRes} {d : BitVec 6} {a : BitVec 7}
    (he : ∀ s, exec i s = float1 fp32 rm op d a s) (hop : ∀ m, op fp32 m = op' m) : fp1 i true rm op' d a :=
  fpOut_of_floatResult he (fun _ j _ _ => by rw [hop j.rm]; exact ⟨rfl, rfl⟩) (fun _ _ _ => rfl)

/-- A fused multiply-add; cut takes the format's bits out of a source. -/
theorem fpOut_of_float3 {i : Instr} {f : Fmt} {p q : Bool} {d : BitVec 6} {a b : BitVec 7} {c : BitVec 4} (cut : Word → Nat)
    (hc : ∀ x : Word, x.toNat % 2 ^ f.width = cut x) (he : ∀ s, exec i s = float3 f p q d a b c s) :
    fpOut i [a, b, queueSpec c] true d
      (fun m x => opFma f p q m (cut (x a)) (cut (x b)) (cut (x (queueSpec c)))) :=
  fpOut_of_floatResult he (fun s j l _ => by simp only [Iss.low, hc]; exact ⟨rfl, rfl⟩) (fun _ _ _ => rfl)

/-- A function of each element of BF16 pairs (R103). -/
theorem fpOut_of_pair2 {i : Instr} {rm : Bool} {op : Fmt → Rm → Nat → Nat → FRes} {op' : Rm → Nat → Nat → FRes} {d : BitVec 6}
    {a b : BitVec 7} (he : ∀ s, exec i s = pair2 rm op d a b s) (hop : ∀ m, op bf16 m = op' m) :
    fpOut i [a, b] rm d (fun m x => both (op' m) (x a) (x b)) :=
  fpOut_of_floatResult he
    (fun _ j _ _ => by
      simp only [low_32_mod_eq_half, low_32_div_eq_half, pairOut_eq_out_pair, hop j.rm]
      exact ⟨rfl, rfl⟩)
    (fun _ _ _ => rfl)

/-! ### Conversions (R105, R106) -/

/-- A conversion between formats that updates no AMAX. -/
theorem fpOut_of_convertFmt {i : Instr} {src dst : Fmt} {rm : Bool} {d : BitVec 6} {a : BitVec 7}
    {f : Rm → (BitVec 7 → Word) → FRes} (he : ∀ s, exec i s = convertFmt src dst rm false d a s)
    (hf : ∀ (s : State) (j : Iss) (l : Nat), (rm = false → j.rm = .rne) →
      convert src dst j.rm (j.low s l src.width a) = f j.rm (j.val s l)) :
    fpOut i [a] rm d f :=
  fpOut_of_floatResult he (fun s j l hr => by rw [← hf s j l hr]; exact ⟨rfl, rfl⟩) (fun _ _ _ => rfl)

/-- A conversion from FP32 that updates AMAX with its operands (R85). -/
theorem completes_of_convertFmt_amax {i : Instr} {dst : Fmt} {d : BitVec 6} {a : BitVec 7}
    (he : ∀ s, exec i s = convertFmt fp32 dst true true d a s) :
    Completes i (fun _ _ => { srcs := [a], dst := [d], rm := true, nf := true }) (fun s j =>
      (givesEach d (fun s j l => BitVec.ofNat 64 (convert fp32 dst j.rm (lo32 (j.val s l a))).bits) s j).raise
        (raisedBy j (fun l => (convert fp32 dst j.rm (lo32 (j.val s l a))).flags)) (j.lanes.map (fun l => lo32 (j.val s l a)))) :=
  floatResult_completes (g := fun s j l => convert fp32 dst j.rm (lo32 (j.val s l a))) he (fun _ _ _ _ => ⟨rfl, rfl⟩)
    (fun _ _ => List.map_eq_flatMap.symm)

/-- A conversion to an integer, of FP32 or of FP64. -/
theorem fp1_of_convertInt {i : Instr} {single : Bool} {lo hi : Int} {d : BitVec 6} {a : BitVec 7}
    (he : ∀ s, exec i s = convertInt (if single then fp32 else fp64) lo hi d a s) :
    fp1 i single true (fun m x =>
      let r := toInteger m lo hi (fval (if single then fp32 else fp64) x)
      ⟨(BitVec.ofInt 64 r.1).toNat, r.2⟩) d a :=
  fpOut_of_floatResult he
    (fun s j l _ => by
      cases single with
      | true => exact ⟨rfl, rfl⟩
      | false =>
        have hlow : j.low s l fp64.width a = (j.val s l a).toNat := low_64_eq_toNat j s l a
        simp only [Bool.false_eq_true, if_false, hlow, intImage, and_self])
    (fun _ _ _ => rfl)

/-! ### Compares (R107) -/

/-- A register compare. -/
theorem fpOut_of_floatCompare {i : Instr} (c : Order) {d : BitVec 6} {a b : BitVec 7}
    (he : ∀ s, exec i s = floatCompare c d a b s) :
    fpOut i [a, b] false d (fun _ x => ⟨if c ((fval fp32 (lo32 (x a))).cmp (fval fp32 (lo32 (x b)))) then 1 else 0,
      nanFlags [fval fp32 (lo32 (x a)), fval fp32 (lo32 (x b))]⟩) :=
  fpOut_of_floatResult he (fun _ _ _ _ => ⟨rfl, rfl⟩) (fun _ _ _ => rfl)

/-- A guard compare, of a format of n bits. -/
theorem completes_of_floatCompareGuard {i : Instr} {f : Fmt} {n : Nat} (c : Order) {g : BitVec 3} {a b : BitVec 7}
    (hn : f.width = n) (he : ∀ s, exec i s = floatCompareGuard f c g a b s) :
    Completes i (fun _ _ => { srcs := [a, b], nf := true }) (fun s j =>
      let x := fun (l : Nat) => fval f ((j.val s l a).toNat % 2 ^ n)
      let y := fun (l : Nat) => fval f ((j.val s l b).toNat % 2 ^ n)
      (guardsEach g (fun _ _ l => c ((x l).cmp (y l))) s j).raise (raisedBy j (fun l => nanFlags [x l, y l])) []) := by
  subst hn
  exact floatGuard_completes he

/-! ### The statements -/

/-- Settles O5, by the shape of each word: two operands, one operand, a fused multiply-add, or BF16 pairs. -/
theorem floatArithmetic : Obligations.FloatArithmetic := by
  unfold Obligations.FloatArithmetic
  intro d a b c e
  refine ⟨fp2_of_float2 fun _ => rfl, fp2_of_float2 fun _ => rfl, fp2_of_float2 fun _ => rfl, fp2_of_float2 fun _ => rfl,
    fp2_of_float2 fun _ => rfl, fp2_of_float2 fun _ => rfl, fp2_of_float2 fun _ => rfl, fp2_of_float2 fun _ => rfl,
    fp2_of_float2 fun _ => rfl, fp2_of_float2 fun _ => rfl, fp1_of_float1 (fun _ => rfl) (fun _ => rfl),
    fp1_of_float1 (fun _ => rfl) (fun _ => rfl), fp1_of_float1 (fun _ => rfl) (fun _ => rfl),
    fpOut_of_float3 lo32 (fun _ => rfl) (fun _ => rfl), fpOut_of_float3 lo32 (fun _ => rfl) (fun _ => rfl),
    fpOut_of_float3 lo32 (fun _ => rfl) (fun _ => rfl), fpOut_of_float3 BitVec.toNat (fun x => Nat.mod_eq_of_lt x.isLt) (fun _ => rfl),
    fpOut_of_pair2 (fun _ => rfl) (fun _ => rfl), fpOut_of_pair2 (fun _ => rfl) (fun _ => rfl),
    fpOut_of_pair2 (fun _ => rfl) (fun _ => rfl), fpOut_of_pair2 (fun _ => rfl) (fun _ => rfl), ?_⟩
  refine fpOut_of_floatResult (fun _ => rfl) (fun s j l _ => ?_) (fun _ _ _ => rfl)
  simp only [low_32_mod_eq_half, low_32_div_eq_half, pairOut_eq_out_pair]
  exact ⟨rfl, rfl⟩

/-- Settles O6, by the shape of each word: a conversion from or to an integer, a conversion between formats with or without its update
of AMAX, a register compare, or a guard compare. -/
theorem conversionsAndCompares : Obligations.ConversionsAndCompares := by
  unfold Obligations.ConversionsAndCompares
  refine ⟨fun d a b => ?_, fun d g a b => ?_⟩
  · refine ⟨?f32s32, ?f64s64, fp1_of_convertInt fun _ => rfl, fp1_of_convertInt fun _ => rfl, fp1_of_convertInt fun _ => rfl,
      ?f64f32, ?f32f64, ?f32bf16, ?f32f16, completes_of_convertFmt_amax fun _ => rfl, completes_of_convertFmt_amax fun _ => rfl, ?pack2⟩
    case f32s32 =>
      refine fpOut_of_floatResult (fun _ => rfl) (fun s j l _ => ?_) (fun _ _ _ => rfl)
      have hint : BitVec.ofNat 32 (lo32 (j.val s l a)) = (j.val s l a).setWidth 32 := BitVec.eq_of_toNat_eq (by simp [lo32])
      simp only [if_true, hint]
      exact ⟨rfl, rfl⟩
    case f64s64 =>
      refine fpOut_of_floatResult (fun _ => rfl) (fun s j l _ => ?_) (fun _ _ _ => rfl)
      simp only [Bool.false_eq_true, if_false, BitVec.ofNat_toNat, BitVec.setWidth_eq]
      exact ⟨rfl, rfl⟩
    case f64f32 => exact fpOut_of_convertFmt (fun _ => rfl) (fun s j l hr => by rw [hr rfl]; rfl)
    case f32f64 =>
      exact fpOut_of_convertFmt (fun _ => rfl) (fun s j l _ => congrArg _ (low_64_eq_toNat j s l a))
    case f32bf16 =>
      exact fpOut_of_convertFmt (fun _ => rfl) (fun s j l hr => by rw [hr rfl]; exact congrArg _ (low_16_eq_half j s l a))
    case f32f16 =>
      exact fpOut_of_convertFmt (fun _ => rfl) (fun s j l hr => by rw [hr rfl]; exact congrArg _ (low_16_eq_half j s l a))
    case pack2 =>
      refine fpOut_of_floatResult (fun _ => rfl) (fun s j l _ => ?_) (fun _ _ _ => rfl)
      simp only [low_32_eq_lo32, pairOut_eq_out_pair]
      exact ⟨rfl, rfl⟩
  · exact ⟨fpOut_of_floatCompare ordLt fun _ => rfl, fpOut_of_floatCompare ordLe fun _ => rfl,
      fpOut_of_floatCompare ordEq fun _ => rfl, completes_of_floatCompareGuard ordLt rfl fun _ => rfl,
      completes_of_floatCompareGuard ordLe rfl fun _ => rfl, completes_of_floatCompareGuard ordEq rfl fun _ => rfl,
      completes_of_floatCompareGuard ordNe rfl fun _ => rfl, completes_of_floatCompareGuard ordUn rfl fun _ => rfl,
      completes_of_floatCompareGuard ordLt rfl fun _ => rfl⟩

end Sys2Proof.Proofs.Floats
end

section
/-! PROOFS. NaN results (R72), and the accumulation of FLAGS, AMAX and AMAXNAN (R83, R85): every rounding answers a pattern whose
exponent field is not all ones, an infinity, or the canonical NaN, and every function of the specification ends in such an answer. -/

namespace Sys2Proof.Proofs.Nans

open Sys2Proof.Machine

/-! ### Patterns that are NaNs (R70) -/

/-- The patterns that a result may have: one that is no NaN, or the canonical NaN. -/
def NanCanonical (f : Fmt) (r : Nat) : Prop := (fval f r).isNan = true → r = f.nan

theorem isNan_fval_iff (f : Fmt) (r : Nat) :
    (fval f r).isNan = true ↔ r / 2 ^ f.fb % 2 ^ f.eb = f.top ∧ r % 2 ^ f.fb ≠ 0 := by
  unfold fval
  dsimp only
  split
  next htop =>
    split
    next hfrac => simp [FVal.isNan, hfrac]
    next hfrac => simp [FVal.isNan, htop, hfrac]
  next htop => split <;> simp [FVal.isNan, htop]

/-- The sign decides nothing about being a NaN. -/
theorem isNan_fval_zero_add (f : Fmt) (neg : Bool) (r : Nat) : (fval f (f.zero neg + r)).isNan = (fval f r).isNan := by
  cases neg with
  | false => simp [Fmt.zero]
  | true =>
    have hdiv : (2 ^ f.eb * 2 ^ f.fb + r) / 2 ^ f.fb = 2 ^ f.eb + r / 2 ^ f.fb := by
      rw [Nat.add_comm, Nat.add_mul_div_right _ _ (Nat.two_pow_pos _), Nat.add_comm]
    rw [Bool.eq_iff_iff, isNan_fval_iff, isNan_fval_iff]
    simp [Fmt.zero, Fmt.signBit, Nat.pow_add, hdiv]

theorem isNan_fval_mod_signBit (f : Fmt) (r : Nat) : (fval f (r % f.signBit)).isNan = (fval f r).isNan := by
  have hdiv : r % (2 ^ f.eb * 2 ^ f.fb) / 2 ^ f.fb = r / 2 ^ f.fb % 2 ^ f.eb := by
    rw [Nat.mul_comm, Nat.mod_mul_right_div_self]
  rw [Bool.eq_iff_iff, isNan_fval_iff, isNan_fval_iff]
  simp [Fmt.signBit, Nat.pow_add, hdiv, Nat.mod_mod_of_dvd r (Nat.dvd_mul_left (2 ^ f.fb) (2 ^ f.eb))]

theorem isNan_fval_of_lt {f : Fmt} {r : Nat} (h : r < f.top * 2 ^ f.fb) : (fval f r).isNan = false := by
  have hdiv : r / 2 ^ f.fb < f.top := Nat.div_lt_of_lt_mul (by rwa [Nat.mul_comm])
  have hmod := Nat.mod_le (r / 2 ^ f.fb) (2 ^ f.eb)
  rw [← Bool.not_eq_true, isNan_fval_iff]
  omega

/-! ### Patterns that results have -/

theorem nanCanonical_of_isNan_eq_false {f : Fmt} {r : Nat} (h : (fval f r).isNan = false) : NanCanonical f r :=
  fun hn => absurd (h.symm.trans hn) Bool.false_ne_true

theorem nanCanonical_nan {f : Fmt} : NanCanonical f f.nan := fun _ => rfl

/-- Reads the pattern of a result that is written out, so that nothing is asked of its flags. -/
theorem nanCanonical_mk {f : Fmt} {r : Nat} {fl : FlagBits} (h : NanCanonical f r) : NanCanonical f (FRes.mk r fl).bits := h

theorem nanCanonical_ite {f : Fmt} {c : Prop} [Decidable c] {x y : FRes} (hx : c → NanCanonical f x.bits)
    (hy : ¬ c → NanCanonical f y.bits) : NanCanonical f (if c then x else y).bits := by
  split
  next h => exact hx h
  next h => exact hy h

/-- A pattern with a sign before an exponent field that is not all ones. -/
theorem nanCanonical_zero_add {f : Fmt} {neg : Bool} {r : Nat} (h : r < f.top * 2 ^ f.fb) : NanCanonical f (f.zero neg + r) :=
  nanCanonical_of_isNan_eq_false ((isNan_fval_zero_add f neg r).trans (isNan_fval_of_lt h))

theorem nanCanonical_inf {f : Fmt} {neg : Bool} : NanCanonical f (f.inf neg) := by
  refine nanCanonical_of_isNan_eq_false ((isNan_fval_zero_add f neg _).trans ?_)
  rw [← Bool.not_eq_true, isNan_fval_iff]
  simp

section
variable {f : Fmt} (hf : 0 < f.eb)
include hf

theorem top_mul_pos : 0 < f.top * 2 ^ f.fb :=
  Nat.mul_pos (Nat.sub_pos_of_lt (Nat.one_lt_two_pow (Nat.ne_of_gt hf))) (Nat.two_pow_pos _)

theorem nanCanonical_zero {neg : Bool} : NanCanonical f (f.zero neg) := nanCanonical_zero_add (r := 0) (top_mul_pos hf)

theorem nanCanonical_huge {neg : Bool} : NanCanonical f (f.huge neg) := by
  have hpos := top_mul_pos hf
  have hsplit : f.huge neg = f.zero neg + (f.top * 2 ^ f.fb - 1) := Nat.add_sub_assoc hpos _
  rw [hsplit]
  exact nanCanonical_zero_add (Nat.sub_lt hpos Nat.one_pos)

/-! ### Roundings (R71, R73) -/

/-- An overflow gives an infinity or the largest finite value; every other rounding stays below the exponent field of all ones. -/
theorem nanCanonical_rnd {m : Rm} {neg : Bool} {num den : Nat} {e : Int} : NanCanonical f (rnd f m neg num den e).bits := by
  unfold rnd
  refine nanCanonical_ite (fun _ => nanCanonical_zero hf) (fun _ =>
    nanCanonical_ite (fun _ => ?_) (fun hb => nanCanonical_zero_add (Nat.lt_of_not_le hb)))
  cases m with
  | rne | rna => exact nanCanonical_inf
  | rtz => exact nanCanonical_huge hf
  | rup =>
    cases neg with
    | true => exact nanCanonical_huge hf
    | false => exact nanCanonical_inf
  | rdn =>
    cases neg with
    | true => exact nanCanonical_inf
    | false => exact nanCanonical_huge hf

theorem nanCanonical_rndInt' {m : Rm} {zneg : Bool} {v e : Int} : NanCanonical f (rndInt' f m zneg v e).bits :=
  nanCanonical_ite (fun _ => nanCanonical_zero hf) (fun _ => nanCanonical_rnd hf)

theorem nanCanonical_ofInteger {m : Rm} {v : Int} : NanCanonical f (ofInteger f m v).bits := nanCanonical_rndInt' hf

theorem nanCanonical_round {m : Rm} {x : FVal} : NanCanonical f (x.round f m).bits := by
  cases x with
  | nan q => exact nanCanonical_nan
  | inf n => exact nanCanonical_inf
  | num n k e => exact nanCanonical_ite (fun _ => nanCanonical_zero hf) (fun _ => nanCanonical_rnd hf)

/-! ### The operations of R101, R102 and R105 -/

theorem nanCanonical_fadd2 {m : Rm} {x y : FVal} : NanCanonical f (fadd2 f m x y).bits := by
  unfold fadd2
  split
  next => exact nanCanonical_ite (fun _ => nanCanonical_inf) (fun _ => nanCanonical_nan)
  next => exact nanCanonical_inf
  next => exact nanCanonical_inf
  next => exact nanCanonical_rndInt' hf
  next => exact nanCanonical_nan

theorem nanCanonical_opAdd {m : Rm} {a b : Nat} : NanCanonical f (opAdd f m a b).bits :=
  nanCanonical_ite (fun _ => nanCanonical_nan) (fun _ => nanCanonical_fadd2 hf)

theorem nanCanonical_opSub {m : Rm} {a b : Nat} : NanCanonical f (opSub f m a b).bits :=
  nanCanonical_ite (fun _ => nanCanonical_nan) (fun _ => nanCanonical_fadd2 hf)

theorem nanCanonical_opMul {m : Rm} {a b : Nat} : NanCanonical f (opMul f m a b).bits := by
  refine nanCanonical_ite (fun _ => nanCanonical_nan) (fun _ => ?_)
  cases mulExact (fval f a) (fval f b) with
  | none => exact nanCanonical_nan
  | some p => exact nanCanonical_round hf

theorem nanCanonical_opFma {p q : Bool} {m : Rm} {a b c : Nat} : NanCanonical f (opFma f p q m a b c).bits := by
  refine nanCanonical_ite (fun _ => nanCanonical_nan) (fun _ => nanCanonical_ite (fun _ => nanCanonical_nan) (fun _ => ?_))
  cases mulExact (fval f a) (fval f b) with
  | none => exact nanCanonical_nan
  | some p => exact nanCanonical_fadd2 hf

theorem nanCanonical_opRint {m : Rm} {a : Nat} : NanCanonical f (opRint f m a).bits := by
  unfold opRint
  cases fval f a with
  | nan q => exact nanCanonical_nan
  | inf n => exact nanCanonical_inf
  | num n k e =>
    dsimp only
    split
    next => exact nanCanonical_zero hf
    next => exact nanCanonical_rnd hf

theorem nanCanonical_convert {g : Fmt} {m : Rm} {a : Nat} : NanCanonical f (convert g f m a).bits := by
  unfold convert
  cases fval g a with
  | nan q => exact nanCanonical_nan
  | inf n => exact nanCanonical_round hf
  | num n k e => exact nanCanonical_round hf

end

/-! MIN, MAX, ABS and NEG answer the canonical NaN for a NaN, else a pattern of an operand, its sign aside. -/

section
variable {f : Fmt} {m : Rm} {a b : Nat}

theorem nanCanonical_opMin : NanCanonical f (opMin f m a b).bits := by
  refine nanCanonical_ite (fun _ => nanCanonical_nan) (fun h => ?_)
  obtain ⟨ha, hb⟩ := Bool.or_eq_false_iff.1 (eq_false_of_ne_true h)
  exact nanCanonical_ite (fun _ => nanCanonical_of_isNan_eq_false ha) (fun _ => nanCanonical_of_isNan_eq_false hb)

theorem nanCanonical_opMax : NanCanonical f (opMax f m a b).bits := by
  refine nanCanonical_ite (fun _ => nanCanonical_nan) (fun h => ?_)
  obtain ⟨ha, hb⟩ := Bool.or_eq_false_iff.1 (eq_false_of_ne_true h)
  exact nanCanonical_ite (fun _ => nanCanonical_of_isNan_eq_false ha) (fun _ => nanCanonical_of_isNan_eq_false hb)

theorem nanCanonical_opAbs : NanCanonical f (opAbs f m a).bits :=
  nanCanonical_ite (fun _ => nanCanonical_nan) (fun h =>
    nanCanonical_of_isNan_eq_false ((isNan_fval_mod_signBit f a).trans (eq_false_of_ne_true h)))

theorem nanCanonical_opNeg : NanCanonical f (opNeg f m a).bits := by
  refine nanCanonical_ite (fun _ => nanCanonical_nan) (fun h => nanCanonical_of_isNan_eq_false ?_)
  have hsign : (if a / f.signBit % 2 = 1 then 0 else f.signBit) = f.zero !decide (a / f.signBit % 2 = 1) := by
    by_cases hs : a / f.signBit % 2 = 1 <;> simp [Fmt.zero, hs]
  calc (fval f (a % f.signBit + if a / f.signBit % 2 = 1 then 0 else f.signBit)).isNan
      = (fval f (a % f.signBit)).isNan := by rw [hsign, Nat.add_comm, isNan_fval_zero_add]
    _ = (fval f a).isNan := isNan_fval_mod_signBit f a
    _ = false := eq_false_of_ne_true h

/-- MIN and MAX of a NaN. -/
theorem opMin_bits_of_isNan (h : (fval f a).isNan = true ∨ (fval f b).isNan = true) : (opMin f m a b).bits = f.nan :=
  congrArg FRes.bits (if_pos (Bool.or_eq_true_iff.2 h))

theorem opMax_bits_of_isNan (h : (fval f a).isNan = true ∨ (fval f b).isNan = true) : (opMax f m a b).bits = f.nan :=
  congrArg FRes.bits (if_pos (Bool.or_eq_true_iff.2 h))

/-- A conversion of a NaN. -/
theorem convert_bits_of_isNan {g : Fmt} (h : (fval g a).isNan = true) : (convert g f m a).bits = f.nan := by
  unfold convert
  revert h
  cases fval g a with
  | nan q => exact fun _ => rfl
  | inf n => exact fun h => absurd h Bool.false_ne_true
  | num n k e => exact fun h => absurd h Bool.false_ne_true

end

/-! ### Shared-exponent elements and special functions (R78, R108 to R110) -/

theorem fp32_eb_pos : 0 < fp32.eb := by decide

theorem nanCanonical_seFp32 {w scale code i : Nat} : NanCanonical fp32 (seFp32 w scale code i) := nanCanonical_round fp32_eb_pos

theorem nanCanonical_rnd32 {m : Rm} {neg : Bool} {num den : Nat} {e : Int} : NanCanonical fp32 (rnd fp32 m neg num den e).bits :=
  nanCanonical_rnd fp32_eb_pos

theorem nanCanonical_zero32 {neg : Bool} : NanCanonical fp32 (fp32.zero neg) := nanCanonical_zero fp32_eb_pos

theorem nanCanonical_posZero32 : NanCanonical fp32 0 := nanCanonical_zero32 (neg := false)

/-- 1 with a sign. -/
theorem nanCanonical_signed_one32 {neg : Bool} : NanCanonical fp32 ((if neg then fp32.signBit else 0) + one32) :=
  nanCanonical_zero_add (by decide)

theorem nanCanonical_one32 : NanCanonical fp32 one32 := nanCanonical_of_isNan_eq_false (by decide)

theorem nanCanonical_half32 : NanCanonical fp32 half32 := nanCanonical_of_isNan_eq_false (by decide)

theorem nanCanonical_rndNear {neg : Bool} {n : Nat} : NanCanonical fp32 (rndNear neg n).bits :=
  nanCanonical_mk nanCanonical_rnd32

theorem nanCanonical_rndSinPi {neg : Bool} {m : Nat} {e : Int} : NanCanonical fp32 (rndSinPi neg m e).bits :=
  nanCanonical_ite (fun _ => nanCanonical_mk nanCanonical_zero32) (fun _ =>
    nanCanonical_ite (fun _ => nanCanonical_mk nanCanonical_signed_one32) (fun _ => nanCanonical_rndNear))

theorem nanCanonical_rndRoot {num den : Nat} {e : Int} : NanCanonical fp32 (rndRoot num den e).bits := nanCanonical_rnd32

theorem nanCanonical_sfuAccurate {fn : Sfu} {neg : Bool} {m : Nat} {e : Int} : NanCanonical fp32 (sfuAccurate fn neg m e).bits := by
  cases fn with
  | ex2 =>
    exact nanCanonical_ite
      (fun _ => nanCanonical_ite (fun _ => nanCanonical_rndNear) (fun _ => nanCanonical_mk nanCanonical_inf))
      (fun _ => nanCanonical_ite (fun _ => nanCanonical_rnd32) (fun _ => nanCanonical_mk nanCanonical_rnd32))
  | lg2 => exact nanCanonical_ite (fun _ => nanCanonical_ofInteger fp32_eb_pos) (fun _ => nanCanonical_mk nanCanonical_rnd32)
  | rcp => exact nanCanonical_rnd32
  | rsq => exact nanCanonical_ite (fun _ => nanCanonical_rndRoot) (fun _ => nanCanonical_rndRoot)
  | sqrt => exact nanCanonical_ite (fun _ => nanCanonical_rndRoot) (fun _ => nanCanonical_rndRoot)
  | sinpi => exact nanCanonical_ite (fun _ => nanCanonical_mk nanCanonical_zero32) (fun _ => nanCanonical_rndSinPi)
  | cospi => exact nanCanonical_ite (fun _ => nanCanonical_rndSinPi) (fun _ => nanCanonical_rndSinPi)
  | tanh => exact nanCanonical_ite (fun _ => nanCanonical_rndNear) (fun _ => nanCanonical_rndNear)
  | sigm =>
    exact nanCanonical_ite
      (fun _ => nanCanonical_ite (fun _ => nanCanonical_rndNear) (fun _ => nanCanonical_rndNear))
      (fun _ => nanCanonical_rndNear)
  | gelu =>
    exact nanCanonical_ite
      (fun _ => nanCanonical_ite (fun _ => nanCanonical_rndNear) (fun _ => nanCanonical_mk nanCanonical_rnd32))
      (fun _ => nanCanonical_mk nanCanonical_rnd32)

theorem nanCanonical_formed {neg : Bool} {y : Nat} {n : Int} : NanCanonical fp32 (formed neg y n).bits := by
  unfold formed
  cases fval fp32 y with
  | nan q => exact nanCanonical_nan
  | inf yn => exact nanCanonical_inf
  | num yn m e =>
    exact nanCanonical_ite (fun _ => nanCanonical_mk nanCanonical_zero32) (fun _ =>
      nanCanonical_ite (fun _ => nanCanonical_mk nanCanonical_zero32) (fun _ => nanCanonical_mk nanCanonical_rnd32))

theorem nanCanonical_sfuFast {fn : Sfu} {neg : Bool} {m : Nat} {e : Int} : NanCanonical fp32 (sfuFast fn neg m e).bits := by
  cases fn with
  | ex2 =>
    exact nanCanonical_ite
      (fun _ => nanCanonical_ite (fun _ => nanCanonical_mk nanCanonical_posZero32) (fun _ => nanCanonical_mk nanCanonical_inf))
      (fun _ => nanCanonical_formed)
  | lg2 | rcp | rsq | sqrt | tanh | sigm => exact nanCanonical_formed
  | sinpi => exact nanCanonical_ite (fun _ => nanCanonical_mk nanCanonical_zero32) (fun _ => nanCanonical_formed)
  | cospi => exact nanCanonical_ite (fun _ => nanCanonical_mk nanCanonical_posZero32) (fun _ => nanCanonical_formed)
  | gelu =>
    exact nanCanonical_ite
      (fun _ => nanCanonical_ite (fun _ => nanCanonical_mk nanCanonical_zero32) (fun _ => nanCanonical_mk nanCanonical_rnd32))
      (fun _ => nanCanonical_formed)

/-- An entry of R108's table, where there is one. -/
def EntryCanonical (o : Option FRes) : Prop := ∀ r ∈ o, NanCanonical fp32 r.bits

theorem entryCanonical_none : EntryCanonical none := fun _ h => nomatch h

theorem entryCanonical_some {r : Nat} {fl : FlagBits} (h : NanCanonical fp32 r) : EntryCanonical (some ⟨r, fl⟩) :=
  fun _ he => Option.some.inj he ▸ h

theorem entryCanonical_ite {c : Prop} [Decidable c] {o p : Option FRes} (ho : EntryCanonical o) (hp : EntryCanonical p) :
    EntryCanonical (if c then o else p) := by
  split
  next => exact ho
  next => exact hp

theorem nanCanonical_cond {c : Bool} {r t : Nat} (hr : NanCanonical fp32 r) (ht : NanCanonical fp32 t) :
    NanCanonical fp32 (if c then r else t) := by
  cases c with
  | true => exact hr
  | false => exact ht

/-- R108's table. -/
theorem entryCanonical_sfuSpecial {fn : Sfu} {x : FVal} : EntryCanonical (sfuSpecial fn x) := by
  have zero : ∀ {neg : Bool}, EntryCanonical (some ⟨fp32.zero neg, 0⟩) := entryCanonical_some nanCanonical_zero32
  have inf : ∀ {neg : Bool}, EntryCanonical (some ⟨fp32.inf neg, 0⟩) := entryCanonical_some nanCanonical_inf
  have one : EntryCanonical (some ⟨one32, 0⟩) := entryCanonical_some nanCanonical_one32
  have half : EntryCanonical (some ⟨half32, 0⟩) := entryCanonical_some nanCanonical_half32
  have bad : EntryCanonical (some (invalid fp32)) := entryCanonical_some nanCanonical_nan
  have pos : EntryCanonical (some ⟨0, 0⟩) := entryCanonical_some nanCanonical_posZero32
  cases x with
  | nan q => cases fn <;> exact entryCanonical_none
  | inf n =>
    cases fn with
    | ex2 => exact entryCanonical_some (nanCanonical_cond nanCanonical_posZero32 nanCanonical_inf)
    | lg2 | sqrt => exact entryCanonical_ite bad inf
    | rcp => exact zero
    | rsq => exact entryCanonical_ite bad pos
    | sinpi | cospi => exact bad
    | tanh => exact entryCanonical_some nanCanonical_signed_one32
    | sigm => exact entryCanonical_some (nanCanonical_cond nanCanonical_posZero32 nanCanonical_one32)
    | gelu => exact entryCanonical_some (nanCanonical_cond nanCanonical_zero32 nanCanonical_inf)
  | num n m e =>
    cases fn with
    | ex2 | cospi => exact entryCanonical_ite one entryCanonical_none
    | lg2 => exact entryCanonical_ite inf (entryCanonical_ite bad (entryCanonical_ite pos entryCanonical_none))
    | rcp => exact entryCanonical_ite inf entryCanonical_none
    | rsq => exact entryCanonical_ite inf (entryCanonical_ite bad entryCanonical_none)
    | sqrt => exact entryCanonical_ite zero (entryCanonical_ite bad entryCanonical_none)
    | sinpi | tanh | gelu => exact entryCanonical_ite zero entryCanonical_none
    | sigm => exact entryCanonical_ite half entryCanonical_none

theorem nanCanonical_sfu {fn : Sfu} {acc : Bool} {a : Nat} : NanCanonical fp32 (sfu fn acc a).bits := by
  unfold sfu
  dsimp only
  split
  next => exact nanCanonical_nan
  next =>
    split
    next h => exact entryCanonical_sfuSpecial _ h
    next =>
      split
      next => exact nanCanonical_ite (fun _ => nanCanonical_sfuAccurate) (fun _ => nanCanonical_sfuFast)
      next => exact nanCanonical_nan

/-! ### FLAGS, AMAX and AMAXNAN (R83, R85) -/

theorem amaxStep_nan (m : BitVec 32 × Bool) (x : Nat) : (amaxStep m x).2 = (m.2 || (fval fp32 x).isNan) := by
  unfold amaxStep
  split
  next h => simp [h]
  next h => split <;> simp [h]

/-- The magnitude with which an FP32 value enters AMAX: none of a NaN. -/
def magnitude (x : Nat) : Nat := if (fval fp32 x).isNan then 0 else x % 2 ^ 31

theorem amaxStep_max (m : BitVec 32 × Bool) (x : Nat) : (amaxStep m x).1.toNat = max m.1.toNat (magnitude x) := by
  have hlt : x % 2 ^ 31 < 2 ^ 32 := by omega
  unfold amaxStep magnitude
  split
  next => simp
  next =>
    split
    next h => rw [BitVec.toNat_ofNat, Nat.mod_eq_of_lt hlt, Nat.max_eq_right (Nat.le_of_lt h)]
    next h => rw [Nat.max_eq_left (Nat.le_of_not_lt h)]

/-- A maximum and a disjunction do not depend on the order of the values. -/
theorem amaxStep_right_comm (m : BitVec 32 × Bool) (x y : Nat) :
    amaxStep (amaxStep m x) y = amaxStep (amaxStep m y) x := by
  refine Prod.ext (BitVec.eq_of_toNat_eq ?_) ?_
  · simp only [amaxStep_max, Nat.max_right_comm]
  · simp only [amaxStep_nan, Bool.or_right_comm]

theorem foldl_amaxStep_comm (m : BitVec 32 × Bool) (xs ys : List Nat) :
    ys.foldl amaxStep (xs.foldl amaxStep m) = xs.foldl amaxStep (ys.foldl amaxStep m) := by
  rw [← List.foldl_append, ← List.foldl_append]
  exact List.perm_append_comm.foldl_eq' (fun x _ y _ m => amaxStep_right_comm m x y) m

theorem foldl_amaxStep_nan (m : BitVec 32 × Bool) (xs : List Nat) :
    (xs.foldl amaxStep m).2 = (m.2 || xs.any (fun x => (fval fp32 x).isNan)) := by
  induction xs generalizing m with
  | nil => simp
  | cons x xs ih => rw [List.foldl_cons, ih, amaxStep_nan, List.any_cons, Bool.or_assoc]

theorem le_foldl_amaxStep (m : BitVec 32 × Bool) (xs : List Nat) : m.1.toNat ≤ (xs.foldl amaxStep m).1.toNat := by
  induction xs generalizing m with
  | nil => exact Nat.le_refl _
  | cons x xs ih => exact Nat.le_trans (amaxStep_max m x ▸ Nat.le_max_left ..) (ih _)

theorem magnitude_le_foldl_amaxStep (m : BitVec 32 × Bool) {xs : List Nat} {x : Nat} (hx : x ∈ xs) :
    magnitude x ≤ (xs.foldl amaxStep m).1.toNat := by
  obtain ⟨ys, zs, rfl⟩ := List.append_of_mem hx
  rw [List.foldl_append, List.foldl_cons]
  exact Nat.le_trans (amaxStep_max _ x ▸ Nat.le_max_right ..) (le_foldl_amaxStep _ zs)

/-- AMAX is what it was, or the magnitude of a value that is no NaN. -/
theorem amaxStep_attained (m : BitVec 32 × Bool) (x : Nat) :
    (amaxStep m x).1 = m.1 ∨ (fval fp32 x).isNan = false ∧ (amaxStep m x).1.toNat = x % 2 ^ 31 := by
  have hlt : x % 2 ^ 31 < 2 ^ 32 := by omega
  unfold amaxStep
  split
  next => exact .inl rfl
  next hn =>
    split
    next => exact .inr ⟨eq_false_of_ne_true hn, (BitVec.toNat_ofNat ..).trans (Nat.mod_eq_of_lt hlt)⟩
    next => exact .inl rfl

theorem foldl_amaxStep_attained (m : BitVec 32 × Bool) (xs : List Nat) :
    (xs.foldl amaxStep m).1 = m.1 ∨ ∃ x ∈ xs, (fval fp32 x).isNan = false ∧ (xs.foldl amaxStep m).1.toNat = x % 2 ^ 31 := by
  induction xs generalizing m with
  | nil => exact .inl rfl
  | cons x xs ih =>
    rw [List.foldl_cons]
    rcases ih (amaxStep m x) with hstep | ⟨y, hy, hval⟩
    · rw [hstep]
      exact (amaxStep_attained m x).imp_right fun hval => ⟨x, List.mem_cons_self, hval⟩
    · exact .inr ⟨y, List.mem_cons_of_mem x hy, hval⟩

/-- Two updates of a warp, in either order. -/
theorem raise_comm (w : Warp) (f g : FlagBits) (xs ys : List Nat) : (w.raise f xs).raise g ys = (w.raise g ys).raise f xs := by
  have hflags : w.flags ||| f ||| g = w.flags ||| g ||| f := by rw [BitVec.or_assoc, BitVec.or_comm f g, BitVec.or_assoc]
  unfold Warp.raise
  dsimp only
  rw [hflags, foldl_amaxStep_comm]

/-! ### The statement -/

theorem eb_pos_of_mem {f : Fmt} (h : f ∈ [fp64, fp32, bf16, fp16]) : 0 < f.eb := by
  revert f
  decide

/-- Settles O8: results by the lemma of each operation, updates by what a fold of maxima and disjunctions gives. -/
theorem naNsAndFlags : Obligations.NaNsAndFlags := by
  unfold Obligations.NaNsAndFlags
  refine ⟨fun f hf m a b c => ?_, fun w f g xs ys => ?_⟩
  · have hf := eb_pos_of_mem hf
    exact ⟨nanCanonical_opAdd hf, nanCanonical_opSub hf, nanCanonical_opMul hf, nanCanonical_opMin, nanCanonical_opMax,
      nanCanonical_opAbs, nanCanonical_opNeg, nanCanonical_opRint hf, fun _ _ => nanCanonical_opFma hf,
      fun _ _ => ⟨nanCanonical_convert hf, convert_bits_of_isNan⟩, fun _ _ => nanCanonical_sfu, fun _ _ => nanCanonical_seFp32,
      fun h => ⟨opMin_bits_of_isNan h, opMax_bits_of_isNan h⟩⟩
  · refine ⟨fun k => BitVec.getLsbD_or, le_foldl_amaxStep (w.amax, w.amaxnan) xs, fun x hx hn => ?_,
      foldl_amaxStep_attained (w.amax, w.amaxnan) xs, foldl_amaxStep_nan (w.amax, w.amaxnan) xs, raise_comm w f g xs ys⟩
    have hmag : magnitude x = x % 2 ^ 31 := by simp [magnitude, hn]
    exact hmag ▸ magnitude_le_foldl_amaxStep (w.amax, w.amaxnan) hx

end Sys2Proof.Proofs.Nans
end

section
/-! PROOFS. Integer and uniform instructions (R86 to R97, R104): each function of the model as the number its rule gives, at every
width, then each word by its shape: lane results of one, two or three sources, and uniform results. -/

namespace Sys2Proof.Proofs.Integers

open Sys2Proof.Machine Sys2Proof.Safety Sys2Proof.Laws

/-! ### The functions of R89 on numbers, at every width -/

section
variable {n : Nat} (x y : BitVec n)

theorem toInt_eq_signed : x.toInt = signed n x.toNat := by
  have hlt := x.isLt
  unfold signed
  rw [BitVec.toInt_eq_toNat_cond]
  cases n with
  | zero => simp at hlt; simp [hlt]
  | succ n =>
    have half : 2 * x.toNat < 2 ^ (n + 1) ↔ x.toNat < 2 ^ (n + 1 - 1) := by
      rw [Nat.add_sub_cancel, Nat.pow_succ]
      omega
    simp only [half]

theorem fnAdd_eq : fnAdd x y = BitVec.ofNat n (x.toNat + y.toNat) := rfl

theorem fnSub_eq : fnSub x y = BitVec.ofNat n (x.toNat + 2 ^ n - y.toNat) := by
  have rearranged : x.toNat + 2 ^ n - y.toNat = 2 ^ n - y.toNat + x.toNat := by
    have := y.isLt
    omega
  rw [rearranged, fnSub, BitVec.sub_def]

theorem fnMul_eq : fnMul x y = BitVec.ofNat n (x.toNat * y.toNat) := rfl

theorem fnMin_eq : fnMin x y = BitVec.ofNat n (if signed n x.toNat < signed n y.toNat then x.toNat else y.toNat) := by
  simp only [fnMin, toInt_eq_signed, apply_ite (BitVec.ofNat n), BitVec.ofNat_toNat, BitVec.setWidth_eq]

theorem fnMax_eq : fnMax x y = BitVec.ofNat n (if signed n x.toNat > signed n y.toNat then x.toNat else y.toNat) := by
  simp only [fnMax, toInt_eq_signed, apply_ite (BitVec.ofNat n), BitVec.ofNat_toNat, BitVec.setWidth_eq]

theorem fnMinu_eq : fnMinu x y = BitVec.ofNat n (if x.toNat < y.toNat then x.toNat else y.toNat) := by
  simp only [fnMinu, apply_ite (BitVec.ofNat n), BitVec.ofNat_toNat, BitVec.setWidth_eq]

theorem fnMaxu_eq : fnMaxu x y = BitVec.ofNat n (if x.toNat > y.toNat then x.toNat else y.toNat) := by
  simp only [fnMaxu, apply_ite (BitVec.ofNat n), BitVec.ofNat_toNat, BitVec.setWidth_eq]

theorem eq_zero_iff_toNat : y = 0 ↔ y.toNat = 0 := by
  rw [← BitVec.toNat_inj]
  simp

theorem allOnes_eq_ofNat : BitVec.allOnes n = BitVec.ofNat n (2 ^ n - 1) := BitVec.ofNatLT_eq_ofNat _

/-- Division by zero gives all ones. -/
theorem fnDivu_eq : fnDivu x y = BitVec.ofNat n (if y.toNat = 0 then 2 ^ n - 1 else x.toNat / y.toNat) := by
  simp only [fnDivu, eq_zero_iff_toNat, allOnes_eq_ofNat, apply_ite (BitVec.ofNat n)]

/-- Division by zero leaves the dividend. -/
theorem fnRemu_eq : fnRemu x y = BitVec.ofNat n (if y.toNat = 0 then x.toNat else x.toNat % y.toNat) := by
  simp only [fnRemu, eq_zero_iff_toNat, apply_ite (BitVec.ofNat n), BitVec.ofNat_toNat, BitVec.setWidth_eq]

theorem fnAnd_eq : fnAnd x y = BitVec.ofNat n (x.toNat &&& y.toNat) := by
  simp [fnAnd]

theorem fnOr_eq : fnOr x y = BitVec.ofNat n (x.toNat ||| y.toNat) := by
  simp [fnOr]

theorem fnXor_eq : fnXor x y = BitVec.ofNat n (x.toNat ^^^ y.toNat) := by
  simp [fnXor]

theorem fnAndn_eq : fnAndn x y = BitVec.ofNat n (x.toNat &&& (2 ^ n - 1 - y.toNat)) := by
  rw [← BitVec.toNat_not, BitVec.ofNat_and, BitVec.ofNat_toNat, BitVec.ofNat_toNat, BitVec.setWidth_eq, BitVec.setWidth_eq, fnAndn]

theorem shiftLeft_eq_ofNat (k : Nat) : x <<< k = BitVec.ofNat n (x.toNat * 2 ^ k) :=
  BitVec.eq_of_toNat_eq (by simp [Nat.shiftLeft_eq])

theorem ushiftRight_eq_ofNat (k : Nat) : x >>> k = BitVec.ofNat n (x.toNat / 2 ^ k) := by
  rw [← Nat.shiftRight_eq_div_pow, ← BitVec.toNat_ushiftRight, BitVec.ofNat_toNat, BitVec.setWidth_eq]

theorem fnShl_eq : fnShl x y = BitVec.ofNat n (x.toNat * 2 ^ (y.toNat % n)) := shiftLeft_eq_ofNat x _

theorem fnShr_eq : fnShr x y = BitVec.ofNat n (x.toNat / 2 ^ (y.toNat % n)) := ushiftRight_eq_ofNat x _

theorem ofInt_eq_ofNat (k : Int) : BitVec.ofInt n k = BitVec.ofNat n (k % 2 ^ n).toNat := BitVec.ofNatLT_eq_ofNat _

theorem fnSar_eq : fnSar x y = BitVec.ofNat n ((signed n x.toNat / 2 ^ (y.toNat % n) % 2 ^ n).toNat) := by
  rw [fnSar, BitVec.sshiftRight_eq, ofInt_eq_ofNat, Int.shiftRight_eq_div_pow, toInt_eq_signed]
  rfl

/-- Counting by a fold is the length of what the filter keeps. -/
theorem foldl_count_eq_length_filter (p : Nat → Bool) (ks : List Nat) (m : Nat) :
    ks.foldl (fun c k => if p k then c + 1 else c) m = m + (ks.filter p).length := by
  induction ks generalizing m with
  | nil => rfl
  | cons k ks ih =>
    rw [List.foldl_cons, ih, List.filter_cons]
    cases p k
    · simp
    · simp only [if_true, List.length_cons]
      omega

theorem fnPopc_eq : fnPopc x y = BitVec.ofNat n ((List.range n).filter (fun k => x.toNat.testBit k)).length :=
  congrArg (BitVec.ofNat n) ((foldl_count_eq_length_filter x.getLsbD _ 0).trans (Nat.zero_add _))

theorem range_reverse_eq_map : (List.range n).reverse = (List.range n).map (fun k => n - 1 - k) :=
  List.ext_getElem (by simp) (by simp)

theorem fnClz_eq :
    fnClz x y = BitVec.ofNat n ((List.range n).takeWhile (fun k => !x.toNat.testBit (n - 1 - k))).length := by
  unfold fnClz clz
  rw [range_reverse_eq_map, List.takeWhile_map, List.length_map]
  rfl

theorem fnCtz_eq : fnCtz x y = BitVec.ofNat n ((List.range n).takeWhile (fun k => !x.toNat.testBit k)).length := rfl

theorem fnBfx_eq : fnBfx x y =
    BitVec.ofNat n (x.toNat / 2 ^ (y.toNat % n) % 2 ^ Nat.min (y.toNat / 256 % 128) (n - y.toNat % n)) := rfl

end

/-! ### The words of R89 -/

/-- f computes, at the two widths of R88, what g gives on the patterns of the operands. -/
def Computes (f : {n : Nat} → BitVec n → BitVec n → BitVec n) (g : Nat → Nat → Nat → Nat) : Prop :=
  ∀ n, n = 32 ∨ n = 64 → ∀ x y : BitVec n, f x y = BitVec.ofNat n (g n x.toNat y.toNat)

theorem atWidth_eq_atWidthN {f : {n : Nat} → BitVec n → BitVec n → BitVec n} {g : Nat → Nat → Nat → Nat} (h : Computes f g)
    (w : BitVec 1) (a b : Word) : atWidth w f a b = atWidthN w g a b := by
  unfold atWidth atWidthN
  rw [h 32 (.inl rfl), h 64 (.inr rfl), BitVec.toNat_setWidth, BitVec.toNat_setWidth]

section
variable {i : Instr} {d : BitVec 6} {a b : BitVec 7} {w : BitVec 1} {f : {n : Nat} → BitVec n → BitVec n → BitVec n}

theorem alu_completes {g : Nat → Nat → Nat → Nat} (h : Computes f g) (he : ∀ s, exec i s = alu d a b w f s) :
    Completes i (lane2 d a b) (givesEach d (fun s j l => atWidthN w g (j.val s l a) (j.val s l b))) :=
  laneResult_completes (lane2 d a b) he (fun _ _ => rfl) (fun _ _ _ _ => atWidth_eq_atWidthN h ..)

theorem alu1_completes {g : Nat → Nat → Nat} (h : Computes f (fun n x _ => g n x)) (he : ∀ s, exec i s = alu1 d a w f s) :
    Completes i (lane1 d a) (givesEach d (fun s j l => atWidthN w (fun n x _ => g n x) (j.val s l a) 0)) :=
  laneResult_completes (lane1 d a) he (fun _ _ => rfl) (fun _ _ _ _ => atWidth_eq_atWidthN h ..)

end

/-- The shift count of R89: the low 6 bits at width 64, the low 5 at width 32. -/
def countAt (n y : Nat) : Nat := if n = 64 then y % 64 else y % 32

theorem countAt_eq_mod {n : Nat} (h : n = 32 ∨ n = 64) (y : Nat) : countAt n y = y % n := by
  rcases h with rfl | rfl <;> rfl

theorem shl_computes : Computes fnShl (fun n x y => x * 2 ^ countAt n y) :=
  fun _ h x y => by simp only [countAt_eq_mod h, fnShl_eq]

theorem shr_computes : Computes fnShr (fun n x y => x / 2 ^ countAt n y) :=
  fun _ h x y => by simp only [countAt_eq_mod h, fnShr_eq]

theorem sar_computes : Computes fnSar (fun n x y => ((signed n x / 2 ^ countAt n y) % 2 ^ n).toNat) :=
  fun _ h x y => by simp only [countAt_eq_mod h, fnSar_eq]

theorem bfx_computes :
    Computes fnBfx (fun n x y => x / 2 ^ countAt n y % 2 ^ Nat.min (y / 256 % 128) (n - countAt n y)) :=
  fun _ h x y => by simp only [countAt_eq_mod h, fnBfx_eq]

/-- Settles O1: each word applies, in each lane, a function that its lemma above gives on numbers at both widths. -/
theorem integerArithmetic : Obligations.IntegerArithmetic := by
  unfold Obligations.IntegerArithmetic
  intro d a b w gives2 gives1 sh
  exact ⟨alu_completes (fun _ _ => fnAdd_eq) fun _ => rfl, alu_completes (fun _ _ => fnSub_eq) fun _ => rfl,
    alu_completes (fun _ _ => fnMul_eq) fun _ => rfl, alu_completes (fun _ _ _ _ => rfl) fun _ => rfl,
    alu_completes (fun _ _ => fnMin_eq) fun _ => rfl, alu_completes (fun _ _ => fnMax_eq) fun _ => rfl,
    alu_completes (fun _ _ => fnMinu_eq) fun _ => rfl, alu_completes (fun _ _ => fnMaxu_eq) fun _ => rfl,
    alu_completes (fun _ _ => fnDivu_eq) fun _ => rfl, alu_completes (fun _ _ => fnRemu_eq) fun _ => rfl,
    alu_completes (fun _ _ => fnAnd_eq) fun _ => rfl, alu_completes (fun _ _ => fnOr_eq) fun _ => rfl,
    alu_completes (fun _ _ => fnXor_eq) fun _ => rfl, alu_completes (fun _ _ => fnAndn_eq) fun _ => rfl,
    alu_completes shl_computes fun _ => rfl,
    alu_completes shr_computes fun _ => rfl,
    alu_completes sar_computes fun _ => rfl,
    alu1_completes (fun _ _ => fnPopc_eq) fun _ => rfl, alu1_completes (fun _ _ => fnClz_eq) fun _ => rfl,
    alu1_completes (fun _ _ => fnCtz_eq) fun _ => rfl,
    alu_completes bfx_computes fun _ => rfl⟩

/-! ### Three sources (R92, R104) and selection (R94) -/

section
variable {i : Instr} {d : BitVec 6} {a b : BitVec 7}

theorem lane3_completes {c : BitVec 4} {f g : Word → Word → Word → Word} (h : ∀ x y z, f x y z = g x y z)
    (he : ∀ s, exec i s = lane3 d a b c f s) :
    Completes i (laneQ d a b c) (givesEach d (fun s j l => g (j.val s l a) (j.val s l b) (j.val s l (queueSpec c)))) :=
  laneResult_completes (laneQ d a b c) he (fun _ _ => rfl) (fun _ _ _ _ => h ..)

theorem guard_iff (x : Lane) (g : BitVec 3) : x.guard g = true ↔ g = 0 ∨ x.guards.getLsbD g.toNat = true := by
  simp [Lane.guard]

/-- A word that selects by a guard: one source where the lane's guard is true, the other where it is false. -/
theorem select_completes {g : BitVec 3} {x y : BitVec 7}
    (he : ∀ s, exec i s = laneResult s d (fun _ => { srcs := [a, b], dst := [d] })
      (fun j l => if (j.w.lane l).guard g then j.val s l x else j.val s l y)) :
    Completes i (lane2 d a b) (givesEach d (fun s j l =>
      if g = 0 ∨ (j.w.lane l).guards.getLsbD g.toNat then j.val s l x else j.val s l y)) :=
  laneResult_completes (lane2 d a b) he (fun _ _ => rfl) (fun s j l _ => by simp only [guard_iff])

end

theorem fnMadW_eq (x y z : Word) :
    fnMadW x y z = (BitVec.ofNat 32 (x.toNat % 2 ^ 32 * (y.toNat % 2 ^ 32) + z.toNat % 2 ^ 32)).signExtend 64 := by
  simp only [← BitVec.toNat_setWidth, BitVec.ofNat_add, BitVec.ofNat_mul, BitVec.ofNat_toNat, BitVec.setWidth_eq, fnMadW]

theorem fnMadD_eq (x y z : Word) : fnMadD x y z = BitVec.ofNat 64 (x.toNat * y.toNat + z.toNat) := by
  simp only [BitVec.ofNat_add, BitVec.ofNat_mul, BitVec.ofNat_toNat, BitVec.setWidth_eq, fnMadD]

theorem fnShadd_eq (x y z : Word) : fnShadd x y z = BitVec.ofNat 64 (x.toNat * 2 ^ (y.toNat % 64) + z.toNat) := by
  simp only [BitVec.ofNat_add, ← shiftLeft_eq_ofNat, BitVec.ofNat_toNat, BitVec.setWidth_eq, fnShadd]

theorem ofNat_shiftLeft (n m k : Nat) : BitVec.ofNat n m <<< k = BitVec.ofNat n (m * 2 ^ k) := by
  rw [shiftLeft_eq_ofNat]
  exact BitVec.eq_of_toNat_eq (by simp)

theorem fnBfi_eq (x y z : Word) : fnBfi x y z =
    let pos := y.toNat % 64
    let mask := (BitVec.ofNat 64 (2 ^ Nat.min (y.toNat / 256 % 128) (64 - pos) - 1)) <<< pos
    (z &&& ~~~mask) ||| ((x <<< pos) &&& mask) := by
  simp only [ofNat_shiftLeft]
  rfl

/-- A byte of a source, sign-extended, is its signed value. -/
theorem signExtend_byte (x : Word) (k : Nat) :
    (x.extractLsb' (8 * k) 8).signExtend 32 = BitVec.ofInt 32 (signed 8 (x.toNat / 2 ^ (8 * k) % 256)) := by
  rw [BitVec.signExtend, toInt_eq_signed, BitVec.extractLsb'_toNat, Nat.shiftRight_eq_div_pow]

theorem setWidth_eq_ofInt_signed (z : Word) : z.setWidth 32 = BitVec.ofInt 32 (signed 32 (z.toNat % 2 ^ 32)) := by
  rw [← BitVec.toNat_setWidth, ← toInt_eq_signed, BitVec.ofInt_toInt]

theorem fnDot4_eq (x y z : Word) : fnDot4 x y z =
    let byte := fun (x : Word) (k : Nat) => signed 8 (x.toNat / 2 ^ (8 * k) % 256)
    BitVec.signExtend 64 (BitVec.ofInt 32 (byte x 0 * byte y 0 + byte x 1 * byte y 1 + byte x 2 * byte y 2 + byte x 3 * byte y 3
      + signed 32 (z.toNat % 2 ^ 32))) := by
  simp only [fnDot4, BitVec.ofInt_add, BitVec.ofInt_mul, ← signExtend_byte, ← setWidth_eq_ofInt_signed]

/-- Settles O3: five functions of three sources, each with its lemma above, and two selections. -/
theorem threeSources : Obligations.ThreeSources := by
  unfold Obligations.ThreeSources
  intro d a b c g gives picks low byte
  have three {i f f'} (h : ∀ x y z, f x y z = f' x y z) (he : ∀ s, exec i s = lane3 d a b c f s) : gives i f' := lane3_completes h he
  -- Opaque from here on: a word's function is read off its statement, not off its value at the operands.
  clear_value gives
  exact ⟨three fnMadW_eq fun _ => rfl, three fnMadD_eq fun _ => rfl, three fnShadd_eq fun _ => rfl, three fnBfi_eq fun _ => rfl,
    three fnDot4_eq fun _ => rfl, select_completes fun _ => rfl, select_completes fun _ => rfl⟩

/-! ### Uniform instructions (R95, R96) -/

section
variable {i : Instr} {d : BitVec 5} {a b : BitVec 7} {m : BitVec 10}

theorem ualu_completes {f g : Word → Word → Word} (h : ∀ x y, f x y = g x y) (he : ∀ s, exec i s = ualu d a b f s) :
    Completes i (fun _ _ => { uni := [a, b] })
      (fun s j => { j.w with s := mput {} j.w.s d.toNat (clean (g (j.uval s a) (j.uval s b))) }) :=
  uniformResult_completes (fun _ _ => { uni := [a, b] }) he (fun _ _ => rfl) (fun _ _ _ => h ..)

theorem uimm_completes {f g : Word → Word → Word} (h : ∀ x v, f x v = g x v) (he : ∀ s, exec i s = uimm d a m f s) :
    Completes i (fun _ _ => { uni := [a], imm := some m })
      (fun s j => { j.w with s := mput {} j.w.s d.toNat (clean (g (j.uvalImm s a m) (j.imm m))) }) :=
  uniformResult_completes (fun _ _ => { uni := [a], imm := some m }) he (fun _ _ => rfl) (fun _ _ _ => h ..)

theorem uimmShift_completes {f : Word → Nat → Word} {g : Nat → Nat → Nat} (h : ∀ x k, f x k = BitVec.ofNat 64 (g x.toNat k))
    (he : ∀ s, exec i s = uimmShift d a m f s) :
    Completes i (fun _ j => { uni := [a], imm := some m, legal := decide ((j.imm m).toNat < 64) })
      (fun s j => { j.w with s := mput {} j.w.s d.toNat (clean (BitVec.ofNat 64 (g (j.uvalImm s a m).toNat (j.imm m).toNat))) }) :=
  uniformResult_completes (fun _ j => { uni := [a], imm := some m, legal := decide ((j.imm m).toNat < 64) }) he (fun _ _ => rfl)
    (fun _ _ _ => h ..)

/-- UX (R97): where the lane that is read holds a settled value, that value goes into the uniform register; where no lane is read, 0
does. -/
theorem ux_completes {uni : List (BitVec 7)} {pick : State → Iss → Option Nat} {p : State → Iss → Prop} {v : State → Iss → RVal}
    (he : ∀ s, exec i s = ux d a uni (pick s) s) (hnone : ∀ s j, p s j → pick s j = none → v s j = clean 0)
    (hsome : ∀ s j l, p s j → pick s j = some l →
      v s j = j.readSpec s none l a ∧ (v s j).pend = none ∧ (v s j).poison = false) :
    CompletesIf i (fun _ _ => { uni := uni, also := [a] }) p (fun s j => j.w.setS d.toNat (v s j)) := by
  refine next_completes _ _ (fun s j => j.w.setS d.toNat (v s j)) he (fun _ _ => rfl) (fun s j _ hp => ?_) (fun _ _ _ _ => rfl)
    (fun _ _ => ⟨rfl, rfl, fun _ => rfl, fun _ => rfl⟩)
  cases hl : pick s j with
  | none => simp only [hnone s j hp hl]
  | some l =>
    obtain ⟨hv, hpend, hpoison⟩ := hsome s j l hp hl
    simp only [← hv, hpend, hpoison, Option.isSome_none, Bool.false_eq_true, if_false]

end

theorem fnDivu_eq_ite_ofNat (x y : Word) :
    fnDivu x y = if y.toNat = 0 then BitVec.ofNat 64 (2 ^ 64 - 1) else BitVec.ofNat 64 (x.toNat / y.toNat) := by
  rw [fnDivu_eq, apply_ite (BitVec.ofNat 64)]

/-- UREADL (R97): what virtual lane b[4:0] of the issuing set holds, 0 where it is not of the set. -/
theorem ureadl_completes (d : BitVec 5) (a b : BitVec 7) :
    CompletesIf (.ureadl d a b) (fun _ _ => { uni := [b], also := [a] })
      (fun s j => (j.uval s b).toNat % 32 ∈ j.lanes →
        (j.readSpec s none ((j.uval s b).toNat % 32) a).pend = none ∧ (j.readSpec s none ((j.uval s b).toNat % 32) a).poison = false)
      (fun s j => j.w.setS d.toNat
        (if (j.uval s b).toNat % 32 ∈ j.lanes then j.readSpec s none ((j.uval s b).toNat % 32) a else clean 0)) := by
  refine ux_completes (pick := fun s j => if j.lanes.elem ((j.uval s b).toNat % 32) then some ((j.uval s b).toNat % 32) else none)
    (fun _ => rfl) (fun s j _ hpick => ?_) (fun s j l hp hpick => ?_)
  · have absent : (j.uval s b).toNat % 32 ∉ j.lanes := by simpa using hpick
    exact if_neg absent
  · obtain ⟨present, rfl⟩ : (j.uval s b).toNat % 32 ∈ j.lanes ∧ (j.uval s b).toNat % 32 = l := by simpa using hpick
    rw [if_pos present]
    exact ⟨rfl, hp present⟩

/-- UFIRST (R97): what the lowest virtual lane of the issuing set holds. -/
theorem ufirst_completes (d : BitVec 5) (a : BitVec 7) :
    CompletesIf (.ufirst d a) (fun _ _ => { also := [a] })
      (fun s j => j.lanes ≠ [] ∧
        (j.readSpec s none (j.lanes.headD 0) a).pend = none ∧ (j.readSpec s none (j.lanes.headD 0) a).poison = false)
      (fun s j => j.w.setS d.toNat (j.readSpec s none (j.lanes.headD 0) a)) := by
  refine ux_completes (pick := fun _ j => j.lanes.head?) (fun _ => rfl) (fun s j hp hpick => ?_) (fun s j l hp hpick => ?_)
  · exact absurd (List.head?_eq_none_iff.mp hpick) hp.1
  · have first : j.lanes.headD 0 = l := by rw [List.headD_eq_head?_getD, hpick]; rfl
    exact ⟨by rw [first], hp.2⟩

/-- Settles O4: words of two uniform sources, of a source and an immediate, and shifts by an immediate, each with the function's lemma
above; then the two words that read a lane. -/
theorem uniformInstructions : Obligations.UniformInstructions := by
  unfold Obligations.UniformInstructions
  intro q d a b m flag settled into gives2 givesI shifts
  have two {i f g} (h : ∀ x y, f x y = g x y) (he : ∀ s, exec i s = ualu d a b f s) : gives2 i g := ualu_completes h he
  have immediate {i f g} (h : ∀ x v, f x v = g x v) (he : ∀ s, exec i s = uimm d a m f s) : givesI i g := uimm_completes h he
  have shift {i f g} (h : ∀ x k, f x k = BitVec.ofNat 64 (g x.toNat k)) (he : ∀ s, exec i s = uimmShift d a m f s) : shifts i g :=
    uimmShift_completes h he
  -- Opaque, as in O3.
  clear_value gives2 givesI shifts
  exact ⟨two fnAdd_eq fun _ => rfl, two fnSub_eq fun _ => rfl, two fnMul_eq fun _ => rfl,
    two (fun _ _ => rfl) fun _ => rfl, two (fun _ _ => rfl) fun _ => rfl,
    two (fun _ _ => rfl) fun _ => rfl, two (fun _ _ => rfl) fun _ => rfl,
    two fnShl_eq fun _ => rfl, two fnShr_eq fun _ => rfl,
    two (fun _ _ => rfl) fun _ => rfl, two (fun _ _ => rfl) fun _ => rfl,
    two (fun _ _ => rfl) fun _ => rfl, two fnDivu_eq_ite_ofNat fun _ => rfl,
    immediate fnAdd_eq fun _ => rfl, immediate (fun _ _ => rfl) fun _ => rfl,
    immediate (fun _ _ => rfl) fun _ => rfl, immediate (fun _ _ => rfl) fun _ => rfl,
    shift shiftLeft_eq_ofNat fun _ => rfl, shift ushiftRight_eq_ofNat fun _ => rfl,
    ureadl_completes d a b, ufirst_completes d a⟩

end Sys2Proof.Proofs.Integers
end

section
/-! PROOFS. Special functions, block quantisation and its inverse (R108 to R112): each word is one of three shapes, an SFU function of
each lane's operand, the quantisation of the warp's lanes as one block, or the decoding of each lane's own element. -/

namespace Sys2Proof.Proofs.SpecialFunctions

open Sys2Proof.Machine Sys2Proof.Safety Sys2Proof.Laws Sys2Proof.Proofs.Floats

section
variable {i : Instr} {d : BitVec 6} {a : BitVec 7}

/-- An SFU function of one FP32 operand, in the grade of r (R108 to R110). -/
theorem fp1_of_special {fn : Sfu} {r : BitVec 1} (he : ∀ s, exec i s = special fn d a r s) :
    fp1 i true false (fun _ x => sfu fn (r == 1) x) d a :=
  fpOut_of_floatResult he (fun _ _ _ _ => ⟨rfl, rfl⟩) (fun _ _ _ => rfl)

/-! ### Shared-exponent blocks (R111, R112) -/

/-- What an issue of QSE quantises (R111): the FP32 operands of its lanes, and +0 for every other lane of the warp. -/
def blockInput (s : State) (j : Iss) (a : BitVec 7) : List Nat :=
  (List.range 32).map (fun l => if l ∈ j.lanes then lo32 (j.val s l a) else 0)

theorem blockInput_eq_map_elem (s : State) (j : Iss) (a : BitVec 7) :
    blockInput s j a = (List.range 32).map (fun l => if j.lanes.elem l then j.low s l 32 a else 0) := by
  simp only [blockInput, List.elem_iff, low_32_eq_lo32]

/-- A lane's result of QSE: the scale word above the lane's own code (R111). -/
def blockWord (q : SeBlock) (l : Nat) : Word := BitVec.ofNat 64 (q.scale * 2 ^ 16 + q.codes.getD l 0)

/-- QSE of element width b: scale and code in each lane of the set, the block's flags, and the operands of the set to AMAX; nothing
else. -/
theorem completes_of_quantiseWarp {b : Nat} (he : ∀ s, exec i s = quantiseWarp b d a s) :
    Completes i (fun _ _ => { srcs := [a], dst := [d], nf := true }) (fun s j =>
      (givesEach d (fun _ _ l => blockWord (quantise b (blockInput s j a)) l) s j).raise
        (if j.noflag then 0 else (quantise b (blockInput s j a)).flags) (j.lanes.map (fun l => lo32 (j.val s l a)))) := by
  refine next_completes _ _ _ he (fun _ _ => rfl) (fun _ _ _ _ => rfl) (fun s j _ _ => ?value)
    (fun _ _ => modLanes_places _ _ _ (fun _ _ => ⟨rfl, rfl⟩))
  case value =>
    simp only [blockInput_eq_map_elem, result_pushed]
    rfl

/-- DQSE of element width b: each lane's own element, and no flag (R112). -/
theorem completes_of_dequantise {b : Nat} (he : ∀ s, exec i s = dequantise b d a s) :
    Completes i (lane1 d a) (givesEach d (fun s j l =>
      BitVec.ofNat 64 (seFp32 b (lo32 (j.val s l a) / 2 ^ 16) (lo32 (j.val s l a) % 2 ^ b) l))) :=
  laneResult_completes (lane1 d a) he (fun _ _ => rfl) (fun _ _ _ _ => rfl)

end

/-! ### The statement -/

/-- Settles O7, by the shape of each word: ten special functions, three quantisations, and three decodings. -/
theorem specialAndBlocks : Obligations.SpecialAndBlocks := by
  unfold Obligations.SpecialAndBlocks
  intro d a r fn quant back
  have special {i f} (he : ∀ s, exec i s = special f d a r s) : fn i f := fp1_of_special he
  have block {i b} (he : ∀ s, exec i s = quantiseWarp b d a s) : quant i b := completes_of_quantiseWarp he
  have element {i b} (he : ∀ s, exec i s = dequantise b d a s) : back i b := completes_of_dequantise he
  exact ⟨special fun _ => rfl, special fun _ => rfl, special fun _ => rfl, special fun _ => rfl, special fun _ => rfl,
    special fun _ => rfl, special fun _ => rfl, special fun _ => rfl, special fun _ => rfl, special fun _ => rfl,
    block fun _ => rfl, block fun _ => rfl, block fun _ => rfl,
    element fun _ => rfl, element fun _ => rfl, element fun _ => rfl⟩

end Sys2Proof.Proofs.SpecialFunctions
end
